-- ==== Sys2Proof/Word.lean ====
section
/-! DEFINITION. The widths the manual gives its fields, and the plainest arithmetic on them. -/

namespace Sys2Proof

/-- One byte of the supervisory line or of a stored image. -/
abbrev Byte := BitVec 8

/-- Sixteen bits: a head setting, an input or output word, a CRC. -/
abbrev Half := BitVec 16

/-- One head link slot of 24 bits (R24, R195). -/
abbrev Slot := BitVec 24

/-- A 32-bit count or item value: frame_no (R24), a timestamp (R190), a plan item (R194). -/
abbrev Word := BitVec 32

/-- The low byte of a natural number. -/
def byteOf (n : Nat) : Byte := BitVec.ofNat 8 n

/-- A yes/no field: 1 for yes and 0 for no (R193). -/
def flagByte (b : Bool) : Byte := if b then 1 else 0

end Sys2Proof
end

