-- ==== Sys2Proof/Syntax.lean ====
section
/-! DEFINITION. The names of the fixed switchboard (R1 to R8), records indexed by them, and the commands of
the part: one constructor of `Instr` per row of spec/opcode_table.json, each with the row's operands. -/

namespace Sys2Proof

/-- A bus section, BUS1 or BUS2, and the sequencer that serves it. -/
inductive Sec | sec1 | sec2
  deriving DecidableEq, Repr

/-- A source, SRC1 to SRC4; source n is what incomer BKn connects (R1). -/
inductive Src | src1 | src2 | src3 | src4
  deriving DecidableEq, Repr

/-- A breaker channel: the incomers BK1 to BK4 and the tie BKT (R2). -/
inductive Chan | bk1 | bk2 | bk3 | bk4 | bkt
  deriving DecidableEq, Repr

/-- A measurement point (R1): the four source points and the two bus points. -/
inductive Point | src (s : Src) | bus (b : Sec)
  deriving DecidableEq, Repr

/-- One of six: a head address 0 to 5, or an inbound line HL_IN0 to HL_IN5. -/
inductive Six | n0 | n1 | n2 | n3 | n4 | n5
  deriving DecidableEq, Repr

/-- A plan page, PAGE0 to PAGE3 (R10). -/
inductive PageNo | p0 | p1 | p2 | p3
  deriving DecidableEq, Repr

/-- A feeder; F01 is 0 and F24 is 23 (R8). -/
abbrev Feeder := Fin 24

/-- An entry of a section (R3). -/
inductive Entry | ownA | ownB | tie
  deriving DecidableEq, Repr

/-- An island by its members (R6). -/
inductive IslandId | bus1 | bus2 | both
  deriving DecidableEq, Repr

/-- Which of the two readiness inputs of a breaker a new level is for (R77). -/
inductive RdyRck | rdy | rck
  deriving DecidableEq, Repr

/-- The other section. -/
def Sec.other : Sec → Sec
  | .sec1 => .sec2
  | .sec2 => .sec1

/-- One value for each section. -/
structure BySec (α : Type) where
  sec1 : α
  sec2 : α
  deriving DecidableEq, Repr

/-- One value for each source. -/
structure BySrc (α : Type) where
  src1 : α
  src2 : α
  src3 : α
  src4 : α
  deriving DecidableEq, Repr

/-- One value for each breaker channel. -/
structure ByChan (α : Type) where
  bk1 : α
  bk2 : α
  bk3 : α
  bk4 : α
  bkt : α
  deriving DecidableEq, Repr

/-- One value for each measurement point. -/
structure ByPoint (α : Type) where
  srcs  : BySrc α
  buses : BySec α
  deriving DecidableEq, Repr

/-- One value for each head address, or for each inbound line. -/
structure BySix (α : Type) where
  n0 : α
  n1 : α
  n2 : α
  n3 : α
  n4 : α
  n5 : α
  deriving DecidableEq, Repr

/-- One value for each plan page. -/
structure ByPage (α : Type) where
  p0 : α
  p1 : α
  p2 : α
  p3 : α
  deriving DecidableEq, Repr

/-- The value held for one section. -/
def BySec.get {α : Type} (t : BySec α) : Sec → α
  | .sec1 => t.sec1
  | .sec2 => t.sec2

/-- One section's value replaced. -/
def BySec.set {α : Type} (t : BySec α) (i : Sec) (v : α) : BySec α :=
  match i with
  | .sec1 => { t with sec1 := v }
  | .sec2 => { t with sec2 := v }

/-- The same value for both sections. -/
def BySec.all {α : Type} (v : α) : BySec α := ⟨v, v⟩

/-- The value held for one source. -/
def BySrc.get {α : Type} (t : BySrc α) : Src → α
  | .src1 => t.src1
  | .src2 => t.src2
  | .src3 => t.src3
  | .src4 => t.src4

/-- One source's value replaced. -/
def BySrc.set {α : Type} (t : BySrc α) (i : Src) (v : α) : BySrc α :=
  match i with
  | .src1 => { t with src1 := v }
  | .src2 => { t with src2 := v }
  | .src3 => { t with src3 := v }
  | .src4 => { t with src4 := v }

/-- The same value for all four sources. -/
def BySrc.all {α : Type} (v : α) : BySrc α := ⟨v, v, v, v⟩

/-- The value held for one channel. -/
def ByChan.get {α : Type} (t : ByChan α) : Chan → α
  | .bk1 => t.bk1
  | .bk2 => t.bk2
  | .bk3 => t.bk3
  | .bk4 => t.bk4
  | .bkt => t.bkt

/-- One channel's value replaced. -/
def ByChan.set {α : Type} (t : ByChan α) (i : Chan) (v : α) : ByChan α :=
  match i with
  | .bk1 => { t with bk1 := v }
  | .bk2 => { t with bk2 := v }
  | .bk3 => { t with bk3 := v }
  | .bk4 => { t with bk4 := v }
  | .bkt => { t with bkt := v }

/-- Every channel's value put through one function. -/
def ByChan.map {α β : Type} (f : α → β) (t : ByChan α) : ByChan β :=
  ⟨f t.bk1, f t.bk2, f t.bk3, f t.bk4, f t.bkt⟩

/-- The same value for all five channels. -/
def ByChan.all {α : Type} (v : α) : ByChan α := ⟨v, v, v, v, v⟩

/-- The value held for one point. -/
def ByPoint.get {α : Type} (t : ByPoint α) : Point → α
  | .src s => t.srcs.get s
  | .bus b => t.buses.get b

/-- One point's value replaced. -/
def ByPoint.set {α : Type} (t : ByPoint α) (i : Point) (v : α) : ByPoint α :=
  match i with
  | .src s => { t with srcs := t.srcs.set s v }
  | .bus b => { t with buses := t.buses.set b v }

/-- The same value for all six points. -/
def ByPoint.all {α : Type} (v : α) : ByPoint α := ⟨BySrc.all v, BySec.all v⟩

/-- The value held for one of six. -/
def BySix.get {α : Type} (t : BySix α) : Six → α
  | .n0 => t.n0
  | .n1 => t.n1
  | .n2 => t.n2
  | .n3 => t.n3
  | .n4 => t.n4
  | .n5 => t.n5

/-- One of six replaced. -/
def BySix.set {α : Type} (t : BySix α) (i : Six) (v : α) : BySix α :=
  match i with
  | .n0 => { t with n0 := v }
  | .n1 => { t with n1 := v }
  | .n2 => { t with n2 := v }
  | .n3 => { t with n3 := v }
  | .n4 => { t with n4 := v }
  | .n5 => { t with n5 := v }

/-- The same value for all six. -/
def BySix.all {α : Type} (v : α) : BySix α := ⟨v, v, v, v, v, v⟩

/-- The value held for one page. -/
def ByPage.get {α : Type} (t : ByPage α) : PageNo → α
  | .p0 => t.p0
  | .p1 => t.p1
  | .p2 => t.p2
  | .p3 => t.p3

/-- One page's value replaced. -/
def ByPage.set {α : Type} (t : ByPage α) (i : PageNo) (v : α) : ByPage α :=
  match i with
  | .p0 => { t with p0 := v }
  | .p1 => { t with p1 := v }
  | .p2 => { t with p2 := v }
  | .p3 => { t with p3 := v }

/-- The same value for all four pages. -/
def ByPage.all {α : Type} (v : α) : ByPage α := ⟨v, v, v, v⟩

/-- Where a head sits: its address and its inbound line. -/
structure HeadPlace where
  addr : Six
  line : Six
  deriving DecidableEq, Repr

/-- A mapping of points to heads: the link map record and the discovered map (R23, R39). -/
abbrev LinkMap := ByPoint (Option HeadPlace)

/-- The nine inbound slots of one line in one frame (R24, R195). -/
structure InLine where
  tag : Slot
  s1  : Slot
  s2  : Slot
  s3  : Slot
  s4  : Slot
  s5  : Slot
  s6  : Slot
  s7  : Slot
  s8  : Slot
  deriving DecidableEq, Repr

/-- The raw levels of one channel's four inputs; true is asserted (R77). -/
structure ChanPins where
  aux : Bool
  rdy : Bool
  rck : Bool
  prt : Bool
  deriving DecidableEq, Repr

/-- The first samples taken at the release of RSTn (R78, R168); `blk` is BLKn asserted (low). -/
structure FirstSamples where
  chans : ByChan ChanPins
  blk   : Bool
  deriving DecidableEq, Repr

/-- The commands of the part: one constructor per row of spec/opcode_table.json.
The events of the board and of the head link come first; a supervisory request carries its frame's TAG and
its payload fields as sent, so that every value a supervisor can send has a meaning. -/
inductive Instr
  | resetAssert
  | resetRelease (baud : BitVec 2) (pins : FirstSamples)
  | storeLoadEnd
  | pageWriteEnd (good : Bool)
  | pointerWriteEnd (good : Bool)
  | linkMapWriteEnd (good : Bool)
  | activationTakesEffect
  | linkResetRelease
  | headFrameEnd (lines : BySix InLine)
  | headLost (p : Point)
  | recordStale (p : Point)
  | headReadComplete (data : Half)
  | headReadTimeout
  | headWritePosted
  | discoveryReadyEnd
  | discoveryReadSilent
  | pickExpiry (src : Src)
  | dropFastExpiry (src : Src)
  | auxAccepted (ch : Chan) (level : Bool)
  | prtAccepted (ch : Chan) (level : Bool)
  | rdyRckAccepted (ch : Chan) (which : RdyRck) (level : Bool)
  | closePulseEnd (ch : Chan)
  | tripPulseEnd (ch : Chan)
  | closeConfirmDeadline (ch : Chan)
  | tripConfirmDeadline (ch : Chan)
  | tReturnExpiry (sec : Sec)
  | tSyncWaitExpiry (sec : Sec)
  | tDecayMaxExpiry (sec : Sec)
  | tDeadExpiry (sec : Sec)
  | tOverlapExpiry (sec : Sec)
  | settleExpiry (sec : Sec)
  | blknAccepted (asserted : Bool)
  | restoreTimerExpiry (island : IslandId)
  | overloadTimerExpiry (island : IslandId)
  | coolDownExpiry (src : Src)
  | startTimerExpiry (src : Src)
  | alarmEnd
  | frameReceived (last : Byte)
  | frameByteTimeout
  | replySent
  | ping (tag : Byte)
  | statusGet (tag : Byte)
  | noticeGet (tag : Byte)
  | pointGet (tag point : Byte)
  | pairGetLast (tag incoming bus items : Byte)
  | pairGetNew (tag incoming bus items : Byte)
  | breakerGet (tag chan : Byte)
  | breakerOperateClose (tag chan : Byte)
  | breakerOperateTrip (tag chan : Byte)
  | breakerOperateStop (tag chan : Byte)
  | channelClear (tag chan : Byte)
  | sectionGet (tag sec : Byte)
  | modeSetManual (tag sec : Byte)
  | modeSetAuto (tag sec : Byte)
  | blockSet (tag value : Byte)
  | transferRequest (tag sec entry : Byte)
  | resume (tag sec : Byte)
  | feederGet (tag feeder : Byte)
  | feederDemandSet (tag feeder : Byte) (demand : Half)
  | planSelect (tag page : Byte)
  | planRead (tag group index field : Byte)
  | planWrite (tag group index field : Byte) (value : Word)
  | planCopy (tag source dest : Byte)
  | planCheck (tag page : Byte)
  | planActivate (tag page : Byte)
  | planSave (tag page : Byte)
  | headRead (tag point index : Byte)
  | headWrite (tag point index : Byte) (data : Half)
  | linkRestart (tag : Byte)
  | headsBind (tag : Byte)
  | outputSet (tag line value : Byte)
  | alarmSilence (tag : Byte)
  | genTest (tag source value : Byte)
  | lineByteReceived (byte : Byte) (stopHigh : Bool)
  | replyStart
  deriving DecidableEq, Repr

end Sys2Proof
end

