-- ==== Sys2Proof/Decode.lean ====
section
/-! DEFINITION. The commands a word spells by the table's bits. The part has no instruction words, and
spec/opcode_table.json gives no row any bits, so no word spells a command here. The frames of the supervisory
line, which do spell requests, are read in Machine/Requests.lean (R180, R182). -/

namespace Sys2Proof

/-- The command that a word of `nbits` bits spells: none, because no row of the table has bits. -/
def decodeTableWord (_nbits _w : Nat) : Option Instr := none

end Sys2Proof
end

