-- ==== Sys2Proof/Config.lean ====
section
/-! DEFINITION. What the manual leaves open and the part goes on after: free values, constants with no body.
Nothing in Lean can evaluate one or prove a value of it, so a claim holds whatever it is. Each is applied to
the plain counter `State.freeCount`, which a use advances. -/

namespace Sys2Proof

/-- What the store holds of a page after a write that failed its verify (R20: the image "may then be
unreadable") or that a reset cut off. -/
opaque Config.tornImage : Nat → List Byte

/-- What the store holds of the active pointer after a reset cut off its write; none is unreadable. -/
opaque Config.tornPointer : Nat → Option (Option PageNo)

/-- What the store holds of the link map record after a failed verify or a reset cut off its write; none is
unreadable. -/
opaque Config.tornMap : Nat → Option LinkMap

/-- The budget field of a RESTORE notice with occasion PLAN whose feeder's island has no budget (R146, R149). -/
opaque Config.noBudget : Nat → Nat

/-- The fields and value sets of the replies to which the manual gives a meaning but no width, no codes or no absent form
(section 11.1 gives all other ones). -/
inductive OpenField
  | headPlace | headStatus | lossCount | summary | summaryVolts | summaryFreq | summaryAngle
  | qualTimer | qualLeft | entered | busVolts
  | result | notAvailable | frames | closeTime | horizon | permit
  | pulseState | pulseLeft | operation | opKind | confirmLeft | measured | noFault
  | lostFlag | trigTime | timerLeft | startTime | openTime | role | settleLeft | heldBy
  | stack | announcement | islands | islandCond | islandBudget | islandTimer
  | outcome | runState
  deriving DecidableEq, Repr

/-- One less than the number of bytes a reply field is sent in where the manual gives it no width (a time in ms of
SECTION_GET, a close time): one to four bytes, so that a reply keeps to the 250 bytes of LEN (section 11.2, log entry 13). -/
opaque Config.width : OpenField → Fin 4

/-- The code of a value of a set that section 11.1 and the rules give no codes (an outcome, a run state, a role). -/
opaque Config.code : OpenField → Nat → Byte

/-- What is sent for a field that is absent, where the manual gives it no fixed value (R193); at most eight bytes of it are
sent (log entry 13). -/
opaque Config.absent : OpenField → List Byte

/-- What marks how many items a list of a reply holds (the stacks and the islands of R162); at most four bytes of it are
sent (log entry 13). -/
opaque Config.listMark : OpenField → Nat → List Byte

/-- Which of several events that fall together is taken first: the rank of item k at choice n. The manual lets
either order be taken ("About this manual", Time). -/
opaque Config.race : Nat → Nat → Nat

end Sys2Proof
end

