-- ==== Sys2Proof/Machine/Items.lean ====
section
/-! DEFINITION. The 252 plan items of one page (section 1.3 of the manual): their places, ranges and defaults,
written once as three columns, and the named reading of each item. A page's items stand in ascending group, then
index, then field, which is also their order in a stored image (R20, R194). -/

namespace Sys2Proof.Machine

/-- The items of one page, in the order of section 1.3. -/
abbrev Items := Vector Word 252

/-- Range and default of one item (section 1.3): lowest value, highest value, default. -/
structure ItemSpec where
  lo  : Nat
  hi  : Nat
  dft : Nat
  deriving DecidableEq, Repr

/-- Group 1, a source's eighteen items; the default of kind is that of SRC1 and SRC2. -/
def sourceItems : List ItemSpec :=
  [⟨0, 2, 1⟩, ⟨500, 40000, 2300⟩, ⟨50000, 60000, 50000⟩, ⟨0, 1, 0⟩, ⟨800, 1000, 900⟩, ⟨1000, 1200, 1100⟩] ++
  [⟨700, 1000, 850⟩, ⟨1000, 1250, 1150⟩, ⟨100, 600, 300⟩, ⟨100, 5000, 1000⟩, ⟨100, 6000, 1500⟩, ⟨100, 600000, 5000⟩] ++
  [⟨0, 30000, 2000⟩, ⟨0, 500, 100⟩, ⟨0, 20000, 2000⟩, ⟨50, 100, 90⟩, ⟨5, 600, 30⟩, ⟨0, 1800, 300⟩]

/-- Group 2, a bus's three items. -/
def busItems : List ItemSpec :=
  [⟨500, 40000, 2300⟩, ⟨700, 1000, 700⟩, ⟨100, 600, 250⟩]

/-- Group 3, a section's twenty items. -/
def sectionItems : List ItemSpec :=
  [⟨0, 3, 1⟩, ⟨0, 3, 3⟩, ⟨0, 3, 0⟩, ⟨0, 2, 0⟩, ⟨50, 600, 200⟩, ⟨50, 3000, 1000⟩, ⟨200, 900, 500⟩] ++
  [⟨100, 10000, 1000⟩, ⟨200, 20000, 3000⟩, ⟨0, 1, 1⟩, ⟨0, 1, 1⟩, ⟨0, 1800, 300⟩, ⟨0, 1, 0⟩, ⟨50, 300, 100⟩] ++
  [⟨20, 500, 150⟩, ⟨1, 600, 60⟩, ⟨0, 1, 1⟩, ⟨20, 200, 100⟩, ⟨0, 1, 0⟩, ⟨0, 600, 10⟩]

/-- Group 4, a channel's six items. -/
def channelItems : List ItemSpec :=
  [⟨50, 1000, 200⟩, ⟨50, 1000, 200⟩, ⟨20, 1000, 300⟩, ⟨20, 1000, 150⟩, ⟨20, 500, 80⟩, ⟨0, 20, 5⟩]

/-- Group 5, a feeder's four items. -/
def feederItems : List ItemSpec :=
  [⟨0, 1, 0⟩, ⟨1, 8, 4⟩, ⟨0, 5000, 0⟩, ⟨10, 40, 10⟩]

/-- Group 6, the eight global items. -/
def globalItems : List ItemSpec :=
  [⟨1, 600, 10⟩, ⟨0, 60, 5⟩, ⟨0, 1, 0⟩, ⟨0, 11, 0⟩, ⟨0, 11, 0⟩, ⟨0, 11, 0⟩, ⟨0, 11, 0⟩, ⟨1, 600, 60⟩]

/-- The items of one group, with the lowest and highest index and the place of its first item (R12). -/
def itemGroup (group : Nat) : Option (List ItemSpec × Nat × Nat × Nat) :=
  match group with
  | 1 => some (sourceItems, 1, 4, 0)
  | 2 => some (busItems, 1, 2, 72)
  | 3 => some (sectionItems, 1, 2, 78)
  | 4 => some (channelItems, 1, 5, 118)
  | 5 => some (feederItems, 1, 24, 148)
  | 6 => some (globalItems, 0, 0, 244)
  | _ => none

/-- The place of an addressed item in its page and its range; none for an address R12 refuses. -/
def itemAt (group index field : Nat) : Option (Nat × ItemSpec) :=
  match itemGroup group with
  | none => none
  | some (specs, ixLo, ixHi, base) =>
    if ixLo ≤ index ∧ index ≤ ixHi ∧ 1 ≤ field then
      (specs[field - 1]?).map fun d => (base + (index - ixLo) * specs.length + (field - 1), d)
    else none

/-- A value in range of an addressed item (R12): within the range column, and 50000 or 60000 for f_nom. -/
def itemInRange (group field : Nat) (d : ItemSpec) (v : Nat) : Bool :=
  if group = 1 ∧ field = 3 then v == 50000 || v == 60000 else d.lo ≤ v && v ≤ d.hi

/-- The defaults of one group's objects, object after object. -/
def defaultsOf (specs : List ItemSpec) (count : Nat) : List Word :=
  (List.replicate count (specs.map fun d => BitVec.ofNat 32 d.dft)).flatten

/-- The defaults of a source; kind is UTILITY for SRC1 and SRC2 and ABSENT for SRC3 and SRC4. -/
def sourceDefaults (kind : Word) : List Word :=
  kind :: (sourceItems.map fun d => BitVec.ofNat 32 d.dft).tail

/-- The default of every item, in order (section 1.3). -/
def defaultList : List Word :=
  sourceDefaults 1 ++ sourceDefaults 1 ++ sourceDefaults 0 ++ sourceDefaults 0 ++ defaultsOf busItems 2 ++
  defaultsOf sectionItems 2 ++ defaultsOf channelItems 5 ++ defaultsOf feederItems 24 ++ defaultsOf globalItems 1

/-- Each object of a group brings the group's items. -/
theorem defaultsOf_length (specs : List ItemSpec) (n : Nat) : (defaultsOf specs n).length = n * specs.length := by
  simp [defaultsOf]

/-- A source brings its eighteen items. -/
theorem sourceDefaults_length (k : Word) : (sourceDefaults k).length = 18 := rfl

/-- The default set has the 252 items of a page (section 1.3). -/
theorem defaultList_length : defaultList.length = 252 := by
  simp only [defaultList, List.length_append, sourceDefaults_length, defaultsOf_length]
  rfl

/-- The default set (R10): what an EMPTY page holds, and what is in use while no page is active. -/
def defaultItems : Items := ⟨⟨defaultList⟩, defaultList_length⟩

/-- The value at a place of a page. -/
def Items.val (it : Items) (i : Nat) : Nat := (it.toList.getD i 0).toNat

/-- One value of a page replaced; a place outside the page changes nothing. -/
def Items.put (it : Items) (i : Nat) (v : Word) : Items :=
  if h : i < 252 then it.set i v h else it

/-- A source's number less one. -/
def srcIx : Src → Nat
  | .src1 => 0
  | .src2 => 1
  | .src3 => 2
  | .src4 => 3

/-- A section's number less one. -/
def secIx : Sec → Nat
  | .sec1 => 0
  | .sec2 => 1

/-- A channel's code less one (R2). -/
def chanIx : Chan → Nat
  | .bk1 => 0
  | .bk2 => 1
  | .bk3 => 2
  | .bk4 => 3
  | .bkt => 4

/-- The items of a source by name (section 1.3, group 1). -/
inductive SrcItem
  | kind | vNom | fNom | phaseOrder | vPickLo | vPickHi | vDropLo | vDropHi | vDead
  | fPickDev | fDropDev | tPick | tDrop | tFast | capacity | loadLimit | tGenStart | tCool
  deriving DecidableEq, Repr

/-- The items of a bus by name (group 2). -/
inductive BusItem | vNom | vLive | vResid
  deriving DecidableEq, Repr

/-- The items of a section by name (group 3). -/
inductive SecItem
  | pref1 | pref2 | pref3 | openMethod | openWindow | openSlip | vInphaseMin | tDead | tDecayMax
  | closeOnTimeout | autoReturn | tReturn | returnMethod | closedWindow | closedSlip | tSyncWait
  | fallbackOpen | tOverlap | startMode | tSettle
  deriving DecidableEq, Repr

/-- The items of a channel by name (group 4). -/
inductive ChanItem | closeWidth | tripWidth | closeConfirm | tripConfirm | closeTimeInit | debounce
  deriving DecidableEq, Repr

/-- The items of a feeder by name (group 5). -/
inductive FeederItem | fitted | cls | demand | surge
  deriving DecidableEq, Repr

/-- The global items by name (group 6). -/
inductive GlobalItem | tStep | tOvl | linesOnBlock | an1Use | an2Use | an3Use | an4Use | alarmTime
  deriving DecidableEq, Repr

/-- The field number of a source item less one. -/
def SrcItem.ix : SrcItem → Nat
  | .kind => 0 | .vNom => 1 | .fNom => 2 | .phaseOrder => 3 | .vPickLo => 4 | .vPickHi => 5
  | .vDropLo => 6 | .vDropHi => 7 | .vDead => 8 | .fPickDev => 9 | .fDropDev => 10 | .tPick => 11
  | .tDrop => 12 | .tFast => 13 | .capacity => 14 | .loadLimit => 15 | .tGenStart => 16 | .tCool => 17

/-- The field number of a bus item less one. -/
def BusItem.ix : BusItem → Nat
  | .vNom => 0 | .vLive => 1 | .vResid => 2

/-- The field number of a section item less one. -/
def SecItem.ix : SecItem → Nat
  | .pref1 => 0 | .pref2 => 1 | .pref3 => 2 | .openMethod => 3 | .openWindow => 4 | .openSlip => 5
  | .vInphaseMin => 6 | .tDead => 7 | .tDecayMax => 8 | .closeOnTimeout => 9 | .autoReturn => 10
  | .tReturn => 11 | .returnMethod => 12 | .closedWindow => 13 | .closedSlip => 14 | .tSyncWait => 15
  | .fallbackOpen => 16 | .tOverlap => 17 | .startMode => 18 | .tSettle => 19

/-- The field number of a channel item less one. -/
def ChanItem.ix : ChanItem → Nat
  | .closeWidth => 0 | .tripWidth => 1 | .closeConfirm => 2 | .tripConfirm => 3 | .closeTimeInit => 4
  | .debounce => 5

/-- The field number of a feeder item less one. -/
def FeederItem.ix : FeederItem → Nat
  | .fitted => 0 | .cls => 1 | .demand => 2 | .surge => 3

/-- The field number of a global item less one. -/
def GlobalItem.ix : GlobalItem → Nat
  | .tStep => 0 | .tOvl => 1 | .linesOnBlock => 2 | .an1Use => 3 | .an2Use => 4 | .an3Use => 5
  | .an4Use => 6 | .alarmTime => 7

/-- A source's item. -/
def Items.src (it : Items) (n : Src) (f : SrcItem) : Nat := it.val (srcIx n * 18 + f.ix)

/-- A bus's item. -/
def Items.bus (it : Items) (b : Sec) (f : BusItem) : Nat := it.val (72 + secIx b * 3 + f.ix)

/-- A section's item. -/
def Items.sec (it : Items) (n : Sec) (f : SecItem) : Nat := it.val (78 + secIx n * 20 + f.ix)

/-- A channel's item. -/
def Items.chan (it : Items) (c : Chan) (f : ChanItem) : Nat := it.val (118 + chanIx c * 6 + f.ix)

/-- A feeder's item. -/
def Items.feeder (it : Items) (n : Feeder) (f : FeederItem) : Nat := it.val (148 + n.val * 4 + f.ix)

/-- A global item. -/
def Items.glob (it : Items) (f : GlobalItem) : Nat := it.val (244 + f.ix)

/-- The kind of a source (R9). -/
inductive SrcKind | absent | utility | generator
  deriving DecidableEq, Repr

/-- A source's kind on a page. -/
def Items.kind (it : Items) (n : Src) : SrcKind :=
  match it.src n .kind with
  | 0 => .absent
  | 1 => .utility
  | _ => .generator

/-- The entry a preference item names (R3, R4); none is NONE. -/
def entryOfCode : Nat → Option Entry
  | 1 => some .ownA
  | 2 => some .ownB
  | 3 => some .tie
  | _ => none

/-- A section's preference list: pref1, pref2, pref3 up to the first that is NONE (R4). -/
def Items.prefs (it : Items) (n : Sec) : List Entry :=
  ([it.sec n .pref1, it.sec n .pref2, it.sec n .pref3].map entryOfCode).takeWhile Option.isSome |>.filterMap id

/-- A feeder's fitted item (R8). -/
def Items.fitted (it : Items) (n : Feeder) : Bool := it.feeder n .fitted == 1

/-- The budget of a source in kW: capacity times load_limit, divided by 100 and rounded down (R149). -/
def Items.budget (it : Items) (n : Src) : Nat := it.src n .capacity * it.src n .loadLimit / 100

end Sys2Proof.Machine
end

