-- ==== Sys2Proof/Machine/State.lean ====
section
/-! DEFINITION. Everything the manual gives the part as state, block by block ("Block overview"), as plain data, and
the state right after the release of RSTn. Times are ticks of 1 ms since that release; a running timer is held as
`some` deadline and an idle one as `none`. -/

namespace Sys2Proof.Machine

/-! ### Plan store (PST) -/

/-- The status of a plan page (R10). -/
inductive PageStatus | blank | draft | valid
  deriving DecidableEq, Repr

/-- A plan page (R10). -/
structure Page where
  items  : Items
  status : PageStatus
  saved  : Bool
  deriving DecidableEq, Repr

/-- A page as it stands before it was loaded or written: EMPTY with the defaults (R10, R22). -/
def Page.empty : Page := ⟨defaultItems, .blank, false⟩

/-- The stored active pointer (R11). -/
inductive StoredPtr | noPage | page (p : PageNo) | unreadable
  deriving DecidableEq, Repr

/-- A write to the non-volatile store (R21). -/
inductive StoreWrite
  | page (p : PageNo)
  | pointer (p : PageNo)
  | linkMap (m : LinkMap)
  deriving DecidableEq, Repr

/-- The non-volatile store: the page images as bytes (R194), the pointer, and the link map record (none is
unreadable). It outlives a reset. -/
structure Store where
  images  : ByPage (List Byte)
  pointer : StoredPtr
  linkMap : Option LinkMap
  deriving DecidableEq, Repr

/-- PST's state (R10, R11, R21, R23). The first of `writes` is the write in progress. -/
structure PstState where
  pages        : ByPage Page
  active       : Option PageNo
  pendingPage  : Option PageNo
  edit         : PageNo
  storedActive : StoredPtr
  linkMap      : LinkMap
  writes       : List StoreWrite
  store        : Store
  deriving DecidableEq, Repr

/-! ### Head link controller (HLC) -/

/-- A cycle summary (R27): phase voltages in 0.1 V, frequency in mHz, angle in 0.1°, sequence, arrival frame. -/
structure Summary where
  v1      : Nat
  v2      : Nat
  v3      : Nat
  freq    : Nat
  angle   : Nat
  acb     : Bool
  arrival : Word
  deriving DecidableEq, Repr

/-- The status of a point's head (R28). -/
inductive HeadStatus | absent | present | lost
  deriving DecidableEq, Repr

/-- A point's measurement record (R28). -/
structure PointRec where
  bound  : Option HeadPlace
  status : HeadStatus
  loss   : Nat
  last   : Option Summary
  fresh  : Bool
  input  : Half
  deriving DecidableEq, Repr

/-- A point's record after power-up and after a link start (R28). -/
def PointRec.unbound : PointRec := ⟨none, .absent, 0, none, false, 0⟩

/-- The command in the head command slot (R32): a read or a write, for a point or for discovery (`point` none).
`sentIn` is the frame that carried it, none while it waits for the next frame. -/
structure HeadCmd where
  write  : Bool
  point  : Option Point
  place  : HeadPlace
  index  : BitVec 5
  data   : Half
  sentIn : Option Word
  deriving DecidableEq, Repr

/-- The output word of one head address (R36). -/
structure OutWord where
  word    : Half
  written : Bool
  deriving DecidableEq, Repr

/-- One line's answer to a discovery read (R38). -/
structure HeadAnswer where
  line     : Six
  identity : Half
  deriving DecidableEq, Repr

/-- The head table's entry of one address (R39); `unread` until its read has ended. -/
inductive HeadEntry | unread | silent | answered (lines : List HeadAnswer)
  deriving DecidableEq, Repr

/-- The link state (section 2.5). -/
inductive LinkState | starting | bound | unbound
  deriving DecidableEq, Repr

/-- The phase of discovery (R38): none, waiting for READY with the lines seen, or reading an address. -/
inductive Discovery | idle | ready (seen : BySix Bool) | reading (a : Six)
  deriving DecidableEq, Repr

/-- The outbound slots 0 to 3 of a frame; slots 4 to 8 are zero (R25). -/
structure OutFrame where
  tag : Slot
  s1  : Slot
  s2  : Slot
  s3  : Slot
  deriving DecidableEq, Repr

/-- HLC's state (R24, R28, R32, R36 to R40). `frameNo` is the frame in progress while `running`; `lastEnded` is the
last frame that ended since the link start began. -/
structure HlcState where
  link      : LinkState
  rstLow    : Bool
  rstEnd    : Option Nat
  running   : Bool
  frameNo   : Word
  lastEnded : Option Word
  outTurn   : Six
  slot      : Option HeadCmd
  outFrame  : OutFrame
  words     : BySix OutWord
  discovery : Discovery
  heads     : BySix HeadEntry
  points    : ByPoint PointRec
  deriving DecidableEq, Repr

/-! ### Source qualifier (SQU) -/

/-- A source's qualification state (R43). -/
inductive SrcState | absent | unknown | down | pickup | healthy | dropout
  deriving DecidableEq, Repr

/-- The cause of a qualification state (R43, R46). -/
inductive Cause | none | undervolt | overvolt | underfreq | overfreq | sequence | dead | meas
  deriving DecidableEq, Repr

/-- The kind of a running qualification timer (R43). -/
inductive QTimer | pick | drop | fast
  deriving DecidableEq, Repr

/-- A source's qualification record (R43). -/
structure QualRec where
  state   : SrcState
  cause   : Cause
  timer   : Option (QTimer × Nat)
  entered : Nat
  deriving DecidableEq, Repr

/-- A bus state (R57). -/
inductive BusState | unknown | live | decaying | dead
  deriving DecidableEq, Repr

/-- A bus record (R57). -/
structure BusRec where
  state   : BusState
  vmax    : Nat
  entered : Nat
  deriving DecidableEq, Repr

/-- SQU's state. -/
structure SquState where
  srcs  : BySrc QualRec
  buses : BySec BusRec
  deriving DecidableEq, Repr

/-! ### Coincidence unit (CCU) -/

/-- The two item sets of a computation (R63). -/
inductive ItemSet | openItems | closedItems
  deriving DecidableEq, Repr

/-- A pair (R62): an incomer's source onto its section's bus, or the tie feeding section `b` from the other. -/
inductive Pair | incomer (s : Src) | tieTo (b : Sec)
  deriving DecidableEq, Repr

/-- A sequencer's watch (R64). -/
structure Watch where
  pair    : Pair
  set     : ItemSet
  judging : Sec
  deriving DecidableEq, Repr

/-- Why no result can be formed (R67). -/
inductive NotAvailable | invalid | noFrequency | aged
  deriving DecidableEq, Repr

/-- Why a result carries no permit (R71). -/
inductive NoPermit | window | slip | lowBus | notHealthy
  deriving DecidableEq, Repr

/-- The values of an available result (R66); `fails` none is the permit. -/
structure PairValues where
  ni    : Word
  nb    : Word
  d0    : Int
  slip  : Int
  tc    : Nat
  hor   : Nat
  dp    : Int
  fails : Option NoPermit
  deriving DecidableEq, Repr

/-- What a computation gave (R66). -/
inductive Formed | notAvailable (r : NotAvailable) | available (v : PairValues)
  deriving DecidableEq, Repr

/-- A coincidence result (R66). -/
structure PairResult where
  nd      : Word
  set     : ItemSet
  judging : Sec
  formed  : Formed
  deriving DecidableEq, Repr

/-- CCU's state: the two watches (R64) and the last result of each pair (R66). -/
structure CcuState where
  watches  : BySec (Option Watch)
  incomers : BySrc (Option PairResult)
  ties     : BySec (Option PairResult)
  deriving DecidableEq, Repr

/-! ### Breaker channel unit (BCU) -/

/-- A debounced input (R78, R168): the level on the pin, the level last sampled, the accepted level, and the tick at
which a running stability count accepts. -/
structure InputPin where
  raw      : Bool
  sampled  : Bool
  accepted : Bool
  acceptAt : Option Nat
  deriving DecidableEq, Repr

/-- An input set to its first sample, with no count (R78). -/
def InputPin.first (level : Bool) : InputPin := ⟨level, level, level, none⟩

/-- Who asked for an operation (R79). -/
inductive Requester | seq (s : Sec) | mdc
  deriving DecidableEq, Repr

/-- The direction of an operation. -/
inductive OpKind | close | trip
  deriving DecidableEq, Repr

/-- An operation in flight (R79). `stopped` is the model's own: the close pulse was stopped before its width had ended,
which the test of R123 asks of a confirmation. -/
structure Operation where
  kind      : OpKind
  requester : Requester
  trigAt    : Nat
  deadline  : Nat
  stopped   : Bool
  deriving DecidableEq, Repr

/-- A channel's position (R79). -/
inductive Position | isOpen | isClosed | closing | opening | faulted | locked
  deriving DecidableEq, Repr

/-- A channel's fault cause (R79). -/
inductive ChanFault | none | failToClose | failToOpen
  deriving DecidableEq, Repr

/-- A channel record (R79). -/
structure ChanRec where
  position  : Position
  cmdClosed : Bool
  aux       : InputPin
  ready     : InputPin
  racked    : InputPin
  prot      : InputPin
  closeEnd  : Option Nat
  tripEnd   : Option Nat
  op        : Option Operation
  tc        : Nat
  lastM     : Option Nat
  fault     : ChanFault
  deriving DecidableEq, Repr

/-- The kind of a contact change (R88). -/
inductive ContactKind | confirmClose | confirmOpen | inOperation | externalClose | externalOpen | protectionOpen
  deriving DecidableEq, Repr

/-! ### Section sequencers (SEQ1, SEQ2) -/

/-- A section mode (R163). -/
inductive Mode | manual | auto
  deriving DecidableEq, Repr

/-- A sequencer's state (R101). -/
inductive SeqState | fed | returnWait | sync | waitSource | opening | decay | closing | overlap | halted
  deriving DecidableEq, Repr

/-- An entry with the section it belongs to (R136, R193). -/
structure SecEntry where
  sec   : Sec
  entry : Entry
  deriving DecidableEq, Repr

/-- How the last close of a transfer was permitted (R101). -/
inductive Method | none | inPhase | residual | timed | timeout | closed
  deriving DecidableEq, Repr

/-- Why a section is HALTED (R101). -/
inductive HaltCause
  | none | busFault | failToOpen | failToClose | decayTimeout | overlapFail | parallelFound | blockedInTransfer
  deriving DecidableEq, Repr

/-- A section's role (R7). -/
inductive Role | sole | supplying | dependent
  deriving DecidableEq, Repr

/-- A start cause (R106). -/
inductive StartCause | loss | externalOpen | return | request | retarget | reselect
  deriving DecidableEq, Repr

/-- The lost entry with its exclusion flag (R101, R104). -/
structure Lost where
  entry    : Entry
  excluded : Bool
  deriving DecidableEq, Repr

/-- The close record (R101): predicted angle and slip, or not available, and the trigger tick. -/
structure CloseRecord where
  angleSlip : Option (Int × Int)
  trigAt    : Nat
  deriving DecidableEq, Repr

/-- A section context (R101). The mode is held by MDC, of which the context's field is a copy. `lastResult` is the
last result the sequencer received from its watch, which R112 and R116 read. -/
structure SecCtx where
  state       : SeqState
  feed        : Option Entry
  origin      : Option SecEntry
  target      : Option SecEntry
  lost        : Option Lost
  closedTrans : Bool
  outgoing    : Option Entry
  method      : Method
  closeRec    : CloseRecord
  closeStop   : Bool
  decayOver   : Bool
  deadOver    : Bool
  tReturn     : Option Nat
  tSyncWait   : Option Nat
  tDecayMax   : Option Nat
  tDead       : Option Nat
  tOverlap    : Option Nat
  startMs     : Nat
  openMs      : Nat
  haltCause   : HaltCause
  haltChan    : Option Chan
  role        : Role
  lastResult  : Option PairResult
  deriving DecidableEq, Repr

/-- A section's context from the release of RSTn until adoption (R101, R175). -/
def SecCtx.start : SecCtx :=
  { state := .waitSource, feed := none, origin := none, target := none, lost := none, closedTrans := false,
    outgoing := none, method := .none, closeRec := ⟨none, 0⟩, closeStop := false, decayOver := false,
    deadOver := false, tReturn := none, tSyncWait := none, tDecayMax := none, tDead := none, tOverlap := none,
    startMs := 0, openMs := 0, haltCause := .none, haltChan := none, role := .sole, lastResult := none }

/-- The timers of a sequencer (R101). -/
inductive SeqTimer | tReturn | tSyncWait | tDecayMax | tDead | tOverlap
  deriving DecidableEq, Repr

/-! ### Load manager (LMG) -/

/-- The part of a feeder record LMG holds itself (R144); fitted, class and surge are read from the item set in use. -/
structure FeederRec where
  demand : Nat
  shed   : Bool
  deriving DecidableEq, Repr

/-- A section's announcement (R150); `both` says that the resulting island is BUS1 and BUS2 together. -/
structure Announcement where
  target : SecEntry
  source : Option Src
  both   : Bool
  deriving DecidableEq, Repr

/-- An island's condition (R6). -/
inductive IslandCond | dead | fed | parallel
  deriving DecidableEq, Repr

/-- An island record (R148). -/
structure IslandRec where
  cond       : IslandCond
  source     : Option Src
  restoreAt  : Option Nat
  overloadAt : Option Nat
  reported   : Bool
  stretch    : Option Feeder
  deriving DecidableEq, Repr

/-- The islands formed on the board (R148): none before adoption, one per section, or one of both. -/
inductive Islands | notFormed | apart (i1 i2 : IslandRec) | joined (i : IslandRec)
  deriving DecidableEq, Repr

/-- LMG's state. A stack is held bottom first (R147); `lines` are the levels of SHD01 to SHD24 (R159). -/
structure LmgState where
  feeders : Vector FeederRec 24
  shedStack : BySec (List Feeder)
  islands : Islands
  anns    : BySec (Option Announcement)
  lines   : Vector Bool 24
  deriving DecidableEq, Repr

/-- The occasion of a shed or a restore (R151, R156, R146). -/
inductive Occasion | target | overload | step | plan
  deriving DecidableEq, Repr

/-! ### Mode control (MDC) -/

/-- The run state of a generator (R172). -/
inductive RunState | off | run | cool
  deriving DecidableEq, Repr

/-- A source's run record (R172); `startUsed` is the t_gen_start, in s, the start timer was started with (R173). -/
structure RunRec where
  state     : RunState
  coolAt    : Option Nat
  startAt   : Option Nat
  startUsed : Nat
  noted     : Bool
  test      : Bool
  deriving DecidableEq, Repr

/-- A run record after power-up and RSTn (R172). -/
def RunRec.start : RunRec := ⟨.off, none, none, 0, false, false⟩

/-- MDC's state (R163, R168, R172, R177, R94, R97); bit n−1 of `latches` is the latch of ANn. -/
structure MdcState where
  modes     : BySec Mode
  hostBlock : Bool
  blk       : InputPin
  settle    : BySec (Option Nat)
  alarm     : Option Nat
  latches   : BitVec 4
  runs      : BySrc RunRec
  deriving DecidableEq, Repr

/-! ### Supervisory port (SPT) -/

/-- The status codes (R184). -/
inductive Status
  | ok | badLength | unknownKind | badArgument | busy | wrongMode | blocked | interlock | notAvailable
  | noPlan | pageActive | pageNotValid | checkFailed | headTimeout | headsUnbound | duplicatePoint | storeFault
  deriving DecidableEq, Repr

/-- The reasons of a claim test (R129). -/
inductive ClaimReason | owned | tieUnavailable | otherBusy | otherNotFed | budget
  deriving DecidableEq, Repr

/-- The reason of a CLOSE_FAIL notice (R126). -/
inductive CloseFailReason
  | refused (s : Status) | failToClose | targetDown | locked | claim (r : ClaimReason)
  deriving DecidableEq, Repr

/-- What a notice says: one constructor per kind of the table of section 10.5, with the fields of section 11.3. -/
inductive Note
  | powerUp (link : LinkState) (active : Option PageNo) (state1 : SeqState) (feed1 : Option Entry)
      (state2 : SeqState) (feed2 : Option Entry) (locked : ByChan Bool) (blocked : Bool)
  | sourceState (src : Src) (new prev : SrcState) (cause : Cause)
  | transferBegin (sec : Sec) (origin target : Option SecEntry) (closed : Bool) (cause : StartCause)
  | transferDone (sec : Sec) (origin dest : Option SecEntry) (method : Method) (dead : Nat)
      (angleSlip : Option (Int × Int)) (m : Option Nat)
  | closeFail (sec : Sec) (ch : Chan) (reason : CloseFailReason)
  | syncTimeout (sec : Sec) (target : Option SecEntry) (angleSlip : Option (Int × Int))
  | sectionHalted (sec : Sec) (cause : HaltCause) (ch : Option Chan) (left : SeqState) (feed : Option Entry)
  | breakerFault (ch : Chan) (cause : ChanFault) (req : Requester)
  | breakerExternal (ch : Chan) (kind : ContactKind) (held : Option Position)
  | lockout (ch : Chan) (left : Position) (aux : Bool)
  | shed (f : Feeder) (occ : Occasion) (cls demand sum budget : Nat) (src : Src)
  | restore (f : Feeder) (occ : Occasion) (need sum budget : Nat)
  | restoreBlocked (f : Feeder) (sec : Sec) (need sum budget : Nat)
  | overload (sec : Sec) (occ : Occasion) (members : IslandId) (src : Src) (sum budget : Nat)
  | headLost (p : Point) (place : HeadPlace)
  | headBack (p : Point) (place : HeadPlace)
  | mapMismatch (differing : ByPoint Bool) (dup line unrecognised : Bool)
  | planActivated (page : PageNo) (prev : Option PageNo)
  | genStartFail (src : Src) (tGenStart : Nat) (state : SrcState) (cause : Cause)
  deriving DecidableEq, Repr

/-- A notice with its timestamp (R190). -/
structure Notice where
  note : Note
  time : Word
  deriving DecidableEq, Repr

/-- A supervisory request with its payload fields as sent (R182, section 11.2). -/
inductive Request
  | ping | statusGet | noticeGet
  | pointGet (point : Byte)
  | pairGet (incoming bus mode items : Byte)
  | breakerGet (chan : Byte)
  | breakerOperate (chan action : Byte)
  | channelClear (chan : Byte)
  | sectionGet (sec : Byte)
  | modeSet (sec mode : Byte)
  | blockSet (value : Byte)
  | transferRequest (sec entry : Byte)
  | resume (sec : Byte)
  | feederGet (feeder : Byte)
  | feederDemandSet (feeder : Byte) (demand : Half)
  | planSelect (page : Byte)
  | planRead (group index field : Byte)
  | planWrite (group index field : Byte) (value : Word)
  | planCopy (source dest : Byte)
  | planCheck (page : Byte)
  | planActivate (page : Byte)
  | planSave (page : Byte)
  | headRead (point index : Byte)
  | headWrite (point index : Byte) (data : Half)
  | linkRestart
  | headsBind
  | outputSet (line value : Byte)
  | alarmSilence
  | genTest (source value : Byte)
  deriving DecidableEq, Repr

/-- The answer of STATUS_GET (R187). -/
structure StatusAns where
  ended     : Bool
  modes     : BySec Mode
  states    : BySec SeqState
  owner     : Option Sec
  blocked   : Bool
  hostBlock : Bool
  blk       : Bool
  active    : Option PageNo
  waiting   : Option PageNo
  edit      : PageNo
  stored    : StoredPtr
  pages     : ByPage (PageStatus × Bool)
  link      : LinkState
  alarm     : Bool
  lines     : BitVec 4
  latches   : BitVec 4
  notices   : Nat
  overflow  : Bool
  deriving DecidableEq, Repr

/-- The answer of POINT_GET (R189). -/
structure PointAns where
  record     : PointRec
  valid      : Bool
  discovered : Option HeadPlace
  link       : LinkState
  qual       : Option (QualRec × Nat)
  bus        : Option BusRec
  deriving DecidableEq, Repr

/-- The answer of BREAKER_GET (R93): the record, the remaining times and the availability. -/
structure BreakerAns where
  record      : ChanRec
  closeLeft   : Nat
  tripLeft    : Nat
  confirmLeft : Nat
  available   : Bool
  deriving DecidableEq, Repr

/-- What holds selection for a section (R188). -/
structure HeldBy where
  block   : Bool
  settle  : Bool
  closedReturn : Bool
  service : Bool
  deriving DecidableEq, Repr

/-- The answer of SECTION_GET (R188); `sec` is the section asked, which its entry fields carry (R193). -/
structure SectionAns where
  sec          : Sec
  ctx          : SecCtx
  mode         : Mode
  tReturnLeft  : Nat
  tSyncLeft    : Nat
  tDecayLeft   : Nat
  tDeadLeft    : Nat
  tOverlapLeft : Nat
  settleLeft   : Nat
  held         : HeldBy
  ownA         : SrcState × Cause
  ownB         : SrcState × Cause
  bus          : BusState
  owner        : Option Sec
  deriving DecidableEq, Repr

/-- The answer of FEEDER_GET for one feeder (R162). -/
structure FeederAns where
  feeder : Feeder
  fitted : Bool
  sec    : Sec
  cls    : Nat
  demand : Nat
  surge  : Nat
  shed   : Bool
  line   : Bool
  place  : Nat
  deriving DecidableEq, Repr

/-- One island in the load manager's summary (R162). -/
structure IslandAns where
  members      : IslandId
  cond         : IslandCond
  source       : Option Src
  sum          : Nat
  budget       : Option Nat
  restoreLeft  : Nat
  overloadLeft : Nat
  reported     : Bool
  stretch      : Option Feeder
  deriving DecidableEq, Repr

/-- The load manager's summary (R162). -/
structure SummaryAns where
  shedStack : BySec (List Feeder)
  class1  : Nat
  anns    : BySec (Option Announcement)
  islands : List IslandAns
  deriving DecidableEq, Repr

/-- What follows the STATUS byte of a reply (R183, section 10.3.2). -/
inductive Body
  | empty
  | identity
  | status (a : StatusAns)
  | notice (n : Option Notice) (left : Nat) (overflow : Bool)
  | point (a : PointAns)
  | pair (r : Option PairResult) (watch1 watch2 : Bool)
  | breaker (a : BreakerAns)
  | position (p : Position)
  | sectionView (a : SectionAns)
  | mode (m : Mode) (st : SeqState)
  | block (flag blk blocked : Bool)
  | claimTest (r : ClaimReason)
  | coincidence (r : PairResult)
  | feeder (a : FeederAns)
  | summary (a : SummaryAns)
  | demand (held : Nat)
  | item (value : Word) (page : PageNo) (st : PageStatus) (saved : Bool)
  | check (code group index field : Nat)
  | outcome (inEffect : Bool)
  | headData (index : Nat) (data : Half)
  | restart (link : LinkState) (dup line unrecognised : Bool) (differing : ByPoint Bool)
  | output (latch level : Bool)
  | gen (flag : Bool) (state : RunState) (line : Bool)
  deriving DecidableEq, Repr

/-- A reply (R183). -/
structure Reply where
  status : Status
  body   : Body
  deriving DecidableEq, Repr

/-- Where the request in service stands (R181, R185): a plan request held until the store load ends, an operation its
owner has begun, a formed reply, or a reply being sent. -/
inductive Phase | held (r : Request) | deferred | formed (r : Reply) | sending (r : Reply)
  deriving DecidableEq, Repr

/-- The request in service (R181). -/
structure Service where
  kind  : Byte
  tag   : Byte
  phase : Phase
  deriving DecidableEq, Repr

/-- The receiver (R180): hunting, or receiving with the bytes taken after SYNC. -/
inductive Rx | hunting | receiving (bytes : List Byte)
  deriving DecidableEq, Repr

/-- SPT's state (chapter 10); `rxGap` is the end of the 5 ms byte gap. -/
structure SptState where
  baud     : BitVec 2
  hmDe     : Bool
  rx       : Rx
  rxGap    : Option Nat
  service  : Option Service
  queue    : List Notice
  overflow : Bool
  deriving DecidableEq, Repr

/-! ### Reports between blocks -/

/-- A report of one block to others within one event. The manual has blocks act on each other's reports; inside a step
they stand in `State.agenda` in the order made, and the step takes them one by one. `decayTest` carries the entries whose
close was refused earlier in the event (R117, log entry 63). -/
inductive Report
  | srcChanged (src : Src) (prev new : SrcState) (cause : Cause)
  | busChanged (bus : Sec) (prev new : BusState)
  | pointInvalid (p : Point) (nd : Word)
  | ccuPoint (p : Point) (nd : Word)
  | availability (ch : Chan)
  | tripConfirmed (ch : Chan)
  | tripFailed (ch : Chan)
  | closeConfirmed (ch : Chan) (req : Requester) (m : Nat)
  | closeFailed (ch : Chan) (req : Requester)
  | closeWithdrawn (ch : Chan) (req : Requester)
  | lockoutEnded (ch : Chan) (op : Operation)
  | contact (sec : Sec) (ch : Chan) (kind : ContactKind) (op : Option Operation)
  | channelLocked (ch : Chan)
  | channelCleared (ch : Chan)
  | seqState (sec : Sec)
  | seqFeed (sec : Sec)
  | tieOwner
  | classOneDemand
  | holdEnded (sec : Sec)
  | activated (sec : Sec)
  | fedEntry (sec : Sec) (cause : StartCause)
  | decayTest (sec : Sec) (passed : List SecEntry)
  | timerOver (sec : Sec) (t : SeqTimer)
  | activationDone (page : PageNo) (prev : Option PageNo)
  deriving DecidableEq, Repr

/-- The state of the part. `now` is the tick; `loaded` and `adopted` say how far the power-up sequence has come
(R175); `owner` is the tie owner of TAR (R128); `agenda` holds the reports of the event being taken; `freeCount`
counts the free values used; `pending` is the queue of waiting commands, first in, first out. -/
structure State where
  now       : Nat
  inReset   : Bool
  loaded    : Bool
  adopted   : Bool
  pst       : PstState
  hlc       : HlcState
  squ       : SquState
  ccu       : CcuState
  bcu       : ByChan ChanRec
  seqs      : BySec SecCtx
  owner     : Option Sec
  lmg       : LmgState
  mdc       : MdcState
  spt       : SptState
  agenda    : List Report
  freeCount : Nat
  pending   : List Instr
  deriving DecidableEq, Repr

/-- The faults of a step. There is none: the manual gives no event after which the part stops, so no step faults, and
the type has no constructor (safe: nothing the hardware goes on from is cut off). -/
inductive Fault
  deriving DecidableEq, Repr

/-- The refusals of a step. -/
inductive Refusal
  /-- Raised by `exec` alone, for a command that has no meaning yet. Safe: the model says nothing of it. -/
  | notModelled (mnemonic : String)
  deriving DecidableEq, Repr

/-- A channel's record at the release of RSTn (R79): position and commanded from the first samples. -/
def ChanRec.start (p : ChanPins) (tc : Nat) : ChanRec :=
  { position := if p.prt then .locked else if p.aux then .isClosed else .isOpen, cmdClosed := p.aux,
    aux := .first p.aux, ready := .first p.rdy, racked := .first p.rck, prot := .first p.prt,
    closeEnd := none, tripEnd := none, op := none, tc := tc, lastM := none, fault := .none }

/-- A source's record as SQU initialises it (R43). -/
def QualRec.start (k : SrcKind) : QualRec :=
  if k = .absent then ⟨.absent, .none, none, 0⟩ else ⟨.unknown, .meas, none, 0⟩

/-- SQU's records as initialised from an item set (R43, R57). -/
def SquState.start (it : Items) : SquState :=
  { srcs := ⟨.start (it.kind .src1), .start (it.kind .src2), .start (it.kind .src3), .start (it.kind .src4)⟩
    buses := .all ⟨.unknown, 0, 0⟩ }

/-- The feeder records from an item set's demand items (R144). -/
def feedersFrom (it : Items) : Vector FeederRec 24 :=
  #v[⟨it.feeder 0 .demand, false⟩, ⟨it.feeder 1 .demand, false⟩, ⟨it.feeder 2 .demand, false⟩,
     ⟨it.feeder 3 .demand, false⟩, ⟨it.feeder 4 .demand, false⟩, ⟨it.feeder 5 .demand, false⟩,
     ⟨it.feeder 6 .demand, false⟩, ⟨it.feeder 7 .demand, false⟩, ⟨it.feeder 8 .demand, false⟩,
     ⟨it.feeder 9 .demand, false⟩, ⟨it.feeder 10 .demand, false⟩, ⟨it.feeder 11 .demand, false⟩,
     ⟨it.feeder 12 .demand, false⟩, ⟨it.feeder 13 .demand, false⟩, ⟨it.feeder 14 .demand, false⟩,
     ⟨it.feeder 15 .demand, false⟩, ⟨it.feeder 16 .demand, false⟩, ⟨it.feeder 17 .demand, false⟩,
     ⟨it.feeder 18 .demand, false⟩, ⟨it.feeder 19 .demand, false⟩, ⟨it.feeder 20 .demand, false⟩,
     ⟨it.feeder 21 .demand, false⟩, ⟨it.feeder 22 .demand, false⟩, ⟨it.feeder 23 .demand, false⟩]

/-- Every shed line de-asserted (R159). -/
def linesOff : Vector Bool 24 :=
  #v[false, false, false, false, false, false, false, false, false, false, false, false,
     false, false, false, false, false, false, false, false, false, false, false, false]

/-- PST at the release of RSTn, before the load has ended (R175). -/
def PstState.start (st : Store) : PstState :=
  { pages := .all .empty, active := none, pendingPage := none, edit := .p0, storedActive := .noPage,
    linkMap := .all none, writes := [], store := st }

/-- HLC at the release of RSTn (R28, R175). HL_RSTn stays low until the link start's pulse has ended. -/
def HlcState.start : HlcState :=
  { link := .starting, rstLow := true, rstEnd := none, running := false, frameNo := 0, lastEnded := none,
    outTurn := .n0, slot := none, outFrame := ⟨0, 0, 0, 0⟩, words := .all ⟨0, false⟩, discovery := .idle,
    heads := .all .unread, points := .all .unbound }

/-- The part right after the release of RSTn (R175, R178) with the given straps, first samples and store. -/
def State.boot (baud : BitVec 2) (pins : FirstSamples) (st : Store) (free : Nat) (queue : List Instr) : State :=
  { now := 0, inReset := false, loaded := false, adopted := false, pst := .start st, hlc := .start,
    squ := .start defaultItems, ccu := ⟨.all none, .all none, .all none⟩,
    bcu := ⟨.start pins.chans.bk1 (defaultItems.chan .bk1 .closeTimeInit),
            .start pins.chans.bk2 (defaultItems.chan .bk2 .closeTimeInit),
            .start pins.chans.bk3 (defaultItems.chan .bk3 .closeTimeInit),
            .start pins.chans.bk4 (defaultItems.chan .bk4 .closeTimeInit),
            .start pins.chans.bkt (defaultItems.chan .bkt .closeTimeInit)⟩,
    seqs := .all .start, owner := none,
    lmg := ⟨feedersFrom defaultItems, .all [], .notFormed, .all none, linesOff⟩,
    mdc := { modes := .all .manual, hostBlock := false, blk := .first pins.blk, settle := .all none, alarm := none,
             latches := 0, runs := .all .start },
    spt := { baud := baud, hmDe := false, rx := .hunting, rxGap := none, service := none, queue := [],
             overflow := false },
    agenda := [], freeCount := free, pending := queue }

/-- Every input de-asserted: the first samples `State.reset` is built on (log entry 3). -/
def quietSamples : FirstSamples := ⟨.all ⟨false, false, false, false⟩, false⟩

/-- A store in which nothing has ever been written (log entry 4). -/
def Store.unwritten : Store := ⟨.all [], .unreadable, none⟩

/-- The machine right after reset: RSTn has just been released (R175). -/
def State.reset : State := State.boot 0 quietSamples .unwritten 0 []

end Sys2Proof.Machine
end

