-- ==== Sys2Proof/Machine/Ops.lean ====
section
/-! DEFINITION. The shared operations: the fixed board (R1 to R7), access to the item set in use, one update function
per kind of state, posting a notice (R190), making a report, and the time arithmetic of the 1 ms tick. -/

namespace Sys2Proof.Machine

/-! ### The fixed board -/

/-- The section an incomer's source belongs to (R2). -/
def srcSec : Src → Sec
  | .src1 => .sec1
  | .src2 => .sec2
  | .src3 => .sec1
  | .src4 => .sec2

/-- The incomer channel of a source (R1). -/
def srcChan : Src → Chan
  | .src1 => .bk1
  | .src2 => .bk2
  | .src3 => .bk3
  | .src4 => .bk4

/-- The source an incomer connects; the tie connects none (R2). -/
def chanSrc : Chan → Option Src
  | .bk1 => some .src1
  | .bk2 => some .src2
  | .bk3 => some .src3
  | .bk4 => some .src4
  | .bkt => none

/-- A channel belongs to a section (R2); BKT belongs to both. -/
def chanOf (c : Chan) (n : Sec) : Bool :=
  match chanSrc c with
  | some x => srcSec x == n
  | none => true

/-- The fixed source of an OWN entry (R3). -/
def ownSource (n : Sec) : Entry → Option Src
  | .ownA => some (match n with | .sec1 => .src1 | .sec2 => .src2)
  | .ownB => some (match n with | .sec1 => .src3 | .sec2 => .src4)
  | .tie => none

/-- The channel of an entry (R3). -/
def entryChan (e : SecEntry) : Chan :=
  match ownSource e.sec e.entry with
  | some x => srcChan x
  | none => .bkt

/-- The entry of a section that a source feeds directly (R3). -/
def srcEntry : Src → Entry
  | .src1 | .src2 => .ownA
  | .src3 | .src4 => .ownB

/-- The section a feeder belongs to: F01 to F12 BUS1, F13 to F24 BUS2 (R8). -/
def feederSec (f : Feeder) : Sec := if f.val < 12 then .sec1 else .sec2

/-- The sections of an island (R6). -/
def islandSecs : IslandId → List Sec
  | .bus1 => [.sec1]
  | .bus2 => [.sec2]
  | .both => [.sec1, .sec2]

def allSecs : List Sec := [.sec1, .sec2]
def allSrcs : List Src := [.src1, .src2, .src3, .src4]
def allChans : List Chan := [.bk1, .bk2, .bk3, .bk4, .bkt]
def allPoints : List Point := [.src .src1, .src .src2, .src .src3, .src .src4, .bus .sec1, .bus .sec2]
def allSix : List Six := [.n0, .n1, .n2, .n3, .n4, .n5]
def allPages : List PageNo := [.p0, .p1, .p2, .p3]
def allFeeders : List Feeder :=
  [0, 1, 2, 3, 4, 5, 6, 7, 8, 9, 10, 11, 12, 13, 14, 15, 16, 17, 18, 19, 20, 21, 22, 23]

/-- The number of one of six. -/
def sixNo : Six → Nat
  | .n0 => 0 | .n1 => 1 | .n2 => 2 | .n3 => 3 | .n4 => 4 | .n5 => 5

/-- The address after one in turn, from 5 back to 0 (R36). -/
def sixNext : Six → Six
  | .n0 => .n1 | .n1 => .n2 | .n2 => .n3 | .n3 => .n4 | .n4 => .n5 | .n5 => .n0

/-- The number of a page. -/
def pageIx : PageNo → Nat
  | .p0 => 0 | .p1 => 1 | .p2 => 2 | .p3 => 3

/-! ### Access and update -/

/-- The item set in use (R10): the active page, or the default set while no page is active. -/
def State.plan (s : State) : Items :=
  match s.pst.active with
  | some p => (s.pst.pages.get p).items
  | none => defaultItems

/-- The timestamp of an event: the tick count, 32 bits wide, which wraps. -/
def State.stamp (s : State) : Word := BitVec.ofNat 32 s.now

/-- The part is BLOCKED (R168). -/
def State.blocked (s : State) : Bool := s.mdc.blk.accepted || s.mdc.hostBlock

/-- A section's context. -/
def State.ctx (s : State) (n : Sec) : SecCtx := s.seqs.get n

/-- A section's mode (R163). -/
def State.mode (s : State) (n : Sec) : Mode := s.mdc.modes.get n

/-- A source's qualification state. -/
def State.srcState (s : State) (x : Src) : SrcState := (s.squ.srcs.get x).state

/-- A source is HEALTHY. -/
def State.healthy (s : State) (x : Src) : Bool := s.srcState x == .healthy

/-- A source, where there is one, is HEALTHY; an entry without a source fails the test (R3). -/
def State.healthy? (s : State) (x : Option Src) : Bool :=
  match x with
  | some x => s.healthy x
  | none => false

/-- A breaker is closed for the board model: its accepted AUX is asserted (R2). -/
def State.closed (s : State) (c : Chan) : Bool := (s.bcu.get c).aux.accepted

/-- Availability for close (R92). -/
def ChanRec.available (r : ChanRec) : Bool :=
  r.position == .isOpen && r.ready.accepted && r.racked.accepted

/-- A channel is available for close (R92). -/
def State.avail (s : State) (c : Chan) : Bool := (s.bcu.get c).available

/-- Makes a report to the other blocks within this event. -/
def report (r : Report) (s : State) : State := { s with agenda := s.agenda ++ [r] }

/-- Posts a notice (R190): added at the end of a queue that holds fewer than 32, otherwise dropped with the overflow
flag set. -/
def post (n : Note) (s : State) : State :=
  if s.spt.queue.length < 32 then
    { s with spt := { s.spt with queue := s.spt.queue ++ [⟨n, s.stamp⟩] } }
  else { s with spt := { s.spt with overflow := true } }

/-- Changes one section's context. -/
def modSeq (n : Sec) (f : SecCtx → SecCtx) (s : State) : State :=
  { s with seqs := s.seqs.set n (f (s.seqs.get n)) }

/-- Changes one channel's record; a change of its availability is reported once the sequencers listen (R92, R175). -/
def modChan (c : Chan) (f : ChanRec → ChanRec) (s : State) : State :=
  let r := f (s.bcu.get c)
  let t : State := { s with bcu := s.bcu.set c r }
  if s.adopted && (r.available != (s.bcu.get c).available) then report (.availability c) t else t

/-- Changes one point's measurement record. -/
def modPoint (p : Point) (f : PointRec → PointRec) (s : State) : State :=
  { s with hlc := { s.hlc with points := s.hlc.points.set p (f (s.hlc.points.get p)) } }

/-- Changes one source's run record. -/
def modRun (x : Src) (f : RunRec → RunRec) (s : State) : State :=
  { s with mdc := { s.mdc with runs := s.mdc.runs.set x (f (s.mdc.runs.get x)) } }

/-- Sets one sequencer's watch, or clears it (R64). -/
def setWatch (n : Sec) (w : Option Watch) (s : State) : State :=
  { s with ccu := { s.ccu with watches := s.ccu.watches.set n w } }

/-- Sets the tie owner (R128); a change is reported to the sequencers. -/
def setOwner (o : Option Sec) (s : State) : State :=
  if s.owner = o then s else report .tieOwner { s with owner := o }

/-- Counts one more free value used. -/
def useFree (s : State) : State := { s with freeCount := s.freeCount + 1 }

/-- Brings the tick to a deadline that is reached. -/
def reach (d : Nat) (s : State) : State := { s with now := max s.now d }

/-- The time a running timer has left: its deadline less the present tick, 0 when it is idle. -/
def State.left (s : State) (d : Option Nat) : Nat :=
  match d with
  | some d => d - s.now
  | none => 0

/-! ### Islands (R6) -/

/-- The closed incomers of an island with the given sections, as their sources in ascending order. -/
def State.closedPaths (s : State) (secs : List Sec) : List Src :=
  allSrcs.filter fun x => secs.contains (srcSec x) && s.closed (srcChan x)

/-- The sections of the island that holds a section. -/
def State.islandOf (s : State) (n : Sec) : List Sec := if s.closed .bkt then allSecs else [n]

/-- The source paths of the island that holds a section. -/
def State.paths (s : State) (n : Sec) : List Src := s.closedPaths (s.islandOf n)

/-- The feed source of an island from its source paths: that of the one path, else none. -/
def feedOfPaths : List Src → Option Src
  | [x] => some x
  | _ => none

/-- The condition of an island from its source paths. -/
def condOfPaths : List Src → IslandCond
  | [] => .dead
  | [_] => .fed
  | _ => .parallel

/-- The feed source of the island that holds a section. -/
def State.islandSource (s : State) (n : Sec) : Option Src := feedOfPaths (s.paths n)

/-- The entry a source path gives a section (R123): its own entry, or TIE for a path of the other section. -/
def pathEntry (n : Sec) (x : Src) : Entry := if srcSec x = n then srcEntry x else .tie

/-- The feed the adoption evaluation gives a section (R123). -/
def State.adoptedFeed (s : State) (n : Sec) : Option Entry := (s.islandSource n).map (pathEntry n)

/-- The source of an entry (R3): fixed for an OWN entry, the other section's island's feed source for TIE. -/
def State.entrySource (s : State) (e : SecEntry) : Option Src :=
  match e.entry with
  | .tie => s.islandSource e.sec.other
  | o => ownSource e.sec o

/-- The source of a section's feed (R5). -/
def State.feedSource (s : State) (n : Sec) : Option Src :=
  (s.ctx n).feed.bind fun e => s.entrySource ⟨n, e⟩

/-- A measurement is valid (R31): bound, head PRESENT, record fresh. -/
def PointRec.valid (r : PointRec) : Bool := r.bound.isSome && r.status == .present && r.fresh

/-- A point's measurement is valid (R31). -/
def State.pointValid (s : State) (p : Point) : Bool := (s.hlc.points.get p).valid

/-- The decision frame of a computation made on request (R72): the last frame that ended, or 0. -/
def State.lastFrame (s : State) : Word := s.hlc.lastEnded.getD 0

/-- A power-up sequence that has ended (R175): its notice has been posted and the sections adopted. -/
def State.started (s : State) : Bool := s.adopted

/-- The reply of a deferred request of the given kind is formed (R181). -/
def formReply (kind : Byte) (r : Reply) (s : State) : State :=
  match s.spt.service with
  | some v =>
    if v.kind = kind ∧ v.phase = .deferred then
      { s with spt := { s.spt with service := some { v with phase := .formed r } } }
    else s
  | none => s

/-- Runs a step only while the part is not held in reset (R175). -/
def live (f : State → State) (s : State) : State := if s.inReset then s else f s

end Sys2Proof.Machine
end

