-- ==== Sys2Proof/Machine/Load.lean ====
section
/-! DEFINITION. The load manager LMG (chapter 8): sums and budgets, the shed pass, announcements, overload
supervision, islands, staged restoration, and the shed lines under block. -/

namespace Sys2Proof.Machine

/-! ### Feeders, sums and budgets -/

/-- A feeder's record. -/
def State.feeder (s : State) (f : Feeder) : FeederRec := s.lmg.feeders.get f

/-- A feeder's class in the item set in use (R144). -/
def State.cls (s : State) (f : Feeder) : Nat := s.plan.feeder f .cls

/-- A feeder counts in sums: fitted and CONNECTED (R149). -/
def State.carried (s : State) (f : Feeder) : Bool := s.plan.fitted f && !(s.feeder f).shed

/-- A feeder is sheddable (R144): fitted, CONNECTED, of class 2 to 8, with a demand above 0. -/
def State.sheddable (s : State) (f : Feeder) : Bool :=
  s.carried f && decide (2 ≤ s.cls f) && decide (s.cls f ≤ 8) && decide (0 < (s.feeder f).demand)

/-- The sum of a set of sections (R149): the demand of their fitted and CONNECTED feeders. -/
def State.sumOf (s : State) (secs : List Sec) : Nat :=
  ((allFeeders.filter fun f => secs.contains (feederSec f) && s.carried f).map fun f => (s.feeder f).demand).sum

/-- The class-1 demand of the board (R131, R145): fitted feeders of class 1. -/
def State.classOne (s : State) : Nat :=
  ((allFeeders.filter fun f => s.plan.fitted f && s.cls f == 1).map fun f => (s.feeder f).demand).sum

/-- The starting need of a feeder (R156): demand times surge, divided by 10 and rounded up. -/
def State.need (s : State) (f : Feeder) : Nat := ((s.feeder f).demand * s.plan.feeder f .surge + 9) / 10

/-- Changes one feeder's record. -/
def modFeeder (f : Feeder) (g : FeederRec → FeederRec) (s : State) : State :=
  { s with lmg := { s.lmg with feeders := s.lmg.feeders.set f (g (s.lmg.feeders.get f)) } }

/-- Replaces one section's shed stack. -/
def setStack (n : Sec) (l : List Feeder) (s : State) : State :=
  { s with lmg := { s.lmg with shedStack := s.lmg.shedStack.set n l } }

/-- Drives a shed line from its feeder's state at the event of the state change; while BLOCKED the change is not seen
on the line until the release (R159, R160). -/
def driveLine (f : Feeder) (level : Bool) (s : State) : State :=
  if s.blocked then s else { s with lmg := { s.lmg with lines := s.lmg.lines.set f level } }

/-! ### Island records (R148) -/

/-- The islands formed, by their members. -/
def State.islandIds (s : State) : List IslandId :=
  match s.lmg.islands with
  | .notFormed => []
  | .apart _ _ => [.bus1, .bus2]
  | .joined _ => [.both]

/-- An island's record. -/
def State.island (s : State) (i : IslandId) : Option IslandRec :=
  match s.lmg.islands, i with
  | .apart a _, .bus1 => some a
  | .apart _ b, .bus2 => some b
  | .joined j, .both => some j
  | _, _ => none

/-- Changes an island's record. -/
def modIsland (i : IslandId) (g : IslandRec → IslandRec) (s : State) : State :=
  { s with lmg := { s.lmg with islands :=
      match s.lmg.islands, i with
      | .apart a b, .bus1 => .apart (g a) b
      | .apart a b, .bus2 => .apart a (g b)
      | .joined j, .both => .joined (g j)
      | x, _ => x } }

/-- The formed island that holds a section. -/
def State.islandIdOf (s : State) (n : Sec) : IslandId :=
  match s.lmg.islands with
  | .joined _ => .both
  | _ => match n with
    | .sec1 => .bus1
    | .sec2 => .bus2

/-- A stack of the island is not empty. -/
def State.anyShed (s : State) (i : IslandId) : Bool := (islandSecs i).any fun n => !(s.lmg.shedStack.get n).isEmpty

/-- The t_step of the item set in use, in ms. -/
def State.stepMs (s : State) : Nat := s.plan.glob .tStep * 1000

/-! ### Shedding (R151 to R154) -/

/-- Sheds one feeder (R151) for a pass over the given sections. -/
def shedOne (secs : List Sec) (budget : Nat) (src : Src) (occ : Occasion) (f : Feeder) (s : State) : State :=
  let t := modFeeder f (fun r => { r with shed := true }) s
  let t := setStack (feederSec f) (t.lmg.shedStack.get (feederSec f) ++ [f]) t
  let t := modIsland (t.islandIdOf (feederSec f)) (fun r => { r with stretch := none }) (driveLine f true t)
  post (.shed f occ (s.cls f) (s.feeder f).demand (t.sumOf secs) budget src) t

/-- The order of a shed pass (R151): class, highest first, then feeder number, highest first. -/
def State.shedOrder (s : State) : List Feeder :=
  [8, 7, 6, 5, 4, 3, 2].flatMap fun c => allFeeders.reverse.filter fun f => s.cls f == c

/-- A shed pass over a set of sections against a budget (R151). -/
def shedPass (secs : List Sec) (budget : Nat) (src : Src) (occ : Occasion) (s : State) : State :=
  s.shedOrder.foldl (fun t f =>
    if decide (budget < t.sumOf secs) && t.sheddable f && secs.contains (feederSec f)
    then shedOne secs budget src occ f t else t) s

/-- The overload condition of a FED island (R153). -/
def State.overloaded (s : State) (i : IslandId) (x : Src) : Bool :=
  decide (s.plan.budget x < s.sumOf (islandSecs i)) &&
  allFeeders.any fun f => (islandSecs i).contains (feederSec f) && s.sheddable f

/-- The lowest-numbered member section of an island (R154). -/
def firstSec : IslandId → Sec
  | .bus2 => .sec2
  | _ => .sec1

/-- A shed pass with occasion OVERLOAD over a FED island (R153, R154). -/
def overloadPass (i : IslandId) (x : Src) (s : State) : State :=
  let t := shedPass (islandSecs i) (s.plan.budget x) x .overload (modIsland i (fun r => { r with overloadAt := none }) s)
  if decide (t.plan.budget x < t.sumOf (islandSecs i)) then
    match t.island i with
    | some r =>
      if r.reported then t
      else post (.overload (firstSec i) .overload i x (t.sumOf (islandSecs i)) (t.plan.budget x))
        (modIsland i (fun r => { r with reported := true }) t)
    | none => t
  else modIsland i (fun r => { r with reported := false }) t

/-- Overload supervision of one island at an event that can change its condition (R153, R154). -/
def superviseOne (i : IslandId) (s : State) : State :=
  match s.island i with
  | none => s
  | some r =>
    match r.source with
    | none => modIsland i (fun r => { r with overloadAt := none, reported := false }) s
    | some x =>
      if s.overloaded i x then
        if r.overloadAt.isNone && !s.blocked then
          if s.plan.glob .tOvl = 0 then overloadPass i x s
          else modIsland i (fun r => { r with overloadAt := some (s.now + s.plan.glob .tOvl * 1000) }) s
        else s
      else
        modIsland i (fun r => { r with
          overloadAt := none,
          reported := r.reported && decide (s.plan.budget x < s.sumOf (islandSecs i)) }) s

/-- Overload supervision of every island. Where two islands come over budget at one event, that of BUS1 is taken first:
the manual gives no order (DESIGN CHOICE, log entry 53). -/
def superviseAll (s : State) : State := s.islandIds.foldl (fun t i => superviseOne i t) s

/-! ### Announcements (R150, R152) -/

/-- Clears a section's announcement. -/
def clearAnn (n : Sec) (s : State) : State := { s with lmg := { s.lmg with anns := s.lmg.anns.set n none } }

/-- The sections of an announcement's resulting island (R150). -/
def annSecs (n : Sec) (a : Announcement) : List Sec := if a.both then allSecs else [n]

/-- A sequencer tells LMG its target (R150), and LMG sheds against the target's budget at once (R152). -/
def announce (n : Sec) (target : SecEntry) (s : State) : State :=
  let a : Announcement := ⟨target, s.entrySource target,
    target.entry == .tie || (s.closed .bkt && (s.ctx n).role != .dependent)⟩
  let secs := annSecs n a
  let t : State := { s with lmg := { s.lmg with anns := s.lmg.anns.set n (some a) } }
  match a.source with
  | none => t
  | some x =>
    let u := shedPass secs (t.plan.budget x) x .target t
    let members : IslandId := if a.both then .both else match n with | .sec1 => .bus1 | .sec2 => .bus2
    let v := if decide (u.plan.budget x < u.sumOf secs) then
        post (.overload n .target members x (u.sumOf secs) (u.plan.budget x)) u
      else u
    superviseAll v

/-- An announcement covers a section of the island (R150). -/
def State.covered (s : State) (i : IslandId) : Bool :=
  allSecs.any fun n =>
    match s.lmg.anns.get n with
    | some a => (annSecs n a).any fun m => (islandSecs i).contains m
    | none => false

/-- A sequencer tells LMG that its island is fed (R155): the announcement is cleared, and the restore timer of a FED
island is started afresh. -/
def islandFed (n : Sec) (s : State) : State :=
  let t := clearAnn n s
  modIsland (t.islandIdOf n) (fun r => if r.cond = .fed then { r with restoreAt := some (t.now + t.stepMs) } else r) t

/-! ### Islands as the contacts lie (R148) -/

/-- A record of an island just formed: timers idle, nothing reported, no stretch. -/
def IslandRec.new (paths : List Src) : IslandRec := ⟨condOfPaths paths, feedOfPaths paths, none, none, false, none⟩

/-- A kept record after its condition or feed source may have changed. -/
def IslandRec.reform (r : IslandRec) (paths : List Src) (anyShed : Bool) (due : Nat) : IslandRec :=
  match feedOfPaths paths with
  | none => IslandRec.new paths
  | some x =>
    if r.source = some x then r
    else { r with
      cond := .fed, source := some x,
      restoreAt := if anyShed && r.restoreAt.isNone then some due else r.restoreAt }

/-- Forms the islands from the aux positions (R148). -/
def formIslands (s : State) : State :=
  let due := s.now + s.stepMs
  let p1 := s.closedPaths [.sec1]
  let p2 := s.closedPaths [.sec2]
  let p := s.closedPaths allSecs
  let next : Islands :=
    if s.closed .bkt then
      match s.lmg.islands with
      | .joined j => .joined (j.reform p (s.anyShed .both) due)
      | _ => .joined (.new p)
    else
      match s.lmg.islands with
      | .apart a b => .apart (a.reform p1 (s.anyShed .bus1) due) (b.reform p2 (s.anyShed .bus2) due)
      | _ => .apart (.new p1) (.new p2)
  { s with lmg := { s.lmg with islands := next } }

/-- Re-forms the islands (R148), then supervises them (R153). -/
def reformIslands (s : State) : State := superviseAll (formIslands s)

/-! ### Restoration (R155 to R158) -/

/-- The candidate of a restore attempt (R156). -/
def State.candidate (s : State) (i : IslandId) : Option Feeder :=
  let top1 := (s.lmg.shedStack.get .sec1).getLast?
  let top2 := (s.lmg.shedStack.get .sec2).getLast?
  match i with
  | .bus1 => top1
  | .bus2 => top2
  | .both =>
    match top1, top2 with
    | some a, some b => if s.cls b < s.cls a then some b else some a
    | some a, none => some a
    | none, t => t

/-- Restores the top of a stack (R156). -/
def restoreOne (i : IslandId) (need budget : Nat) (f : Feeder) (s : State) : State :=
  let n := feederSec f
  let t := setStack n (s.lmg.shedStack.get n).dropLast s
  let t := driveLine f false (modFeeder f (fun r => { r with shed := false }) t)
  let t := modIsland i (fun r => { r with stretch := none }) t
  superviseAll (post (.restore f .step need (t.sumOf (islandSecs i)) budget) t)

/-- A restore attempt that is blocked (R157). -/
def restoreBlocked (i : IslandId) (r : IslandRec) (need budget : Nat) (f : Feeder) (s : State) : State :=
  if r.stretch = some f then s
  else post (.restoreBlocked f (feederSec f) need (s.sumOf (islandSecs i)) budget)
    (modIsland i (fun r => { r with stretch := some f }) s)

/-- One restore attempt of a FED island (R156). -/
def restoreAttempt (i : IslandId) (r : IslandRec) (x : Src) (s : State) : State :=
  match s.candidate i with
  | none => s
  | some f =>
    if s.sumOf (islandSecs i) + s.need f ≤ s.plan.budget x then restoreOne i (s.need f) (s.plan.budget x) f s
    else restoreBlocked i r (s.need f) (s.plan.budget x) f s

/-- Restore attempts of an island are held (R158). -/
def State.restoreHeld (s : State) (i : IslandId) : Bool := s.covered i || s.blocked

/-- The restore timer's next run (R155): started again while the island is FED with a stack not empty. -/
def restartRestore (i : IslandId) (s : State) : State :=
  modIsland i (fun r => { r with
    restoreAt := if r.cond == .fed && s.anyShed i then some (s.now + s.stepMs) else none }) s

/-- An island's restore timer expires (R155): one attempt unless held, and the timer restarts. -/
def restoreExpiry (i : IslandId) (s : State) : State :=
  match s.island i with
  | none => s
  | some r =>
    match r.restoreAt with
    | none => s
    | some d =>
      let t := reach d s
      let u := match r.source with
        | some x => if t.anyShed i && !t.restoreHeld i then restoreAttempt i r x t else t
        | none => t
      restartRestore i u

/-- An island's overload timer expires and a pass runs (R153). -/
def overloadExpiry (i : IslandId) (s : State) : State :=
  match s.island i with
  | none => s
  | some r =>
    match r.overloadAt, r.source with
    | some d, some x => overloadPass i x (reach d s)
    | some _, none => modIsland i (fun r => { r with overloadAt := none }) s
    | none, _ => s

/-! ### Demands and activation (R145, R146) -/

/-- Reports the total class-1 demand when it differs from what it was (R145, R161). -/
def reportClassOne (before : Nat) (s : State) : State := if s.classOne = before then s else report .classOneDemand s

/-- The demand a feeder is held at is set, clamped to 5000 kW (R145). -/
def setDemand (f : Feeder) (v : Nat) (s : State) : State :=
  reportClassOne s.classOne (superviseAll (modFeeder f (fun r => { r with demand := min v 5000 }) s))

/-- Takes a SHED feeder that an activation made essential or absent off its stack (R146). -/
def unshedForPlan (f : Feeder) (s : State) : State :=
  let n := feederSec f
  let t := setStack n ((s.lmg.shedStack.get n).filter (· ≠ f)) s
  let t := driveLine f false (modFeeder f (fun r => { r with shed := false }) t)
  let i := t.islandIdOf n
  let t := modIsland i (fun r => if r.stretch = some f then { r with stretch := none } else r) t
  match (t.island i).bind (·.source) with
  | some x => post (.restore f .plan 0 (t.sumOf (islandSecs i)) (t.plan.budget x)) t
  | none => useFree (post (.restore f .plan 0 (t.sumOf (islandSecs i)) (Config.noBudget t.freeCount)) t)

/-- One feeder under a new page (R146). -/
def feederActivated (old : Items) (f : Feeder) (s : State) : State :=
  let t := if old.fitted f && !s.plan.fitted f then
      modFeeder f (fun r => { r with demand := s.plan.feeder f .demand }) s
    else s
  if (t.feeder f).shed && (!t.plan.fitted f || t.cls f == 1) then unshedForPlan f t else t

/-- The shed lines when feeder_lines_on_block changes while BLOCKED (R160). -/
def linesOnBlock (s : State) : State :=
  if s.plan.glob .linesOnBlock = 1 then { s with lmg := { s.lmg with lines := linesOff } } else s

/-- What LMG does when an activation takes effect (R146, R160); `oldOne` is the class-1 demand before it. -/
def loadActivated (old : Items) (oldOne : Nat) (s : State) : State :=
  let t := allFeeders.foldl (fun t f => feederActivated old f t) s
  let t := if t.blocked then linesOnBlock t else t
  reportClassOne oldOne (superviseAll t)

/-! ### The block (R160) -/

/-- LMG at the entry into BLOCKED. -/
def loadBlocked (s : State) : State :=
  linesOnBlock (s.islandIds.foldl (fun t i => modIsland i (fun r => { r with overloadAt := none }) t) s)

/-- The shed lines as the feeder states say. -/
def driveAllLines (s : State) : State := allFeeders.foldl (fun t f => driveLine f (t.feeder f).shed t) s

end Sys2Proof.Machine
end

