-- ==== Sys2Proof/Machine/Layouts.lean ====
section
/-! DEFINITION. Encodings (chapter 11): the CRC-16, the codes of the value sets, the fields of each notice, and the bytes
of every reply. What the manual leaves open of a reply's layout is a free value of `Config`. -/

namespace Sys2Proof.Machine

/-! ### Bytes and the check (R193, R194) -/

/-- A number as two bytes, high byte first (R193). -/
def be16 (n : Nat) : List Byte := [byteOf (n / 256), byteOf n]

/-- A number as three bytes, high byte first. -/
def be24 (n : Nat) : List Byte := [byteOf (n / 65536), byteOf (n / 256), byteOf n]

/-- A number as four bytes, high byte first. -/
def be32 (n : Nat) : List Byte := [byteOf (n / 16777216), byteOf (n / 65536), byteOf (n / 256), byteOf n]

/-- One shift of the CRC register (R194). -/
def crcShift (r : Half) : Half := if r.msb then (r <<< 1) ^^^ 0x1021 else r <<< 1

/-- The CRC register after one byte (R194). -/
def crcByte (r : Half) (b : Byte) : Half :=
  let x := r ^^^ (b.zeroExtend 16 <<< 8)
  crcShift (crcShift (crcShift (crcShift (crcShift (crcShift (crcShift (crcShift x)))))))

/-- The CRC-16 of a list of bytes (R194). -/
def crc16 (l : List Byte) : Half := l.foldl crcByte 0xFFFF

/-- Two bytes read high byte first. -/
def readHalf (h l : Byte) : Half := (h ++ l : BitVec 16)

/-- Four bytes read high byte first. -/
def readWord (a b c d : Byte) : Word := (a ++ b ++ c ++ d : BitVec 32)

/-! ### Codes (R184, R193) -/

def Status.code : Status → Byte
  | .ok => 0 | .badLength => 1 | .unknownKind => 2 | .badArgument => 3 | .busy => 4 | .wrongMode => 5
  | .blocked => 6 | .interlock => 7 | .notAvailable => 8 | .noPlan => 9 | .pageActive => 10
  | .pageNotValid => 11 | .checkFailed => 12 | .headTimeout => 13 | .headsUnbound => 14
  | .duplicatePoint => 15 | .storeFault => 16

def SeqState.code : SeqState → Byte
  | .fed => 1 | .returnWait => 2 | .sync => 3 | .waitSource => 4 | .opening => 5 | .decay => 6
  | .closing => 7 | .overlap => 8 | .halted => 9

def SrcState.code : SrcState → Byte
  | .absent => 0 | .unknown => 1 | .down => 2 | .pickup => 3 | .healthy => 4 | .dropout => 5

def BusState.code : BusState → Byte
  | .unknown => 1 | .live => 2 | .decaying => 3 | .dead => 4

def Cause.code : Cause → Byte
  | .none => 0 | .undervolt => 1 | .overvolt => 2 | .underfreq => 3 | .overfreq => 4 | .sequence => 5
  | .dead => 6 | .meas => 7

def Position.code : Position → Byte
  | .isOpen => 0 | .isClosed => 1 | .closing => 2 | .opening => 3 | .faulted => 4 | .locked => 5

def HaltCause.code : HaltCause → Byte
  | .none => 0 | .busFault => 1 | .failToOpen => 2 | .failToClose => 3 | .decayTimeout => 4
  | .overlapFail => 5 | .parallelFound => 6 | .blockedInTransfer => 7

def Method.code : Method → Byte
  | .none => 0 | .inPhase => 1 | .residual => 2 | .timed => 3 | .timeout => 4 | .closed => 5

def StartCause.code : StartCause → Byte
  | .loss => 1 | .externalOpen => 2 | .return => 3 | .request => 4 | .retarget => 5 | .reselect => 6

def ContactKind.code : ContactKind → Byte
  | .confirmClose => 1 | .confirmOpen => 2 | .inOperation => 3 | .externalClose => 4 | .externalOpen => 5
  | .protectionOpen => 6

def ClaimReason.code : ClaimReason → Byte
  | .owned => 0x91 | .tieUnavailable => 0x92 | .otherBusy => 0x93 | .otherNotFed => 0x94 | .budget => 0x95

def CloseFailReason.code : CloseFailReason → Byte
  | .refused s => s.code
  | .failToClose => 0x81
  | .targetDown => 0x82
  | .locked => 0x83
  | .claim r => r.code

def Requester.code : Requester → Byte
  | .seq .sec1 => 1 | .seq .sec2 => 2 | .mdc => 3

def Mode.code : Mode → Byte
  | .manual => 0 | .auto => 1

def PageStatus.code : PageStatus → Byte
  | .blank => 0 | .draft => 1 | .valid => 2

def LinkState.code : LinkState → Byte
  | .starting => 0 | .bound => 1 | .unbound => 2

def Occasion.code : Occasion → Byte
  | .target => 1 | .overload => 2 | .step => 3 | .plan => 4

/-- The fault causes of a BREAKER_FAULT notice (section 11.3); a channel without one is never the subject. -/
def ChanFault.code : ChanFault → Byte
  | .none => 0 | .failToClose => 1 | .failToOpen => 2

/-- The entry codes of R3. -/
def entryCode : Entry → Byte
  | .ownA => 1 | .ownB => 2 | .tie => 3

def secCode : Sec → Byte
  | .sec1 => 1 | .sec2 => 2

def chanCode (c : Chan) : Byte := byteOf (chanIx c + 1)
def srcCode (x : Src) : Byte := byteOf (srcIx x + 1)
def pageCode (p : PageNo) : Byte := byteOf (pageIx p)
def feederCode (f : Feeder) : Byte := byteOf (f.val + 1)

/-- The point codes: SRC1 to SRC4 are 1 to 4, BUS1 and BUS2 are 5 and 6 (R1). -/
def pointCode : Point → Byte
  | .src x => srcCode x
  | .bus b => byteOf (secIx b + 5)

/-- An entry with its section: the section in the high four bits, the code of R3 in the low four (R193). -/
def SecEntry.code (e : SecEntry) : Byte := byteOf (16 * (secCode e.sec).toNat + (entryCode e.entry).toNat)

/-- An entry field that can be absent (R193). -/
def entryField : Option SecEntry → Byte
  | some e => e.code
  | none => 0

/-- A feed field of a section (R193). -/
def feedField (n : Sec) (e : Option Entry) : Byte := entryField (e.map fun e => ⟨n, e⟩)

/-- A channel reference that can be absent (R193). -/
def chanField : Option Chan → Byte
  | some c => chanCode c
  | none => 0

/-- A page number that can be absent (R193). -/
def pageField : Option PageNo → Byte
  | some p => pageCode p
  | none => 0xFF

/-- The stored active pointer (R193). -/
def StoredPtr.code : StoredPtr → Byte
  | .noPage => 0xFF
  | .page p => pageCode p
  | .unreadable => 0xFE

/-- A signed field in 16-bit two's complement (R193). -/
def signed16 (v : Int) : List Byte := be16 (v % 65536).toNat

/-- The fields Δp and s; absent they are 0x8000 (R193). -/
def angleSlipField : Option (Int × Int) → List Byte
  | some (dp, sl) => signed16 dp ++ signed16 sl
  | none => [0x80, 0x00, 0x80, 0x00]

/-- A set as one byte with bit k−1 standing for code k (R193). -/
def setByte (l : List Bool) : Byte :=
  byteOf (l.foldr (fun b n => 2 * n + if b then 1 else 0) 0)

/-- The channel set byte. -/
def chanSet (t : ByChan Bool) : Byte := setByte [t.bk1, t.bk2, t.bk3, t.bk4, t.bkt]

/-- The point set byte. -/
def pointSet (t : ByPoint Bool) : Byte :=
  setByte [t.srcs.src1, t.srcs.src2, t.srcs.src3, t.srcs.src4, t.buses.sec1, t.buses.sec2]

/-- The member set of an island. -/
def memberCode : IslandId → Byte
  | .bus1 => 1 | .bus2 => 2 | .both => 3

/-- The dead time of TRANSFER_DONE: three bytes, held at 0xFFFFFF (R193). -/
def deadField (n : Nat) : List Byte := be24 (min n 0xFFFFFF)

/-! ### Notices (section 10.5 and section 11.3) -/

/-- The code of a notice's kind. -/
def Note.code : Note → Byte
  | .powerUp .. => 1 | .sourceState .. => 2 | .transferBegin .. => 3 | .transferDone .. => 4
  | .closeFail .. => 5 | .syncTimeout .. => 6 | .sectionHalted .. => 7 | .breakerFault .. => 8
  | .breakerExternal .. => 9 | .lockout .. => 10 | .shed .. => 11 | .restore .. => 12
  | .restoreBlocked .. => 13 | .overload .. => 14 | .headLost .. => 15 | .headBack .. => 16
  | .mapMismatch .. => 17 | .planActivated .. => 18 | .genStartFail .. => 19

/-- The subject of a notice, 0 for none. -/
def Note.subject : Note → Byte
  | .powerUp .. | .mapMismatch .. | .planActivated .. => 0
  | .sourceState x .. => srcCode x
  | .genStartFail x .. => srcCode x
  | .transferBegin n .. => secCode n
  | .transferDone n .. => secCode n
  | .closeFail n .. => secCode n
  | .syncTimeout n .. => secCode n
  | .sectionHalted n .. => secCode n
  | .overload n .. => secCode n
  | .breakerFault c .. => chanCode c
  | .breakerExternal c .. => chanCode c
  | .lockout c .. => chanCode c
  | .shed f .. => feederCode f
  | .restore f .. => feederCode f
  | .restoreBlocked f .. => feederCode f
  | .headLost p _ => pointCode p
  | .headBack p _ => pointCode p

/-- The field bytes of a notice, in the order of section 11.3. -/
def Note.fields : Note → List Byte
  | .powerUp link act st1 f1 st2 f2 lk blk =>
    [link.code, pageField act, st1.code, feedField .sec1 f1, st2.code, feedField .sec2 f2, chanSet lk, flagByte blk]
  | .sourceState _ new prev cause => [new.code, prev.code, cause.code]
  | .transferBegin _ o t closed cause => [entryField o, entryField t, flagByte closed, cause.code]
  | .transferDone _ o d m dead a t =>
    [entryField o, entryField d, m.code] ++ deadField dead ++ angleSlipField a ++ be16 (t.getD 0)
  | .closeFail _ c r => [chanCode c, r.code]
  | .syncTimeout _ t a => [entryField t] ++ angleSlipField a
  | .sectionHalted n cause c left feed => [cause.code, chanField c, left.code, feedField n feed]
  | .breakerFault _ cause q => [cause.code, q.code]
  | .breakerExternal _ k held => [k.code, match held with | some p => p.code | none => 0xFF]
  | .lockout _ left aux => [left.code, flagByte aux]
  | .shed _ occ cls d sum b x => [occ.code, byteOf cls] ++ be16 d ++ be32 sum ++ be16 b ++ [srcCode x]
  | .restore _ occ need sum b => [occ.code] ++ be16 need ++ be32 sum ++ be16 b
  | .restoreBlocked _ n need sum b => [secCode n] ++ be16 need ++ be32 sum ++ be16 b
  | .overload _ occ mem x sum b => [occ.code, memberCode mem, srcCode x] ++ be32 sum ++ be16 b
  | .headLost _ h => [byteOf (sixNo h.addr), byteOf (sixNo h.line)]
  | .headBack _ h => [byteOf (sixNo h.addr), byteOf (sixNo h.line)]
  | .mapMismatch diff dup line unk => [pointSet diff, setByte [dup, line, unk]]
  | .planActivated p prev => [pageCode p, pageField prev]
  | .genStartFail _ t st cause => be16 t ++ [st.code, cause.code]

/-! ### Replies (section 11.2.1) -/

/-- One page's byte in the answer of STATUS_GET. -/
def pageByte (p : PageStatus × Bool) : Byte := byteOf (p.1.code.toNat + if p.2 then 16 else 0)

/-- The answer of STATUS_GET, 22 bytes. The accepted BLKn level is sent as 1 for asserted, the pin low: the manual does
not say which level is 1 (DESIGN CHOICE, log entry 15). In each half of the annunciator byte, latches high and lines low
(section 11.2.1), AN1 has the lowest bit: R193 orders the bits of points, channels and sections, not of these lines (DESIGN
CHOICE, log entry 62). -/
def StatusAns.bytes (a : StatusAns) : List Byte :=
  [flagByte a.ended, a.modes.sec1.code, a.states.sec1.code, a.modes.sec2.code, a.states.sec2.code] ++
  [match a.owner with | none => 0 | some n => secCode n, flagByte a.blocked, flagByte a.hostBlock, flagByte a.blk] ++
  [pageField a.active, pageField a.waiting, pageCode a.edit, a.stored.code] ++
  [pageByte a.pages.p0, pageByte a.pages.p1, pageByte a.pages.p2, pageByte a.pages.p3] ++
  [a.link.code, flagByte a.alarm, (a.latches ++ a.lines : BitVec 8), byteOf a.notices, flagByte a.overflow]

/-- The answer of NOTICE_GET, 9 bytes and the fields. -/
def noticeBytes (n : Option Notice) (left : Nat) (overflow : Bool) : List Byte :=
  match n with
  | none => [0, 0] ++ be32 0 ++ [0, flagByte overflow, 0]
  | some n =>
    [n.note.code, n.note.subject] ++ be32 n.time.toNat ++
    [byteOf left, flagByte overflow, byteOf n.note.fields.length] ++ n.note.fields

/-- The answer of FEEDER_GET for one feeder, 10 bytes. -/
def FeederAns.bytes (a : FeederAns) : List Byte :=
  [feederCode a.feeder, flagByte a.fitted, secCode a.sec, byteOf a.cls] ++ be16 a.demand ++
  [byteOf a.surge, flagByte a.shed, flagByte a.line, byteOf a.place]

/-! #### The other answers

The manual gives their fields, in the order of the rule named; section 11.1 gives the width and the codes of most. A width,
a code or an absent form that no rule gives is a free value of `Config` (log entry 13). -/

/-- A number in w bytes, high byte first (R193). -/
def beN : Nat → Nat → List Byte
  | 0, _ => []
  | w + 1, n => beN w (n / 256) ++ [byteOf n]

/-- A number of a field without a width. -/
def openNum (f : OpenField) (n : Nat) : List Byte := beN ((Config.width f).val + 1) n

/-- What stands for an absent field that has no absent form. -/
def absentField (f : OpenField) : List Byte := (Config.absent f).take 8

/-- What marks the length of a list. -/
def listMark (f : OpenField) (n : Nat) : List Byte := (Config.listMark f n).take 4

/-- A field that can be absent and has no absent form. -/
def optField {α : Type} (f : OpenField) (g : α → List Byte) : Option α → List Byte
  | some x => g x
  | none => absentField f

/-- A field Δ0, Δp or s that can be absent (R193). -/
def signedField : Option Int → List Byte
  | some v => signed16 v
  | none => [0x80, 0x00]

/-- A source reference that can be absent (R193). -/
def srcField : Option Src → Byte
  | some x => srcCode x
  | none => 0

/-- A feeder reference that can be absent (R193). -/
def feederField : Option Feeder → Byte
  | some f => feederCode f
  | none => 0

/-- The tie owner as STATUS_GET sends it. -/
def ownerCode : Option Sec → Byte
  | some n => secCode n
  | none => 0

def ItemSet.code : ItemSet → Byte
  | .openItems => 0 | .closedItems => 1

/-- A value set's place in the order its rule gives, to which `Config.code` gives the byte. -/
def HeadStatus.ix : HeadStatus → Nat
  | .absent => 0 | .present => 1 | .lost => 2

def QTimer.ix : Option QTimer → Nat
  | none => 0 | some .pick => 1 | some .drop => 2 | some .fast => 3

def NotAvailable.ix : NotAvailable → Nat
  | .invalid => 0 | .noFrequency => 1 | .aged => 2

def NoPermit.ix : NoPermit → Nat
  | .window => 0 | .slip => 1 | .lowBus => 2 | .notHealthy => 3

def OpKind.ix : OpKind → Nat
  | .close => 0 | .trip => 1

def Role.ix : Role → Nat
  | .sole => 0 | .supplying => 1 | .dependent => 2

def IslandCond.ix : IslandCond → Nat
  | .dead => 0 | .fed => 1 | .parallel => 2

def RunState.ix : RunState → Nat
  | .off => 0 | .run => 1 | .cool => 2

/-- A bound or discovered entry: the address and the line (R28). -/
def HeadPlace.bytes (h : HeadPlace) : List Byte := [byteOf (sixNo h.addr), byteOf (sixNo h.line)]

/-- A summary (R27): three voltages, the frequency, the angle, the order and the arrival frame. -/
def Summary.bytes (m : Summary) : List Byte :=
  openNum .summaryVolts m.v1 ++ openNum .summaryVolts m.v2 ++ openNum .summaryVolts m.v3 ++
  openNum .summaryFreq m.freq ++ openNum .summaryAngle m.angle ++ [flagByte m.acb] ++ be32 m.arrival.toNat

/-- A measurement record (R28). The bound field is the address and the line, with no yes byte before them, and an absent form
where the point is not bound (DESIGN CHOICE, log entry 13). -/
def PointRec.bytes (r : PointRec) : List Byte :=
  optField .headPlace HeadPlace.bytes r.bound ++ [Config.code .headStatus r.status.ix] ++ openNum .lossCount r.loss ++
  optField .summary Summary.bytes r.last ++ [flagByte r.fresh] ++ be16 r.input.toNat

/-- A qualification record and its remaining time (R61). -/
def qualBytes (q : QualRec × Nat) : List Byte :=
  [q.1.state.code, q.1.cause.code, Config.code .qualTimer (QTimer.ix (q.1.timer.map (·.1)))] ++
  openNum .qualLeft q.2 ++ openNum .entered q.1.entered

/-- A bus record (R61). -/
def BusRec.bytes (b : BusRec) : List Byte :=
  [b.state.code] ++ openNum .busVolts b.vmax ++ openNum .entered b.entered

/-- The answer of POINT_GET (R189, R61). The bound entry, which R28 and R189 both name, is sent once, at the head of the
record; no yes byte stands before the discovered entry (DESIGN CHOICE, log entry 13). -/
def PointAns.bytes (a : PointAns) : List Byte :=
  a.record.bytes ++ [flagByte a.valid] ++ optField .headPlace HeadPlace.bytes a.discovered ++ [a.link.code] ++
  (match a.qual with | some q => qualBytes q | none => []) ++ (match a.bus with | some b => b.bytes | none => [])

/-- The values of a result that can be absent (R66). -/
def Formed.values : Formed → Option PairValues
  | .available v => some v
  | .notAvailable _ => none

/-- Whether a result is available, with the reason where it is not (R66): a yes/no byte, and a reason byte after a no (DESIGN
CHOICE, log entry 13). -/
def Formed.head : Formed → List Byte
  | .available _ => [flagByte true]
  | .notAvailable r => [flagByte false, Config.code .notAvailable r.ix]

/-- A result's permit, with the reason where there is none (R66), laid out as the availability is (DESIGN CHOICE, log entry
13). -/
def permitBytes (v : PairValues) : List Byte :=
  match v.fails with
  | none => [flagByte true]
  | some r => [flagByte false, Config.code .permit r.ix]

/-- A coincidence result (R66). -/
def PairResult.bytes (r : PairResult) : List Byte :=
  let v := r.formed.values
  be32 r.nd.toNat ++ [r.set.code, secCode r.judging] ++ r.formed.head ++
  optField .frames (fun v : PairValues => be32 v.ni.toNat ++ be32 v.nb.toNat) v ++
  signedField (v.map (·.d0)) ++ signedField (v.map (·.slip)) ++
  optField .closeTime (fun v : PairValues => openNum .closeTime v.tc) v ++
  optField .horizon (fun v : PairValues => openNum .horizon v.hor) v ++
  signedField (v.map (·.dp)) ++ optField .permit permitBytes v

/-- A generator's state, of a code no rule gives, and the remaining width of a running pulse (R93). Of an idle generator no
width is sent (DESIGN CHOICE, log entry 13). -/
def pulseBytes (running : Bool) (left : Nat) : List Byte :=
  Config.code .pulseState (if running then 1 else 0) :: if running then openNum .pulseLeft left else []

/-- A channel's fault cause (R93), by the codes section 11.3 gives the field of BREAKER_FAULT (log entry 13). -/
def faultByte : ChanFault → Byte
  | .none => Config.code .noFault 0
  | f => f.code

/-- The answer of BREAKER_GET (R93). The commanded position carries the code of that position (R193). -/
def BreakerAns.bytes (a : BreakerAns) : List Byte :=
  let r := a.record
  [r.position.code, (if r.cmdClosed then Position.isClosed else .isOpen).code] ++
  [flagByte r.aux.accepted, flagByte r.ready.accepted, flagByte r.racked.accepted, flagByte r.prot.accepted] ++
  pulseBytes r.closeEnd.isSome a.closeLeft ++ pulseBytes r.tripEnd.isSome a.tripLeft ++
  optField .operation (fun o : Operation =>
    [Config.code .opKind o.kind.ix, o.requester.code] ++ openNum .confirmLeft a.confirmLeft) r.op ++
  openNum .closeTime r.tc ++ optField .measured (openNum .measured) r.lastM ++ [faultByte r.fault, flagByte a.available]

/-- What holds selection (R188), as the number of the set of its four grounds in the order of the rule. It is sent as one
byte, a free code of that set (DESIGN CHOICE, log entry 13). -/
def HeldBy.ix (h : HeldBy) : Nat :=
  (setByte [h.block, h.settle, h.closedReturn, h.service]).toNat

/-- The answer of SECTION_GET (R101, R188). The lost entry is followed by its exclusion flag, and with no lost entry an absent
form stands in the flag's place (DESIGN CHOICE, log entry 13). -/
def SectionAns.bytes (a : SectionAns) : List Byte :=
  let c := a.ctx
  let n := a.sec
  [a.mode.code, c.state.code, feedField n c.feed, entryField c.origin, entryField c.target] ++
  (match c.lost with
    | some l => [feedField n (some l.entry), flagByte l.excluded]
    | none => 0 :: absentField .lostFlag) ++
  [flagByte c.closedTrans, feedField n c.outgoing, c.method.code] ++
  angleSlipField c.closeRec.angleSlip ++ openNum .trigTime c.closeRec.trigAt ++
  [flagByte c.closeStop, flagByte c.decayOver, flagByte c.deadOver] ++
  openNum .timerLeft a.tReturnLeft ++ openNum .timerLeft a.tSyncLeft ++ openNum .timerLeft a.tDecayLeft ++
  openNum .timerLeft a.tDeadLeft ++ openNum .timerLeft a.tOverlapLeft ++
  openNum .startTime c.startMs ++ openNum .openTime c.openMs ++
  [c.haltCause.code, chanField c.haltChan, Config.code .role c.role.ix] ++ openNum .settleLeft a.settleLeft ++
  [Config.code .heldBy a.held.ix, a.ownA.1.code, a.ownA.2.code, a.ownB.1.code, a.ownB.2.code, a.bus.code,
    ownerCode a.owner]

/-- One shed stack, bottom to top (R162). -/
def stackBytes (l : List Feeder) : List Byte := listMark .stack l.length ++ l.map feederCode

/-- A section's announcement (R162): target, target source and resulting island, the set of its sections (R193). -/
def annBytes (n : Sec) (a : Announcement) : List Byte :=
  [a.target.code, srcField a.source, if a.both then memberCode .both else secCode n]

/-- One island of the summary (R162). -/
def IslandAns.bytes (i : IslandAns) : List Byte :=
  [memberCode i.members, Config.code .islandCond i.cond.ix, srcField i.source] ++ be32 i.sum ++
  optField .islandBudget be16 i.budget ++ openNum .islandTimer i.restoreLeft ++ openNum .islandTimer i.overloadLeft ++
  [flagByte i.reported, feederField i.stretch]

/-- The load manager's summary (R162). -/
def SummaryAns.bytes (a : SummaryAns) : List Byte :=
  stackBytes a.shedStack.sec1 ++ stackBytes a.shedStack.sec2 ++ be32 a.class1 ++
  optField .announcement (annBytes .sec1) a.anns.sec1 ++ optField .announcement (annBytes .sec2) a.anns.sec2 ++
  listMark .islands a.islands.length ++ a.islands.flatMap IslandAns.bytes

/-- The bytes after STATUS of every reply (section 11.2.1, R183, R193). PAIR_GET's watches are one section-set byte, and the
flags of LINK_RESTART a yes/no byte each: the manual lays neither out (DESIGN CHOICE, log entry 13). -/
def Body.bytes : Body → List Byte
  | .empty => []
  | .identity => [0x4A, 0x03, 0x50, 0x42, 1]
  | .status a => a.bytes
  | .notice n left o => noticeBytes n left o
  | .feeder a => a.bytes
  | .claimTest r => [r.code]
  | .point a => a.bytes
  | .pair r w1 w2 => optField .result PairResult.bytes r ++ [setByte [w1, w2]]
  | .breaker a => a.bytes
  | .position p => [p.code]
  | .sectionView a => a.bytes
  | .mode m st => [m.code, st.code]
  | .block flag blk blocked => [flagByte flag, flagByte blk, flagByte blocked]
  | .coincidence r => r.bytes
  | .summary a => a.bytes
  | .demand held => be16 held
  | .item v page st saved => be32 v.toNat ++ [pageCode page, st.code, flagByte saved]
  | .check code group index field => [byteOf code, byteOf group, byteOf index, byteOf field]
  | .outcome inEffect => [Config.code .outcome (if inEffect then 0 else 1)]
  | .headData index data => byteOf index :: be16 data.toNat
  | .restart link dup line unk diff => [link.code, flagByte dup, flagByte line, flagByte unk, pointSet diff]
  | .output latch level => [flagByte latch, flagByte level]
  | .gen flag st line => [flagByte flag, Config.code .runState st.ix, flagByte line]

/-- The bytes of a reply between SYNC and the check: LEN, KIND, TAG, STATUS and the answer (R183). -/
def Reply.inner (r : Reply) (kind tag : Byte) : List Byte :=
  let b := r.body.bytes
  [byteOf (b.length + 1), kind + 0x80, tag, r.status.code] ++ b

/-- The frame of a reply to a request of the given kind and tag (R183, R194, section 11.2). -/
def Reply.frame (r : Reply) (kind tag : Byte) : List Byte :=
  let inner := r.inner kind tag
  [0xC3] ++ inner ++ be16 (crc16 inner).toNat

end Sys2Proof.Machine
end

