-- ==== Sys2Proof/Machine/Flags.lean ====
section
/-! DEFINITION. The output pins and the signals of the part, each worked out from the state it follows (R24, R94, R95,
R97, R159, R172, R179, R192, section 11.5). During reset every one is inactive (R175). -/

namespace Sys2Proof.Machine

/-- A close coil output: active while the close generator runs (R77, R80). -/
def State.closeCoil (s : State) (c : Chan) : Bool := !s.inReset && (s.bcu.get c).closeEnd.isSome

/-- A trip coil output (R77, R80). -/
def State.tripCoil (s : State) (c : Chan) : Bool := !s.inReset && (s.bcu.get c).tripEnd.isSome

/-- A shed line (R159). -/
def State.shedLine (s : State) (f : Feeder) : Bool := !s.inReset && s.lmg.lines.get f

/-- A generator run line: asserted in RUN and COOL (R172). -/
def State.runLine (s : State) (x : Src) : Bool := !s.inReset && (s.mdc.runs.get x).state != .off

/-- A state of a sequencer in a transfer (TRANSFER_ACTIVE of R95). -/
def SeqState.inTransfer : SeqState → Bool
  | .sync | .opening | .decay | .closing | .overlap => true
  | .fed | .returnWait | .waitSource | .halted => false

/-- The eleven signals of TRACK use (R95). -/
def State.signal (s : State) : Nat → Bool
  | 1 => (s.ctx .sec1).feed.isSome
  | 2 => (s.ctx .sec2).feed.isSome
  | 3 => (s.ctx .sec1).state.inTransfer || (s.ctx .sec2).state.inTransfer
  | 4 => (s.ctx .sec1).state == .halted || (s.ctx .sec2).state == .halted
  | 5 => s.healthy .src1
  | 6 => s.healthy .src2
  | 7 => s.healthy .src3
  | 8 => s.healthy .src4
  | 9 => s.blocked
  | 10 => s.closed .bkt
  | 11 => allFeeders.any fun f => (s.lmg.feeders.get f).shed
  | _ => false

/-- The use item of an annunciator line. -/
def useItem (k : Fin 4) : GlobalItem :=
  match k.val with
  | 0 => .an1Use
  | 1 => .an2Use
  | 2 => .an3Use
  | _ => .an4Use

/-- The level an annunciator line has outside reset (R94): its latch in LEVEL use, its signal in TRACK use. -/
def State.anLevel (s : State) (k : Fin 4) : Bool :=
  match s.plan.glob (useItem k) with
  | 0 => s.mdc.latches.getLsbD k.val
  | n => s.signal n

/-- An annunciator line (R94). -/
def State.anLine (s : State) (k : Fin 4) : Bool := !s.inReset && s.anLevel k

/-- The four line levels as one field (section 11.2.1), AN1 lowest (DESIGN CHOICE, log entry 62). -/
def State.anLevels (s : State) : BitVec 4 :=
  (if s.anLine 0 then 1 else 0) ||| (if s.anLine 1 then 2 else 0) ||| (if s.anLine 2 then 4 else 0) |||
  (if s.anLine 3 then 8 else 0)

/-- The ALARM line (R97). -/
def State.alarmLine (s : State) : Bool := !s.inReset && s.mdc.alarm.isSome

/-- ATTNn is driven low: the notice queue holds at least one notice (R192). -/
def State.attnLow (s : State) : Bool := !s.inReset && !s.spt.queue.isEmpty

/-- HM_DE is asserted (R179). -/
def State.driverEnable (s : State) : Bool := !s.inReset && s.spt.hmDe

/-- HL_RSTn is low (R24, R37, R175). -/
def State.headReset (s : State) : Bool := s.inReset || s.hlc.rstLow

/-! ### The head link pins (R24)

A level within a frame is a function of the period of HL_CLK, 0 to 249, of the frame in progress: the state holds the frame's
slots, and the 1 µs of a period is timing (log entry 1). -/

/-- HL_CLK runs (R24): while frames are sent and during a cold reset pulse, never in reset. From the release of RSTn to the
first link start it does not run (log entry 19). -/
def State.clockRuns (s : State) : Bool := !s.inReset && (s.hlc.running || s.hlc.rstEnd.isSome)

/-- HL_SYNC in a period of the frame in progress (R24): a pulse in the first period. -/
def State.syncPulse (s : State) (period : Nat) : Bool := !s.inReset && s.hlc.running && period == 0

/-- Slot k of an outbound frame (R25): slots 4 to 8 are zero. -/
def OutFrame.slot (f : OutFrame) : Nat → Slot
  | 0 => f.tag
  | 1 => f.s1
  | 2 => f.s2
  | 3 => f.s3
  | _ => 0

/-- HL_OUT in a period of the frame in progress (R24): slot k in the periods from 24 k, bit 23 first; low in the 34 periods
after the ninth slot, in a cold reset pulse and in reset. -/
def State.headOut (s : State) (period : Nat) : Bool :=
  !s.inReset && s.hlc.running && decide (period < 216) &&
  (s.hlc.outFrame.slot (period / 24)).getLsbD (23 - period % 24)

/-! ### The supervisory line (R179) -/

/-- The bit rate the straps choose, in bit/s (R179); 11 is as 00. -/
def baudRate (straps : BitVec 2) : Nat :=
  match straps.toNat with
  | 1 => 57600
  | 2 => 230400
  | _ => 19200

/-- The bit rate in force: the straps are held from the release of RSTn (R179). -/
def State.bitRate (s : State) : Nat := baudRate s.spt.baud

/-- Bit i of a byte on the line (R179): a start bit, low; eight data bits, least significant first; a stop bit, high. -/
def lineBit (b : Byte) : Nat → Bool
  | 0 => false
  | 9 => true
  | i => b.getLsbD (i - 1)

/-- HM_TX in bit time k of the reply being sent (R179): its frame byte by byte, ten bits each; otherwise, and in reset, the
idle high level. A bit time is 1 s over the bit rate, which is timing (log entry 1). -/
def State.transmit (s : State) (k : Nat) : Bool :=
  match s.inReset, s.spt.service with
  | false, some ⟨kind, tag, .sending r⟩ =>
    match (r.frame kind tag)[k / 10]? with
    | some b => lineBit b (k % 10)
    | none => true
  | _, _ => true

end Sys2Proof.Machine
end

