-- ==== Sys2Proof/Machine/Qualify.lean ====
section
/-! DEFINITION. The source qualifier SQU (chapter 3): the band tests, the transitions of a source on a summary, on an
invalidity report and on its timer, and the bus states. -/

namespace Sys2Proof.Machine

/-! ### Band tests (R45, R46) -/

/-- V in 0.1 V is below T ‰ of v_nom, by exact products (R45). -/
def below (v vNom t : Nat) : Bool := decide (v * 1000 < vNom * t)

/-- V in 0.1 V is above T ‰ of v_nom, by exact products (R45). -/
def above (v vNom t : Nat) : Bool := decide (vNom * t < v * 1000)

/-- Some phase voltage of a summary meets a test. -/
def Summary.anyPhase (m : Summary) (f : Nat → Bool) : Bool := f m.v1 || f m.v2 || f m.v3

/-- The highest phase voltage of a summary (R57). -/
def Summary.vmax (m : Summary) : Nat := max m.v1 (max m.v2 m.v3)

/-- A band of a source (R46): low and high voltage thresholds and frequency deviation. -/
structure Band where
  lo  : Nat
  hi  : Nat
  dev : Nat
  deriving DecidableEq, Repr

/-- The pickup band of a source (R46). -/
def Items.pickupBand (it : Items) (x : Src) : Band := ⟨it.src x .vPickLo, it.src x .vPickHi, it.src x .fPickDev⟩

/-- The dropout band of a source (R46). -/
def Items.dropoutBand (it : Items) (x : Src) : Band := ⟨it.src x .vDropLo, it.src x .vDropHi, it.src x .fDropDev⟩

/-- A summary is dead (R46): some phase below v_dead. -/
def Items.deadSummary (it : Items) (x : Src) (m : Summary) : Bool :=
  m.anyPhase fun v => below v (it.src x .vNom) (it.src x .vDead)

/-- The cause of a summary against a band (R46): the first test it fails; NONE inside the band. -/
def Items.causeIn (it : Items) (x : Src) (b : Band) (m : Summary) : Cause :=
  if it.deadSummary x m then .dead
  else if m.anyPhase fun v => below v (it.src x .vNom) b.lo then .undervolt
  else if m.anyPhase fun v => above v (it.src x .vNom) b.hi then .overvolt
  else if m.freq = 0 || decide (m.freq + b.dev < it.src x .fNom) then .underfreq
  else if decide (it.src x .fNom + b.dev < m.freq) then .overfreq
  else if m.acb != (it.src x .phaseOrder == 1) then .sequence
  else .none

/-! ### The qualification record -/

/-- Changes a source's state (R43): the entered time is rewritten, the notice of R56 posted and the change reported
(R55). -/
def changeSrc (x : Src) (new : SrcState) (cause : Cause) (timer : Option (QTimer × Nat)) (s : State) : State :=
  let prev := s.srcState x
  let t : State := { s with squ := { s.squ with srcs := s.squ.srcs.set x ⟨new, cause, timer, s.now⟩ } }
  let u := if new = .healthy || new = .down then post (.sourceState x new prev cause) t else t
  report (.srcChanged x prev new cause) u

/-- Changes only the cause of a source (R47). -/
def setCause (x : Src) (cause : Cause) (s : State) : State :=
  { s with squ := { s.squ with srcs := s.squ.srcs.set x { s.squ.srcs.get x with cause := cause } } }

/-- Replaces a source's running timer. -/
def setQTimer (x : Src) (timer : Option (QTimer × Nat)) (s : State) : State :=
  { s with squ := { s.squ with srcs := s.squ.srcs.set x { s.squ.srcs.get x with timer := timer } } }

/-- Starts PICKUP with a PICK timer of t_pick (R48, R49); with t_pick 0 the source is HEALTHY at once (R44). -/
def startPickup (x : Src) (s : State) : State :=
  if s.plan.src x .tPick = 0 then changeSrc x .healthy .none none s
  else changeSrc x .pickup .none (some (.pick, s.now + s.plan.src x .tPick)) s

/-- Leaves HEALTHY (R51): to DROPOUT with the timer given and the cause against the dropout band, or to DOWN when its
duration is 0. A summary that puts a source in DOWN gives its cause against the pickup band (R47). -/
def startDropout (x : Src) (down drop : Cause) (kind : QTimer) (d : Nat) (s : State) : State :=
  if d = 0 then changeSrc x .down down none s else changeSrc x .dropout drop (some (kind, s.now + d)) s

/-- A dead summary in DROPOUT (R52): the timer may be shortened to t_fast, never lengthened. DEAD is its cause against
either band (R46). -/
def deadInDropout (x : Src) (s : State) : State :=
  let q := s.squ.srcs.get x
  let rem := s.left (q.timer.map (·.2))
  let fast := s.plan.src x .tFast
  if fast = 0 || rem = 0 then changeSrc x .down .dead none s
  else if fast < rem then setQTimer x (some (.fast, s.now + fast)) (setCause x .dead s)
  else setCause x .dead s

/-- A summary arrives for a source (R47 to R52). -/
def judgeSrc (x : Src) (m : Summary) (s : State) : State :=
  let it := s.plan
  let pickCause := it.causeIn x (it.pickupBand x) m
  let dropCause := it.causeIn x (it.dropoutBand x) m
  match s.srcState x with
  | .absent => s
  | .unknown => if pickCause = .none then startPickup x s else changeSrc x .down pickCause none s
  | .down => if pickCause = .none then startPickup x s else setCause x pickCause s
  | .pickup => if pickCause = .none then s else changeSrc x .down pickCause none s
  | .healthy =>
    if dropCause = .none then s
    else if it.deadSummary x m then startDropout x pickCause dropCause .fast (min (it.src x .tFast) (it.src x .tDrop)) s
    else startDropout x pickCause dropCause .drop (it.src x .tDrop) s
  | .dropout =>
    if dropCause = .none then changeSrc x .healthy .none none s
    else if it.deadSummary x m then deadInDropout x s
    else setCause x dropCause s

/-- A source's PICK timer expires (R50). -/
def pickExpired (x : Src) (s : State) : State :=
  match (s.squ.srcs.get x).timer with
  | some (.pick, d) => changeSrc x .healthy .none none (reach d s)
  | _ => s

/-- A source's DROP or FAST timer expires (R52): DOWN, with the cause it holds. -/
def dropExpired (x : Src) (s : State) : State :=
  match (s.squ.srcs.get x).timer with
  | some (.drop, d) => changeSrc x .down (s.squ.srcs.get x).cause none (reach d s)
  | some (.fast, d) => changeSrc x .down (s.squ.srcs.get x).cause none (reach d s)
  | _ => s

/-! ### Bus points (R57, R58) -/

/-- The state of a bus from its highest phase voltage (R57). -/
def Items.busState (it : Items) (b : Sec) (vmax : Nat) : BusState :=
  if it.bus b .vNom * it.bus b .vLive ≤ vmax * 1000 then .live
  else if vmax * 1000 ≤ it.bus b .vNom * it.bus b .vResid then .dead
  else .decaying

/-- Puts a bus in a state with a stored voltage; a change is reported and rewrites the entered time (R58). -/
def setBus (b : Sec) (st : BusState) (vmax : Nat) (s : State) : State :=
  let old := s.squ.buses.get b
  if old.state = st then { s with squ := { s.squ with buses := s.squ.buses.set b { old with vmax := vmax } } }
  else report (.busChanged b old.state st) { s with squ := { s.squ with buses := s.squ.buses.set b ⟨st, vmax, s.now⟩ } }

/-- A summary arrives for a bus point (R57). -/
def judgeBus (b : Sec) (m : Summary) (s : State) : State := setBus b (s.plan.busState b m.vmax) m.vmax s

/-- A summary arrives for a point. -/
def judge (p : Point) (m : Summary) (s : State) : State :=
  match p with
  | .src x => judgeSrc x m s
  | .bus b => judgeBus b m s

/-- A point has become invalid (R53, R58). -/
def squInvalid (p : Point) (s : State) : State :=
  match p with
  | .src x =>
    if s.srcState x = .absent || s.srcState x = .unknown then s else changeSrc x .unknown .meas none s
  | .bus b => setBus b .unknown (s.squ.buses.get b).vmax s

/-- A source under a new page (R59): to ABSENT or out of it, or as it is. -/
def srcActivated (old : Items) (x : Src) (s : State) : State :=
  if s.plan.kind x = .absent then
    if s.srcState x = .absent then s else changeSrc x .absent .none none s
  else if old.kind x = .absent then changeSrc x .unknown .meas none s
  else s

end Sys2Proof.Machine
end

