-- ==== Sys2Proof/Machine/Selection.lean ====
section
/-! DEFINITION. The tests a sequencer's choices rest on, none of which changes state: what holds selection (R103, R136,
R137), the lists a selection runs over (R105, R136), the claim test of the tie (R129, R131), eligibility (R104) and
readiness (R108, R138). -/

namespace Sys2Proof.Machine

/-- A sequencer state at rest (R18). -/
def SeqState.atRest : SeqState → Bool
  | .fed | .returnWait | .waitSource | .halted => true
  | .sync | .opening | .decay | .closing | .overlap => false

/-- FED or RETURN_WAIT: the states in which a section can lend its supply (R129, R138). -/
def SeqState.settled : SeqState → Bool
  | .fed | .returnWait => true
  | _ => false

/-- A section that may serve a closed-tie island without a supplying section (R137). -/
def State.mayServe (s : State) (n : Sec) : Bool := s.mode n == .auto && (s.ctx n).state != .halted

/-- The section that serves a closed-tie island whose sections are both SOLE (R137). -/
def State.serving (s : State) : Option Sec :=
  if s.closed .bkt && (s.ctx .sec1).role == .sole && (s.ctx .sec2).role == .sole then
    if s.mayServe .sec1 then some .sec1 else if s.mayServe .sec2 then some .sec2 else none
  else none

/-- What holds selection for a section (R103, R136, R137, R188). The hold of a closed return lasts until the dependent
section's report of a state at rest (R136), past the opening of BKT in OVERLAP that makes both sections SOLE, so it is told by
that section's feed TIE and its state. Where BKT opens by itself during that section's CLOSING, R120 ends the closed transition,
and the hold of it ends at that event, before the report of rest (DESIGN CHOICE, log entry 60). -/
def State.heldBy (s : State) (n : Sec) : HeldBy :=
  let o := s.ctx n.other
  { block := s.blocked
    settle := (s.mdc.settle.get n).isSome
    closedReturn := o.feed == some .tie && o.closedTrans && (o.state == .closing || o.state == .overlap)
    service := s.serving == some n.other }

/-- Selection is held for a section (R103). -/
def State.held (s : State) (n : Sec) : Bool :=
  let h := s.heldBy n
  h.block || h.settle || h.closedReturn || h.service

/-- A section's preference list as its own entries (R4). -/
def State.prefs (s : State) (n : Sec) : List SecEntry := (s.plan.prefs n).map fun e => ⟨n, e⟩

/-- The entries a section's selection runs over (R105, R136, R137): its own list; for a supplying or serving section
both lists without TIE, the other section's only while that section is at rest. HALTED is at rest (R18), so a halted
section's list still enters, though it takes no part itself (R137; DESIGN CHOICE, log entry 52). -/
def State.selEntries (s : State) (n : Sec) : List SecEntry :=
  if (s.ctx n).role == .supplying || s.serving == some n then
    (s.prefs n).filter (·.entry != .tie) ++
    if (s.ctx n.other).state.atRest then (s.prefs n.other).filter (·.entry != .tie) else []
  else s.prefs n

/-- The claim test of BKT for a section (R129); none is a pass. Condition 4 is HEALTHY as the table has it: the worked
example of section 7.6 says that a claim would still be granted with the other section's source in DROPOUT, and the table
is followed (log entry 50). -/
def State.claimTest (s : State) (n : Sec) : Option ClaimReason :=
  let o := s.ctx n.other
  if s.owner.isSome then some .owned
  else if !s.avail .bkt then some .tieUnavailable
  else if !o.state.settled then some .otherBusy
  else
    match o.feed.bind (ownSource n.other) with
    | none => some .otherNotFed
    | some x =>
      if !s.healthy x then some .otherNotFed
      else if s.plan.budget x < s.classOne then some .budget
      else none

/-- A target still fits (R104, R117, R134, R141), its exclusion aside: its source HEALTHY, its channel available, for
TIE a claim granted, and an entry of the other section only while BKT is closed. -/
def State.targetFits (s : State) (n : Sec) (e : SecEntry) : Bool :=
  s.healthy? (s.entrySource e) && s.avail (entryChan e) &&
  (e.sec == n || (s.closed .bkt && e.entry != .tie)) && (e.entry != .tie || (s.claimTest n).isNone)

/-- An entry is the lost one and its exclusion flag is set (R104). -/
def State.excluded (s : State) (n : Sec) (e : SecEntry) : Bool :=
  match (s.ctx n).lost with
  | some l => l.excluded && e == ⟨n, l.entry⟩
  | none => false

/-- An entry is eligible for a section (R104). -/
def State.eligible (s : State) (n : Sec) (e : SecEntry) : Bool := s.targetFits n e && !s.excluded n e

/-- A preferred entry is ready (R108); for a dependent section only while the supplying one is in FED or RETURN_WAIT
(R138). -/
def State.ready (s : State) (n : Sec) (e : Entry) : Bool :=
  s.targetFits n ⟨n, e⟩ && ((s.ctx n).role != .dependent || (s.ctx n.other).state.settled)

/-- A section's preferred entry, where its list is not empty (R4). -/
def State.preferred (s : State) (n : Sec) : Option Entry := (s.plan.prefs n).head?

/-- The return condition (R108), the hold of R103 included. -/
def State.returnDue (s : State) (n : Sec) : Bool :=
  !s.held n && s.plan.sec n .autoReturn == 1 &&
  match s.preferred n with
  | some e => (s.ctx n).feed != some e && s.ready n e
  | none => false

/-- The channel of an optional entry of a section. -/
def feedChan (n : Sec) (e : Option Entry) : Option Chan := e.map fun e => entryChan ⟨n, e⟩

/-- The old incomer of a section's transfer (R105, R114): that of the lost entry, or else of the feed. -/
def State.oldChan (s : State) (n : Sec) : Option Chan :=
  match (s.ctx n).lost with
  | some l => some (entryChan ⟨n, l.entry⟩)
  | none => feedChan n (s.ctx n).feed

/-- The pair on which the close of a target is judged (R62). -/
def targetPair (e : SecEntry) : Pair :=
  match ownSource e.sec e.entry with
  | some x => .incomer x
  | none => .tieTo e.sec

end Sys2Proof.Machine
end

