-- ==== Sys2Proof/Machine/Modes.lean ====
section
/-! DEFINITION. Mode control MDC (chapter 9) without its requests: the ALARM one-shot (R97) and the generator run
records (R171 to R174). -/

namespace Sys2Proof.Machine

/-- Triggers the ALARM one-shot, or restarts it (R97). -/
def triggerAlarm (s : State) : State :=
  { s with mdc := { s.mdc with alarm := some (s.now + s.plan.glob .alarmTime * 1000) } }

/-! ### Generator run (R171 to R174) -/

/-- A list of entries holds an OWN entry whose source is x. -/
def holdsSource (l : List SecEntry) (x : Src) : Bool := l.any fun e => ownSource e.sec e.entry == some x

/-- The waiting-section condition of a run request (R171). -/
def State.sectionWaits (s : State) (x : Src) : Bool :=
  !s.healthy x && allSecs.any fun n =>
    ((s.ctx n).state == .waitSource || (s.ctx n).state == .decay || (s.ctx n).state == .closing) &&
    holdsSource (s.selEntries n) x

/-- The feed-in-doubt condition of a run request (R171). -/
def State.feedInDoubt (s : State) (x : Src) : Bool :=
  allSecs.any fun n =>
    (match s.feedSource n with
      | some y => s.srcState y == .dropout
      | none => false) && holdsSource (s.prefs n) x

/-- The run request of a source (R171). -/
def State.runRequest (s : State) (x : Src) : Bool :=
  s.plan.kind x == .generator &&
  (s.sectionWaits x || s.feedInDoubt x || s.closed (srcChan x) || (s.mdc.runs.get x).test)

/-- A run record's move on its request (R172, R174): `req` the request, `blk` the block, `healthy` the source's state at
the event. A record that goes to OFF with its line cancels its start timer, which R172 says at the cool-down expiry alone: so it
does with t_cool 0, and at the release with the expiry noted (DEDUCED, log entry 59). -/
def RunRec.move (r : RunRec) (req blk healthy : Bool) (now tGen tCool : Nat) : RunRec :=
  match r.state, req, blk with
  | .off, true, false =>
    if healthy then { r with state := .run } else { r with state := .run, startAt := some (now + tGen * 1000), startUsed := tGen }
  | .run, false, false =>
    if tCool = 0 then { r with state := .off, startAt := none }
    else { r with state := .cool, coolAt := some (now + tCool * 1000) }
  | .cool, true, _ => { r with state := .run, coolAt := none, noted := false }
  | .cool, false, false =>
    if r.noted then { r with state := .off, coolAt := none, startAt := none, noted := false } else r
  | _, _, _ => r

/-- Recomputes one source's run request and applies R172. A source that is not a generator has no request (R9). -/
def runStep (x : Src) (s : State) : State :=
  if s.plan.kind x = .generator then
    modRun x (fun r => r.move (s.runRequest x) s.blocked (s.healthy x) s.now
      (s.plan.src x .tGenStart) (s.plan.src x .tCool)) s
  else s

/-- Recomputes every run request, once adoption has been made (R171, R176). -/
def runAll (s : State) : State :=
  if s.adopted then allSrcs.foldl (fun t x => runStep x t) s else s

/-- A source that enters HEALTHY cancels its start timer (R173). -/
def runHealthy (x : Src) (s : State) : State := modRun x (fun r => { r with startAt := none }) s

/-- A generator's cool-down ends (R172), or is noted while BLOCKED (R174). -/
def coolExpiry (x : Src) (s : State) : State :=
  match (s.mdc.runs.get x).coolAt with
  | none => s
  | some d =>
    let t := reach d s
    if t.blocked then modRun x (fun r => { r with coolAt := none, noted := true }) t
    else modRun x (fun r => { r with state := .off, coolAt := none, startAt := none, noted := false }) t

/-- A generator's start timer expires with the source not HEALTHY (R173). -/
def startExpiry (x : Src) (s : State) : State :=
  match (s.mdc.runs.get x).startAt with
  | none => s
  | some d =>
    let t := reach d s
    let q := t.squ.srcs.get x
    post (.genStartFail x (t.mdc.runs.get x).startUsed q.state q.cause) (modRun x (fun r => { r with startAt := none }) t)

/-- A source's run record when an activation changes its kind away from GENERATOR (R174). -/
def runActivated (old : Items) (x : Src) (s : State) : State :=
  if old.kind x = .generator && s.plan.kind x ≠ .generator then modRun x (fun _ => RunRec.start) s else s

end Sys2Proof.Machine
end

