-- ==== Sys2Proof/Machine/Breakers.lean ====
section
/-! DEFINITION. The breaker channel unit BCU (chapter 5) and the tie arbiter TAR (chapter 7): triggers and stops,
confirmation and failure, contact changes, lockout and clearing, the tie owner and the roles set from the board. -/

namespace Sys2Proof.Machine

/-! ### The tie owner (R128 to R133) -/

/-- Releases the tie: the owner becomes NONE (R132). -/
def releaseTie (s : State) : State := setOwner none s

/-- Releases the tie where the channel is BKT (R132). -/
def releaseTieFor (c : Chan) (s : State) : State := if c = .bkt then releaseTie s else s

/-- Sets both sections' roles (R7). -/
def setRoles (r1 r2 : Role) (s : State) : State :=
  modSeq .sec2 (fun c => { c with role := r2 }) (modSeq .sec1 (fun c => { c with role := r1 }) s)

/-- TAR sets the roles and the owner from the board (R133). -/
def tieFromBoard (s : State) : State :=
  if s.closed .bkt then
    match s.closedPaths allSecs with
    | [x] =>
      match srcSec x with
      | .sec1 => setOwner (some .sec2) (setRoles .supplying .dependent s)
      | .sec2 => setOwner (some .sec1) (setRoles .dependent .supplying s)
    | _ => s
  else setOwner none (setRoles .sole .sole s)

/-! ### Triggers and stops (R80 to R83) -/

/-- A channel's close width in the item set in use. -/
def State.closeWidth (s : State) (c : Chan) : Nat := s.plan.chan c .closeWidth

/-- A channel's trip width in the item set in use. -/
def State.tripWidth (s : State) (c : Chan) : Nat := s.plan.chan c .tripWidth

/-- The tests of a close trigger (R81), in order; none accepts it. -/
def State.closeRefusal (s : State) (c : Chan) : Option Status :=
  if s.blocked then some .blocked
  else if (s.bcu.get c).tripEnd.isSome then some .interlock
  else if (s.bcu.get c).closeEnd.isSome then some .busy
  else if !s.avail c then some .notAvailable
  else none

/-- Starts an accepted close (R81). -/
def startClose (c : Chan) (req : Requester) (s : State) : State :=
  modChan c (fun r => { r with
    closeEnd := some (s.now + s.closeWidth c), cmdClosed := true, position := .closing,
    op := some ⟨.close, req, s.now, s.now + s.plan.chan c .closeConfirm, false⟩ }) s

/-- A close trigger (R81): the state after it, and the refusal where it was refused. -/
def closeTrigger (c : Chan) (req : Requester) (s : State) : State × Option Status :=
  match s.closeRefusal c with
  | some e => (s, some e)
  | none => (startClose c req s, none)

/-- A channel record after an accepted trip trigger (R82); any close pulse ends before the trip pulse starts (R80). -/
def ChanRec.trip (r : ChanRec) (req : Requester) (now width confirm : Nat) : ChanRec :=
  let r : ChanRec := { r with closeEnd := none, tripEnd := some (now + width), cmdClosed := false }
  match r.position with
  | .isClosed | .isOpen | .closing => { r with position := .opening, op := some ⟨.trip, req, now, now + confirm, false⟩ }
  | .opening | .faulted | .locked => r

/-- Carries out an accepted trip trigger (R82). A close in flight is withdrawn: its requester is told, and a claim of
the tie is released (R132). -/
def startTrip (c : Chan) (req : Requester) (s : State) : State :=
  let old := s.bcu.get c
  let t := modChan c (fun r => r.trip req s.now (s.tripWidth c) (s.plan.chan c .tripConfirm)) s
  match old.position, old.op with
  | .closing, some o => releaseTieFor c (report (.closeWithdrawn c o.requester) t)
  | _, _ => t

/-- A trip trigger (R82): refused while BLOCKED, otherwise accepted in every position. -/
def tripTrigger (c : Chan) (req : Requester) (s : State) : State × Option Status :=
  if s.blocked then (s, some .blocked) else (startTrip c req s, none)

/-- A channel record after a stop (R83): whichever pulse runs ends; position, operation and deadline stay. -/
def ChanRec.stop (r : ChanRec) : ChanRec :=
  { r with closeEnd := none, tripEnd := none,
           op := r.op.map fun o => { o with stopped := o.stopped || r.closeEnd.isSome } }

/-- A stop (R83). -/
def stopPulse (c : Chan) (s : State) : State := modChan c ChanRec.stop s

/-- Every running pulse of every channel stops (R80, R169). -/
def stopAllPulses (s : State) : State := allChans.foldl (fun t c => stopPulse c t) s

/-- A close pulse reaches the end of its width (R83). -/
def closePulseOver (c : Chan) (s : State) : State :=
  match (s.bcu.get c).closeEnd with
  | some d => modChan c (fun r => { r with closeEnd := none }) (reach d s)
  | none => s

/-- A trip pulse reaches the end of its width (R83). -/
def tripPulseOver (c : Chan) (s : State) : State :=
  match (s.bcu.get c).tripEnd with
  | some d => modChan c (fun r => { r with tripEnd := none }) (reach d s)
  | none => s

/-! ### Inputs (R78) -/

/-- An input that has accepted a level: the raw level has held it (R78). -/
def InputPin.accept (_p : InputPin) (level : Bool) : InputPin := ⟨level, level, level, none⟩

/-- The learned close time after a measurement m (R76). -/
def learn (tc m : Nat) : Nat :=
  if 10 ≤ m ∧ m ≤ 1000 then max 20 (min 500 ((3 * tc + m + 2) / 4)) else tc

/-- The kind of an acceptance of a new AUX level (R88), from the record before it. -/
def ChanRec.contactKind (r : ChanRec) (level : Bool) : ContactKind :=
  match r.position, level with
  | .closing, true => .confirmClose
  | .opening, false => .confirmOpen
  | .opening, true => .inOperation
  | .closing, false => .inOperation
  | .locked, false => if r.prot.accepted then .protectionOpen else .externalOpen
  | _, false => .externalOpen
  | _, true => .externalClose

/-- The close time measured at a confirmation (R76): from the trigger to the present tick. -/
def ChanRec.measured (r : ChanRec) (now : Nat) : Nat :=
  match r.op with
  | some o => now - o.trigAt
  | none => 0

/-- A channel record after the acceptance of a new AUX level (R84, R85, R86, R88, R89). -/
def ChanRec.auxChanged (r : ChanRec) (level : Bool) (now : Nat) : ChanRec :=
  let a : ChanRec := { r with aux := r.aux.accept level }
  match r.contactKind level with
  | .confirmClose =>
    { a with closeEnd := none, lastM := some (r.measured now), tc := learn r.tc (r.measured now),
             position := .isClosed, op := none }
  | .confirmOpen => { a with tripEnd := none, position := .isOpen, op := none }
  | .inOperation => a
  | .externalClose | .externalOpen | .protectionOpen =>
    match r.position with
    | .faulted | .locked => a
    | _ => { a with position := if level then .isClosed else .isOpen }

/-- The position a BREAKER_EXTERNAL notice carries (R89): FAULTED or LOCKED where held. -/
def Position.held? : Position → Option Position
  | .faulted => some .faulted
  | .locked => some .locked
  | _ => none

/-- An external kind, for which a BREAKER_EXTERNAL notice is posted (R88). -/
def ContactKind.external : ContactKind → Bool
  | .externalClose | .externalOpen | .protectionOpen => true
  | .confirmClose | .confirmOpen | .inOperation => false

/-- A section is told of a contact change (R88): its own channels', and any while BKT is closed. -/
def State.told (s : State) (c : Chan) (n : Sec) : Bool := chanOf c n || s.closed .bkt

/-- The reports that follow an acceptance of a new AUX level (R84 to R88). -/
def reportContact (c : Chan) (kind : ContactKind) (op : Option Operation) (m : Nat) (s : State) : State :=
  let t := if s.told c .sec1 then report (.contact .sec1 c kind op) s else s
  let t := if s.told c .sec2 then report (.contact .sec2 c kind op) t else t
  match kind, op with
  | .confirmClose, some o => report (.closeConfirmed c o.requester m) t
  | .confirmOpen, _ => report (.tripConfirmed c) t
  | _, _ => t

/-- A new debounced AUX level of a channel is accepted (R84 to R89). Until adoption BCU keeps its record and reports
nothing (R175). -/
def auxAccept (c : Chan) (level : Bool) (s : State) : State :=
  let r := s.bcu.get c
  if r.aux.accepted = level then modChan c (fun r => { r with aux := r.aux.accept level }) s
  else
    let kind := r.contactKind level
    let t := modChan c (fun r => r.auxChanged level s.now) s
    if s.adopted then
      let t := tieFromBoard t
      let t := if kind.external then post (.breakerExternal c kind r.position.held?) t else t
      reportContact c kind r.op (r.measured s.now) (reformIslands t)
    else t

/-- A channel record as lockout leaves it (R90): a running trip pulse goes on. -/
def ChanRec.lockedOut (r : ChanRec) : ChanRec :=
  { r with prot := r.prot.accept true, position := .locked, closeEnd := none, op := none }

/-- A new debounced PRT level of a channel is accepted (R90). -/
def prtAccept (c : Chan) (level : Bool) (s : State) : State :=
  let r := s.bcu.get c
  if r.prot.accepted = level || !level || r.position = .locked then
    modChan c (fun r => { r with prot := r.prot.accept level }) s
  else
    let t := modChan c ChanRec.lockedOut s
    if s.adopted then
      let t := match r.op with
        | some o => report (.lockoutEnded c o) (if o.kind = .close then releaseTieFor c t else t)
        | none => t
      triggerAlarm (post (.lockout c r.position r.aux.accepted) (report (.channelLocked c) t))
    else t

/-- A new debounced RDY or RCK level of a channel is accepted (R92). -/
def readyAccept (c : Chan) (which : RdyRck) (level : Bool) (s : State) : State :=
  modChan c (fun r =>
    match which with
    | .rdy => { r with ready := r.ready.accept level }
    | .rck => { r with racked := r.racked.accept level }) s

/-! ### Deadlines (R84, R85) -/

/-- A channel record as a failure leaves it (R84, R85). -/
def ChanRec.failed (r : ChanRec) (cause : ChanFault) : ChanRec :=
  { r with closeEnd := none, tripEnd := none, position := .faulted, fault := cause, op := none }

/-- A channel record as a trip confirmed at its deadline leaves it (R85). -/
def ChanRec.opened (r : ChanRec) : ChanRec := { r with tripEnd := none, position := .isOpen, op := none }

/-- A channel that has become FAULTED is announced (R84, R85, R97). -/
def noteFault (c : Chan) (cause : ChanFault) (req : Requester) (s : State) : State :=
  triggerAlarm (post (.breakerFault c cause req) s)

/-- A close's confirm deadline is reached (R84): with aux still open the close has failed, and a claim of the tie is
released (R132). -/
def closeDeadline (c : Chan) (s : State) : State :=
  match (s.bcu.get c).op with
  | some o =>
    if o.kind = .close then
      let t := releaseTieFor c (modChan c (·.failed .failToClose) (reach o.deadline s))
      report (.closeFailed c o.requester) (noteFault c .failToClose o.requester t)
    else s
  | none => s

/-- A trip's confirm deadline is reached (R85): confirmed with aux open, failed with aux closed. -/
def tripDeadline (c : Chan) (s : State) : State :=
  match (s.bcu.get c).op with
  | some o =>
    if o.kind = .trip then
      let t := reach o.deadline s
      if t.closed c then
        report (.tripFailed c) (noteFault c .failToOpen o.requester (modChan c (·.failed .failToOpen) t))
      else report (.tripConfirmed c) (modChan c ChanRec.opened t)
    else s
  | none => s

/-! ### Clearing (R91) -/

/-- A channel record after a clear. -/
def ChanRec.cleared (r : ChanRec) : ChanRec :=
  { r with closeEnd := none, tripEnd := none, position := if r.aux.accepted then .isClosed else .isOpen, fault := .none }

/-- A FAULTED channel, or a LOCKED one with PRT released, is returned to OPEN or CLOSED from aux (R91). -/
def clearChan (c : Chan) (s : State) : State := report (.channelCleared c) (modChan c ChanRec.cleared s)

/-- Reloads the learned close time of a channel whose close_time_init an activation changed (R75). -/
def chanActivated (old : Items) (c : Chan) (s : State) : State :=
  if old.chan c .closeTimeInit = s.plan.chan c .closeTimeInit then s
  else modChan c (fun r => { r with tc := s.plan.chan c .closeTimeInit }) s

end Sys2Proof.Machine
end

