-- ==== Sys2Proof/Machine/Coincidence.lean ====
section
/-! DEFINITION. The coincidence unit CCU (chapter 4): the five stages of a computation, in whole numbers, and the
computations for watches and on request. -/

namespace Sys2Proof.Machine

/-! ### Whole-number arithmetic -/

/-- A quotient rounded half away from zero (R68, R70). -/
def roundDiv (n : Int) (d : Nat) : Int :=
  if n < 0 then -(((2 * n.natAbs + d) / (2 * d) : Nat) : Int) else (((2 * n.natAbs + d) / (2 * d) : Nat) : Int)

/-- An angle in 0.1° wrapped into the interval above −1800 and up to +1800 (R69, R70). -/
def wrapAngle (a : Int) : Int :=
  let r := a % 3600
  if r > 1800 then r - 3600 else r

/-- The advance of an angle over k frames at frequency f (R68). -/
def advance (f k : Nat) : Int := roundDiv ((f * k * 9 : Nat) : Int) 10000

/-- The horizon in µs (R70): frames to the decision frame, and the close time. -/
def horizon (frames tc : Nat) : Nat := frames * 250 + tc * 1000

/-- The prediction term (R70). -/
def turn (slip : Int) (hor : Nat) : Int := roundDiv (slip * hor * 36) 10000000

/-! ### Pairs (R62, R63) -/

/-- The incoming point of a pair. -/
def Pair.incoming : Pair → Point
  | .incomer x => .src x
  | .tieTo b => .bus b.other

/-- The section whose bus point is the pair's bus point. -/
def Pair.busSec : Pair → Sec
  | .incomer x => srcSec x
  | .tieTo b => b

/-- The channel of a pair. -/
def Pair.chan : Pair → Chan
  | .incomer x => srcChan x
  | .tieTo _ => .bkt

/-- A pair has a point as one of its two. -/
def Pair.names (p : Pair) (q : Point) : Bool := p.incoming == q || q == .bus p.busSec

/-- The window of an item set (R63). -/
def Items.window (it : Items) (n : Sec) : ItemSet → Nat
  | .openItems => it.sec n .openWindow
  | .closedItems => it.sec n .closedWindow

/-- The slip limit of an item set (R63). -/
def Items.slipLimit (it : Items) (n : Sec) : ItemSet → Nat
  | .openItems => it.sec n .openSlip
  | .closedItems => it.sec n .closedSlip

/-- The kept result of a pair (R66). -/
def State.kept (s : State) : Pair → Option PairResult
  | .incomer x => s.ccu.incomers.get x
  | .tieTo b => s.ccu.ties.get b

/-- Replaces the kept result of a pair (R66). -/
def keep (p : Pair) (r : PairResult) (s : State) : State :=
  match p with
  | .incomer x => { s with ccu := { s.ccu with incomers := s.ccu.incomers.set x (some r) } }
  | .tieTo b => { s with ccu := { s.ccu with ties := s.ccu.ties.set b (some r) } }

/-! ### The computation (R67 to R71) -/

/-- The age of a frame at another, modulo 2^32. -/
def frameAge (nd n : Word) : Nat := (nd - n).toNat

/-- Stage 1 (R67): why no result can be formed, or the two summaries. -/
def stage1 (vi vb : Bool) (mi mb : Option Summary) (nd : Word) : Except NotAvailable (Summary × Summary) :=
  match vi && vb, mi, mb with
  | true, some i, some b =>
    if i.freq = 0 ∨ b.freq = 0 then .error .noFrequency
    else if 200 < frameAge nd i.arrival ∨ 200 < frameAge nd b.arrival then .error .aged
    else .ok (i, b)
  | _, _, _ => .error .invalid

/-- Stages 2 to 4 (R68 to R70): the values of the prediction, with the age of the later summary. -/
def predict (i b : Summary) (nd : Word) (tc : Nat) : PairValues :=
  let ageI := frameAge nd i.arrival
  let ageB := frameAge nd b.arrival
  let thI : Int := ((i.angle : Int) + advance i.freq (ageI - ageB)) % 3600
  let thB : Int := ((b.angle : Int) + advance b.freq (ageB - ageI)) % 3600
  let angI : Int := if ageB < ageI then thI else i.angle
  let angB : Int := if ageI < ageB then thB else b.angle
  let slip : Int := (i.freq : Int) - (b.freq : Int)
  let d0 := wrapAngle (angI - angB)
  let hor := horizon (min ageI ageB) tc
  { ni := i.arrival, nb := b.arrival, d0 := d0, slip := slip, tc := tc, hor := hor,
    dp := wrapAngle (d0 + turn slip hor), fails := none }

/-- Test 4 of the permit (R71): an incoming source HEALTHY, or an incoming bus LIVE. -/
def State.incomingFit (s : State) : Point → Bool
  | .src x => s.healthy x
  | .bus b => (s.squ.buses.get b).state == .live

/-- Stage 5 (R71): the first test that fails, or none for the permit. -/
def State.permitTest (s : State) (p : Pair) (set : ItemSet) (judging : Sec) (v : PairValues) : Option NoPermit :=
  let it := s.plan
  if it.window judging set < v.dp.natAbs then some .window
  else if it.slipLimit judging set < v.slip.natAbs then some .slip
  else if (s.squ.buses.get p.busSec).vmax * 1000 < it.bus p.busSec .vNom * it.sec judging .vInphaseMin then some .lowBus
  else if set = .closedItems ∧ !s.incomingFit p.incoming then some .notHealthy
  else none

/-- A computation for a pair (R67 to R71). -/
def State.coincidence (s : State) (p : Pair) (set : ItemSet) (judging : Sec) (nd : Word) : PairResult :=
  let ri := s.hlc.points.get p.incoming
  let rb := s.hlc.points.get (.bus p.busSec)
  match stage1 ri.valid rb.valid ri.last rb.last nd with
  | .error e => ⟨nd, set, judging, .notAvailable e⟩
  | .ok (i, b) =>
    let v := predict i b nd (s.bcu.get p.chan).tc
    ⟨nd, set, judging, .available { v with fails := s.permitTest p set judging v }⟩

/-- A result carries the permit; one that is NOT_AVAILABLE does not (R66). -/
def PairResult.permit (r : PairResult) : Bool :=
  match r.formed with
  | .available v => v.fails.isNone
  | .notAvailable _ => false

/-- The predicted angle and slip of a result, where it was available. -/
def PairResult.angleSlip (r : PairResult) : Option (Int × Int) :=
  match r.formed with
  | .available v => some (v.dp, v.slip)
  | .notAvailable _ => none

/-- A sequencer's watch names a pair (R72). -/
def State.watches (s : State) (n : Sec) (p : Pair) : Bool :=
  match s.ccu.watches.get n with
  | some w => w.pair == p
  | none => false

end Sys2Proof.Machine
end

