-- ==== Sys2Proof/Machine/Sequencer.lean ====
section
/-! DEFINITION. The section sequencers SEQ1 and SEQ2 (chapters 6 and 7): state changes, target selection, the transfer,
halting, and what each sequencer does on each report of another block. -/

namespace Sys2Proof.Machine

/-! ### State and feed (R101, R102) -/

/-- A section's transitions of chapters 6 and 7 are made in AUTO (R102). -/
def State.auto (s : State) (n : Sec) : Bool := s.mode n == .auto

/-- A context moved into a state: timers that do not serve it are cancelled (R102), a section at rest has no target, lost
is cleared at FED (R104), and outgoing stands in OVERLAP alone. -/
def SecCtx.into (c : SecCtx) (st : SeqState) : SecCtx :=
  { c with
    state := st
    tReturn := if st = .returnWait then c.tReturn else none
    tSyncWait := if st = .sync then c.tSyncWait else none
    tDecayMax := if st = .decay then c.tDecayMax else none
    tDead := if st = .decay then c.tDead else none
    tOverlap := if st = .overlap then c.tOverlap else none
    target := if st.atRest then none else c.target
    outgoing := if st = .overlap then c.outgoing else none
    lost := if st = .fed then none else c.lost }

/-- Puts a section in a state. The watch is cleared outside DECAY and SYNC (R64); a change is reported (R102), and LMG
clears the announcement of a section that reports a state at rest (R150). -/
def enter (n : Sec) (st : SeqState) (s : State) : State :=
  let old := (s.ctx n).state
  let t := modSeq n (·.into st) s
  let t := if st = .decay ∨ st = .sync then t else setWatch n none t
  if old = st then t else report (.seqState n) (if st.atRest then clearAnn n t else t)

/-- Sets a section's feed; a change is reported (R102). -/
def setFeed (n : Sec) (e : Option Entry) (s : State) : State :=
  if (s.ctx n).feed = e then s else report (.seqFeed n) (modSeq n (fun c => { c with feed := e }) s)

/-- An entry into FED, followed by its tests of the feed and of the return condition (R107, R108). -/
def enterFed (n : Sec) (cause : StartCause) (s : State) : State := report (.fedEntry n cause) (enter n .fed s)

/-- The channel of a section's target. -/
def State.targetChan (s : State) (n : Sec) : Option Chan := (s.ctx n).target.map entryChan

/-! ### Halting (R124) -/

/-- A section that halts releases the tie it owns while BKT is open with no close in flight (R124, R132). -/
def releaseAtHalt (n : Sec) (s : State) : State :=
  if s.owner = some n ∧ !s.closed .bkt ∧ (s.bcu.get .bkt).position ≠ .closing then releaseTie s else s

/-- The entry into HALTED (R124). -/
def halt (n : Sec) (cause : HaltCause) (ch : Option Chan) (s : State) : State :=
  let left := (s.ctx n).state
  let t := modSeq n (fun c => { c with haltCause := cause, haltChan := ch }) (releaseAtHalt n s)
  let t := enter n .halted (setFeed n (t.adoptedFeed n) t)
  post (.sectionHalted n cause ch left (t.ctx n).feed) (triggerAlarm t)

/-- The highest-numbered incomer whose aux is asserted in a section's island (R176). -/
def State.highestClosed (s : State) (n : Sec) : Option Chan := (s.paths n).getLast?.map srcChan

/-! ### Transfers (R105, R106) -/

/-- The entry a transfer starts from (R106): the lost entry if there is one, and the feed otherwise. -/
def SecCtx.start? (c : SecCtx) (n : Sec) : Option SecEntry :=
  match c.lost with
  | some l => some ⟨n, l.entry⟩
  | none => c.feed.map fun e => ⟨n, e⟩

/-- The fields a transfer sets at its start (R106); a RETARGET keeps them. -/
def SecCtx.begin (c : SecCtx) (n : Sec) (cause : StartCause) (closed : Bool) (now : Nat) : SecCtx :=
  if cause = .retarget then c
  else { c with origin := c.start? n, startMs := now, closedTrans := closed, method := .none, closeRec := ⟨none, 0⟩ }

/-- A target is chosen (R105): LMG is told and sheds at once (R152), and TRANSFER_BEGIN is posted (R106). -/
def beginTransfer (n : Sec) (cause : StartCause) (closed : Bool) (e : SecEntry) (s : State) : State :=
  let t := announce n e (modSeq n (fun c => { c with target := some e }) s)
  let t := modSeq n (·.begin n cause closed t.now) t
  post (.transferBegin n (t.ctx n).origin (some e) (t.ctx n).closedTrans cause) t

/-- The first eligible entry of a section's selection (R105, R136). -/
def State.choose (s : State) (n : Sec) : Option SecEntry := (s.selEntries n).find? (s.eligible n)

/-- The watch of DECAY (R115): on the target's pair with the OPEN items, under IN_PHASE_OR_RESIDUAL alone. -/
def setDecayWatch (n : Sec) (s : State) : State :=
  setWatch n (if s.plan.sec n .openMethod = 0 then (s.ctx n).target.map fun e => ⟨targetPair e, .openItems, n⟩ else none) s

/-- An entry into DECAY from another state (R115): the timers start afresh and the close condition is tested. Where the
entry comes of an arrival, CCU forms the result of that arrival for the new watch and hands it before the close condition is
tested at the entry (R65, R116); the manual does not say which comes first (DESIGN CHOICE, log entry 61). -/
def enterDecay (n : Sec) (s : State) : State :=
  let it := s.plan
  let t := modSeq n (fun c => { c with
    tDecayMax := some (s.now + it.sec n .tDecayMax)
    tDead := if it.sec n .openMethod = 2 then some (s.now + it.sec n .tDead) else none
    decayOver := false, deadOver := false, lastResult := none }) (enter n .decay s)
  report (.decayTest n []) (setDecayWatch n t)

/-- A section rests in FED on the entry its island's one source path gives it (R123, log entry 44). -/
def restOn (n : Sec) (e : Entry) (s : State) : State := enterFed n .loss (setFeed n (some e) s)

/-- A section whose feed has opened is judged by the source paths its island has left (R123, R164): with one it is FED on
the entry that path gives it, its own or TIE (R7, R143; log entry 44), with two or more it halts with PARALLEL_FOUND (log
entry 57), and with none it is as `dead` says. -/
def judgeLeft (n : Sec) (c : Chan) (s dead : State) : State :=
  match s.paths n with
  | [] => dead
  | [x] => restOn n (pathEntry n x) s
  | _ => halt n .parallelFound (some c) s

/-- The trip of the old incomer is triggered and the section enters OPENING; with a FAULTED or LOCKED incomer it halts
(R114), and with an incomer that is open it enters DECAY (R105). -/
def openTransition (n : Sec) (s : State) : State :=
  match s.oldChan n with
  | none => enterDecay n s
  | some c =>
    if s.closed c then
      match tripTrigger c (.seq n) s with
      | (t, some _) => halt n .blockedInTransfer (some c) t
      | (t, none) =>
        match (s.bcu.get c).position with
        | .faulted => halt n .failToOpen (some c) t
        | .locked => halt n .busFault (some c) t
        | _ => enter n .opening t
    else enterDecay n s

/-- The outcome of a selection (R105). In DECAY a new target keeps the section there with its timers, and the close
condition is tested again (R115), past the entries refused earlier in the event. -/
def takeChoice (n : Sec) (cause : StartCause) (passed : List SecEntry) : Option SecEntry → State → State
  | none, s => enter n .waitSource s
  | some e, s =>
    let t := beginTransfer n cause false e s
    if (s.ctx n).state = .decay then report (.decayTest n passed) (setDecayWatch n t) else openTransition n t

/-- Target selection (R103, R105). -/
def select (n : Sec) (cause : StartCause) (s : State) : State :=
  if s.held n then enter n .waitSource s else takeChoice n cause [] (s.choose n) s

/-- The selection that follows a refused close or claim in DECAY (R103, R116, R117). The refused entry is handled as one that
has become ineligible, so it is passed over until the event ends, with those refused before it in the same event (DESIGN
CHOICE, log entry 63). -/
def selectPast (n : Sec) (passed : List SecEntry) (s : State) : State :=
  if s.held n then enter n .waitSource s
  else takeChoice n .retarget passed ((s.selEntries n).find? fun e => !passed.contains e && s.eligible n e) s

/-- The loss of a section's feed (R107): lost takes the feed with its flag, feed becomes NONE, and selection runs. -/
def loseFeed (n : Sec) (cause : StartCause) (opened : Bool) (s : State) : State :=
  let t := modSeq n (fun c => { c with
    lost := c.feed.map fun e => ⟨e, true⟩
    openMs := if opened then s.now else c.openMs }) s
  select n cause (setFeed n none t)

/-! ### The close trigger (R116, R130) -/

/-- A sequencer triggers the close of a target, after the tie claim for BKT (R130): the state after it, and why it was
refused. -/
def closeTarget (n : Sec) (e : SecEntry) (s : State) : State × Option CloseFailReason :=
  if e.entry = .tie then
    match s.claimTest n with
    | some r => (s, some (.claim r))
    | none =>
      match closeTrigger .bkt (.seq n) (setOwner (some n) s) with
      | (t, some x) => (releaseTie t, some (.refused x))
      | (t, none) => (t, none)
  else
    match closeTrigger (entryChan e) (.seq n) s with
    | (t, some x) => (t, some (.refused x))
    | (t, none) => (t, none)

/-- The close of DECAY (R116): CLOSING, or with the claim or the trigger refused a CLOSE_FAIL and a new selection,
which passes the entry over (R117). -/
def decayClose (n : Sec) (m : Method) (passed : List SecEntry) (s : State) : State :=
  match (s.ctx n).target with
  | none => s
  | some e =>
    match closeTarget n e s with
    | (t, some r) => selectPast n (e :: passed) (post (.closeFail n (entryChan e) r) t)
    | (t, none) =>
      enter n .closing (modSeq n (fun c => { c with
        method := m, closeStop := false, closeRec := ⟨c.lastResult.bind (·.angleSlip), t.now⟩ }) t)

/-- The close condition of DECAY (R116): the first row that holds; `permit` says that the result handed at this event
carries one. -/
def State.closeCondition (s : State) (n : Sec) (permit : Bool) : Option Method :=
  let it := s.plan
  let m := it.sec n .openMethod
  if permit ∧ m = 0 then some .inPhase
  else if (s.squ.buses.get n).state = .dead ∧ (m = 0 ∨ m = 1) then some .residual
  else if (s.ctx n).deadOver ∧ m = 2 then some .timed
  else if (s.ctx n).decayOver ∧ it.sec n .closeOnTimeout = 1 then some .timeout
  else none

/-- Tests the close condition of a section in DECAY and triggers the close where it holds (R116); `passed` are the entries
refused earlier in the event. -/
def testDecay (n : Sec) (permit : Bool) (passed : List SecEntry) (s : State) : State :=
  if s.auto n && (s.ctx n).state == .decay then
    match s.closeCondition n permit with
    | some m => decayClose n m passed s
    | none => s
  else s

/-! ### Closed transitions (R111, R112) -/

/-- The entry into SYNC (R111). -/
def enterSync (n : Sec) (s : State) : State :=
  let t := modSeq n (fun c => { c with
    tSyncWait := some (s.now + s.plan.sec n .tSyncWait * 1000), lastResult := none }) (enter n .sync s)
  setWatch n ((t.ctx n).target.map fun e => ⟨targetPair e, .closedItems, n⟩) t

/-- A permitting result in SYNC triggers the close of the target (R111); a refusal takes the section back to FED. -/
def syncClose (n : Sec) (r : PairResult) (s : State) : State :=
  match (s.ctx n).target with
  | none => s
  | some e =>
    match closeTarget n e s with
    | (t, some x) => enterFed n .loss (post (.closeFail n (entryChan e) x) t)
    | (t, none) =>
      enter n .closing (modSeq n (fun c => { c with
        method := .closed, closeStop := false, closedTrans := true, closeRec := ⟨r.angleSlip, t.now⟩ }) t)

/-- A result of its watch reaches a sequencer (R111, R116). -/
def handResult (n : Sec) (r : PairResult) (s : State) : State :=
  if s.auto n then
    let t := modSeq n (fun c => { c with lastResult := some r }) s
    match (s.ctx n).state with
    | .sync => if r.permit then syncClose n r t else t
    | .decay => testDecay n r.permit [] t
    | _ => s
  else s

/-- A named target is taken without selection (R109, R110): a closed transition goes to SYNC, an open one trips the feed
incomer. -/
def directTransfer (n : Sec) (cause : StartCause) (closed : Bool) (e : SecEntry) (s : State) : State :=
  let t := beginTransfer n cause closed e s
  if closed then enterSync n t else openTransition n t

/-! ### The return (R108, R110) -/

/-- A section has entered FED within this event and its tests of R107 and R108 are still to be made. -/
def State.fedWaiting (s : State) (n : Sec) : Bool :=
  s.agenda.any fun r =>
    match r with
    | .fedEntry m _ => m == n
    | _ => false

/-- Evaluates the return condition of a section in FED (R108): t_return starts and the section waits. At an entry into
FED the loss test of R107 comes first, so the evaluation is left to `fedTests`. -/
def evalReturn (n : Sec) (s : State) : State :=
  if s.auto n && (s.ctx n).state == .fed && !s.fedWaiting n && s.returnDue n then
    let d := s.plan.sec n .tReturn * 1000
    let t := modSeq n (fun c => { c with tReturn := some (s.now + d) }) (enter n .returnWait s)
    if d = 0 then report (.timerOver n .tReturn) t else t
  else s

/-- A section in RETURN_WAIT whose preferred entry has stopped being ready goes back to FED (R110). -/
def checkReturn (n : Sec) (s : State) : State :=
  match s.preferred n with
  | some e => if s.ready n e then s else enterFed n .loss s
  | none => enterFed n .loss s

/-- The tests made at an entry into FED in AUTO (R107, R108), with the start cause of the loss where there is one. R107 tests
an own entry's source alone. A section FED on TIE takes no loss here, though the other section's feed source be DOWN: R135
leaves that to the supplying section, so a stopped close of BKT rests on TIE where R119 alone would select again with RESELECT
(DESIGN CHOICE, log entry 51). -/
def fedTests (n : Sec) (cause : StartCause) (s : State) : State :=
  if s.auto n && (s.ctx n).state == .fed then
    match (s.ctx n).feed.bind (ownSource n) with
    | some x => if s.srcState x = .down then loseFeed n cause false s else evalReturn n s
    | none => evalReturn n s
  else s

/-! ### Waiting and retesting (R113, R117, R134) -/

/-- The lost entry's source is HEALTHY and its incomer still closed (R113). -/
def State.lostIsBack (s : State) (n : Sec) : Option Entry :=
  match (s.ctx n).lost with
  | some l => if s.closed (entryChan ⟨n, l.entry⟩) && s.healthy? (s.entrySource ⟨n, l.entry⟩) then some l.entry else none
  | none => none

/-- A section in WAIT_SOURCE (R113): the lost-source test, then selection. -/
def waitTest (n : Sec) (s : State) : State :=
  match s.lostIsBack n with
  | some e => enterFed n .loss (setFeed n (some e) s)
  | none => select n .reselect s

/-- A section in DECAY whose target no longer fits selects again (R117, R134, R141). -/
def retest (n : Sec) (s : State) : State :=
  match (s.ctx n).target with
  | some e => if s.targetFits n e then s else select n .retarget s
  | none => s

/-- A section in SYNC whose target is withdrawn goes back to FED (R111, R134). -/
def syncWithdrawn (n : Sec) (s : State) : State := enterFed n .loss s

/-- The claim test of a TIE target in SYNC (R134). -/
def syncClaim (n : Sec) (s : State) : State :=
  match (s.ctx n).target with
  | some e => if e.entry = .tie ∧ (s.claimTest n).isSome then syncWithdrawn n s else s
  | none => s

/-- What a sequencer tests at a report that can change eligibility, readiness or a claim, in the state it is in; `wake`
says that FED evaluates its return condition at it and WAIT_SOURCE its tests (R108, R113). -/
def reconsider (n : Sec) (wake : Bool) (s : State) : State :=
  if s.auto n then
    match (s.ctx n).state with
    | .fed => if wake then evalReturn n s else s
    | .returnWait => checkReturn n s
    | .sync => syncClaim n s
    | .waitSource => if wake then waitTest n s else s
    | .decay => retest n s
    | .opening | .closing | .overlap | .halted => s
  else s

/-! ### Source and bus changes (R55, R58) -/

/-- A lost entry's exclusion flag is cleared when its source enters HEALTHY (R104): an act of a sequencer in AUTO, since
one in MANUAL does not act on source states (R165, log entry 45). -/
def clearExclusion (x : Src) (n : Sec) (s : State) : State :=
  if s.auto n then
    match (s.ctx n).lost with
    | some l =>
      if s.entrySource ⟨n, l.entry⟩ = some x then modSeq n (fun c => { c with lost := some { l with excluded := false } }) s
      else s
    | none => s
  else s

/-- The target's source goes DOWN during its close (R119, R120): the pulse is stopped and close_stopped is set. -/
def stopForDown (n : Sec) (s : State) : State :=
  match s.targetChan n with
  | some c => modSeq n (fun c => { c with closeStop := true }) (stopPulse c s)
  | none => s

/-- The source of a section's target. -/
def State.targetSource (s : State) (n : Sec) : Option Src := (s.ctx n).target.bind s.entrySource

/-- A source has changed its state: what the sequencer of one section does (R107, R110, R111, R113, R114, R117 to R120).
A section with feed TIE takes no action on a change of its island's feed source, in whatever state (R135, log entry 26). -/
def seqSource (n : Sec) (x : Src) (new : SrcState) (s : State) : State :=
  if s.auto n then
    let down := new = .down
    let feedDown := down ∧ s.feedSource n = some x
    match (s.ctx n).state with
    | .fed => if feedDown ∧ (s.ctx n).feed ≠ some .tie then loseFeed n .loss false s else evalReturn n s
    | .returnWait => if feedDown ∧ (s.ctx n).feed ≠ some .tie then loseFeed n .loss false s else checkReturn n s
    | .sync =>
      if feedDown ∧ (s.ctx n).feed ≠ some .tie then loseFeed n .loss false s
      else if s.targetSource n = some x ∧ new ≠ .healthy then syncWithdrawn n s
      else syncClaim n s
    | .opening =>
      if feedDown ∧ (s.ctx n).feed ≠ some .tie then modSeq n (fun c => { c with lost := c.feed.map fun e => ⟨e, true⟩ }) s else s
    | .closing => if down ∧ s.targetSource n = some x then stopForDown n s else s
    | .waitSource => waitTest n s
    | .decay => retest n s
    | .overlap | .halted => s
  else s

/-- A source change is taken by SEQ1, SEQ2 and MDC (R55, R104, R173). -/
def srcReported (x : Src) (new : SrcState) (s : State) : State :=
  let t := if new = .healthy then runHealthy x (clearExclusion x .sec2 (clearExclusion x .sec1 s)) else s
  seqSource .sec2 x new (seqSource .sec1 x new t)

/-! ### Operations of a sequencer (R84, R85, R90) -/

/-- A close or an overlap has brought a section onto its target: TRANSFER_DONE (R126), and LMG told the island is fed
(R155). `entry` is the feed it gives this section. -/
def transferDone (n : Sec) (e : SecEntry) (dead m : Nat) (cause : StartCause) (s : State) : State :=
  let entry := if e.sec = n then e.entry else .tie
  let c := s.ctx n
  let t := enterFed n cause (setFeed n (some entry) s)
  islandFed n (post (.transferDone n c.origin (some e) c.method dead c.closeRec.angleSlip (some m)) t)

/-- The overlap begins (R120): the outgoing incomer is tripped and t_overlap started. -/
def enterOverlap (n : Sec) (out : Option Entry) (s : State) : State :=
  let t := match feedChan n out with
    | some c => (tripTrigger c (.seq n) s).1
    | none => s
  enter n .overlap
    (modSeq n (fun c => { c with outgoing := out, tOverlap := some (s.now + s.plan.sec n .tOverlap) }) t)

/-- A channel is where a section's close is in flight. -/
def State.closingOn (s : State) (n : Sec) (c : Chan) : Bool :=
  (s.ctx n).state == .closing && s.targetChan n == some c

/-- An open-transition close is confirmed (R118, R119, R136): a stopped one is tested for a parallel first (R123), and
one whose target stands beyond a tie that has opened is taken as withdrawn (R141). A stopped close of the dependent
section's incomer, confirmed with its source DOWN, exchanges the roles (R136): the requester rests FED on TIE and takes no
loss, where R119 would have it take one, and the other section was FED throughout (DESIGN CHOICE, log entry 51). A stopped close of BKT rests FED on TIE by the same
entry (`fedTests`). -/
def openConfirmed (n : Sec) (c : Chan) (e : SecEntry) (m : Nat) (s : State) : State :=
  let x := s.ctx n
  if x.closeStop && decide (2 ≤ (s.paths n).length) then halt n .parallelFound (some c) s
  else if e.sec ≠ n ∧ !s.closed .bkt then select n .retarget s
  else transferDone n e (s.now - x.openMs) m (if x.closeStop then .reselect else .loss) s

/-- The close a sequencer requested is confirmed (R118 to R120). -/
def closeConfirmed (c : Chan) (n : Sec) (m : Nat) (s : State) : State :=
  if s.auto n && s.closingOn n c then
    match (s.ctx n).target with
    | none => s
    | some e =>
      if (s.ctx n).closedTrans then
        enterOverlap n (if (s.ctx n).closeStop then some e.entry else (s.ctx n).feed) s
      else openConfirmed n c e m s
  else s

/-- The close a sequencer requested has failed (R118 to R120). -/
def closeFailed (c : Chan) (n : Sec) (s : State) : State :=
  if s.auto n && s.closingOn n c then
    let x := s.ctx n
    if x.closedTrans then
      enterFed n .loss (post (.closeFail n c (if x.closeStop then .targetDown else .failToClose)) s)
    else if x.closeStop then select n .reselect (modSeq n (fun c => { c with closeStop := false }) s)
    else halt n .failToClose (some c) s
  else s

/-- The close a sequencer requested was withdrawn by another requester's trip (R118); in a closed transition the old feed
still feeds, and the section is FED on it (log entry 12). -/
def closeWithdrawn (c : Chan) (n : Sec) (s : State) : State :=
  if s.auto n && s.closingOn n c then
    if (s.ctx n).closedTrans then enterFed n .loss s else select n .retarget s
  else s

/-- The outgoing entry of an overlap is the target (R120, R122). -/
def SecCtx.outIsTarget (c : SecCtx) : Bool := c.outgoing.isSome && c.target.map (·.entry) == c.outgoing

/-- The channel of an overlap's outgoing entry. -/
def State.outChan (s : State) (n : Sec) : Option Chan := feedChan n (s.ctx n).outgoing

/-- The channel of the entry that stays closed when an overlap ends. -/
def State.stayChan (s : State) (n : Sec) : Option Chan :=
  if (s.ctx n).outIsTarget then feedChan n (s.ctx n).feed else s.targetChan n

/-- The outgoing incomer of an overlap has opened in time (R121, R138, R140). Where it was the target of a closed return
and the path beyond the tie had opened before it, the section held the island's last path: it is SUPPLYING, so it takes the
loss of the island's feed (R136) in place of resting on TIE (log entry 44). -/
def overlapEnd (n : Sec) (s : State) : State :=
  match (s.ctx n).target with
  | none => s
  | some e =>
    if (s.ctx n).outIsTarget then
      let t := post (.closeFail n (entryChan e) .targetDown) s
      if (s.ctx n).role = .supplying ∧ (s.ctx n).feed = some .tie then select n .loss (setFeed n none t)
      else enterFed n .loss t
    else transferDone n e 0 ((s.bcu.get (entryChan e)).lastM.getD 0) .loss s

/-- An overlap that fails by its timer or by FAIL_TO_OPEN (R122): the target's incomer is tripped where the outgoing one
is the old feed, and the section halts. -/
def overlapFail (n : Sec) (cause : HaltCause) (ch : Option Chan) (s : State) : State :=
  let t := if (s.ctx n).outIsTarget then s else
    match s.targetChan n with
    | some c => (tripTrigger c (.seq n) s).1
    | none => s
  halt n cause ch t

/-- A trip has been confirmed: what it is to one section (R114, R121, R139). A section that its own trip has left with a
source path is judged by it (R123, log entry 44). -/
def tripConfirmed (c : Chan) (n : Sec) (s : State) : State :=
  if s.auto n then
    match (s.ctx n).state with
    | .opening =>
      if s.oldChan n = some c then
        let t := setFeed n none (modSeq n (fun x => { x with openMs := s.now }) s)
        judgeLeft n c t <|
          match (t.ctx n).target with
          | some e => if t.eligible n e then enterDecay n t else select n .retarget t
          | none => select n .retarget t
      else s
    | .overlap => if s.outChan n = some c then overlapEnd n s else s
    | _ => s
  else s

/-- A trip has failed: what it is to one section (R114, R122, R139). -/
def tripFailed (c : Chan) (n : Sec) (s : State) : State :=
  if s.auto n then
    match (s.ctx n).state with
    | .opening => if s.oldChan n = some c then halt n .failToOpen (some c) s else s
    | .overlap => if s.outChan n = some c then overlapFail n .failToOpen (some c) s else s
    | _ => s
  else s

/-- An operation was ended by lockout: what it is to one section (R114, R118, R120, R122). -/
def lockoutEnded (c : Chan) (n : Sec) (s : State) : State :=
  if s.auto n then
    match (s.ctx n).state with
    | .opening => if s.oldChan n = some c then halt n .busFault (some c) s else s
    | .closing =>
      if s.targetChan n = some c then
        if (s.ctx n).closedTrans then enterFed n .loss (post (.closeFail n c .locked) s)
        else halt n .busFault (some c) s
      else s
    | .overlap => if s.outChan n = some c ∨ s.stayChan n = some c then halt n .busFault (some c) s else s
    | _ => s
  else s

/-- The running close pulse of a section's target is stopped. -/
def stopTarget (n : Sec) (s : State) : State :=
  match s.targetChan n with
  | some c => stopPulse c s
  | none => s

/-- A channel of its section has become LOCKED: what it is to one section (R117, R118, R120, R122). -/
def channelLocked (c : Chan) (n : Sec) (s : State) : State :=
  if s.auto n && chanOf c n then
    let lost := (s.ctx n).lost.map fun l => entryChan ⟨n, l.entry⟩
    match (s.ctx n).state with
    | .decay => if lost = some c then halt n .busFault (some c) s else s
    | .closing =>
      if (if (s.ctx n).closedTrans then feedChan n (s.ctx n).feed else lost) = some c then
        halt n .busFault (some c) (stopTarget n s)
      else s
    | .overlap => if s.outChan n = some c ∨ s.stayChan n = some c then halt n .busFault (some c) s else s
    | _ => s
  else s

/-! ### Contact changes (R113, R117, R118, R120, R122 to R124, R135, R136, R141, R165) -/

/-- A section in MANUAL tracks the board (R165). -/
def track (n : Sec) (s : State) : State :=
  if (s.ctx n).state = .halted then setFeed n (s.adoptedFeed n) s
  else
    match s.paths n with
    | [x] => enter n .fed (setFeed n (some (pathEntry n x)) s)
    | [] => enter n .waitSource (setFeed n none s)
    | _ => s

/-- A confirmed close that R123 does not test: it was not stopped, or it belongs to a closed transition, and its
requester still has it in flight. One across an open tie is taken as an external close (R141). -/
def State.permittedClose (s : State) (n : Sec) (c : Chan) (op : Option Operation) : Bool :=
  match op with
  | none => false
  | some o =>
    match o.requester with
    | .mdc => !o.stopped
    | .seq q => s.closingOn q c && (q == n || s.closed .bkt) && ((s.ctx q).closedTrans || !o.stopped)

/-- The paths an island may have before R123 halts its section: two in OVERLAP, one otherwise. -/
def State.pathLimit (s : State) (n : Sec) : Nat := if (s.ctx n).state = .overlap then 2 else 1

/-- The closing of a channel gave a section's island its one source path (R123). -/
def State.firstPath (s : State) (n : Sec) (c : Chan) : Bool :=
  match s.paths n with
  | [x] => srcChan x == c || (c == .bkt && srcSec x != n)
  | _ => false

/-- A section whose island has just gained its one source path (R113, R117, R118, R123, R136, R137). In SYNC and in the
CLOSING of a closed transition, whose island was dead beyond a closed tie, the feed becomes that path's too (log entry 44).
A dependent section in SYNC keeps TIE, and its state with it, where the path is the other section's (R135). -/
def gainPath (n : Sec) (s : State) : State :=
  let feed := s.adoptedFeed n
  match (s.ctx n).state with
  | .waitSource | .decay => islandFed n (enterFed n .loss (setFeed n feed s))
  | .closing =>
    if (s.ctx n).closedTrans then setFeed n feed s
    else islandFed n (enterFed n .loss (setFeed n feed (stopTarget n s)))
  | .fed | .returnWait => setFeed n feed s
  | .sync => if (s.ctx n).feed = feed then s else enterFed n .loss (setFeed n feed s)
  | .opening | .overlap | .halted => s

/-- A channel has closed and a section in AUTO is told (R113, R117, R118, R123, R135, R136, R141). A closing of the kind
IN_OPERATION is taken as an EXTERNAL_CLOSE is (log entry 27). -/
def closeSeen (n : Sec) (c : Chan) (kind : ContactKind) (op : Option Operation) (s : State) : State :=
  if kind = .confirmClose ∧ s.closingOn n c then s
  else if (kind ≠ .confirmClose ∨ !s.permittedClose n c op) ∧ s.pathLimit n < (s.paths n).length then
    halt n .parallelFound (some c) s
  else if s.firstPath n c then gainPath n s
  else
    match (s.ctx n).state with
    | .waitSource => waitTest n s
    | .decay => retest n s
    | _ => s

/-- The feed incomer of a section has opened (R107, R110, R111, R141). It is a loss where the island has no source path left;
the end of a parallel that leaves one is judged by that path (R123, R164). -/
def feedOpened (n : Sec) (c : Chan) (kind : ContactKind) (s : State) : State :=
  if kind = .protectionOpen then halt n .busFault (some c) (setFeed n none s)
  else judgeLeft n c s (loseFeed n .externalOpen true s)

/-- The old feed incomer has opened during the close of a closed transition (R120): the close runs on as that of an open
transition, or the section halts. Where the island keeps one source path, its entry is the feed from this event (R7, R123)
and the transition stays a closed one from it (log entry 44); with two or more it halts (log entry 57). A CONFIRM_OPEN is taken
as an EXTERNAL_OPEN (DEDUCED, log entry 25). -/
def oldFeedOpened (n : Sec) (c : Chan) (kind : ContactKind) (s : State) : State :=
  if kind = .protectionOpen then halt n .busFault (some c) (stopTarget n s)
  else
    match s.paths n with
    | [] =>
      setFeed n none (modSeq n (fun x => { x with
        lost := x.feed.map fun e => ⟨e, true⟩, openMs := s.now, closedTrans := false }) s)
    | [x] => setFeed n (some (pathEntry n x)) s
    | _ => halt n .parallelFound (some c) s

/-- A channel that does not feed a section has opened. The one source path its island then has feeds it: the section holds
it already, or its own incomer is left beside a tie whose path has opened, and it is FED by it and SUPPLYING (R7, R123, R136,
R143; log entry 44). -/
def otherOpened (n : Sec) (s : State) : State :=
  match s.adoptedFeed n with
  | some e => if (s.ctx n).feed = some e then s else restOn n e s
  | none => s

/-- The entry on which a section in WAIT_SOURCE is FED when a channel opens: that of its island's one source path, but for
its own lost incomer, which WAIT_SOURCE holds closed (R113, R123, log entry 44). -/
def State.leftFeed (s : State) (n : Sec) : Option Entry :=
  match s.adoptedFeed n with
  | some e => if e ≠ .tie ∧ (s.ctx n).lost.map (·.entry) = some e then none else some e
  | none => none

/-- A channel has opened and a section in AUTO is told (R107, R110, R111, R113, R117, R120 to R122, R135, R141). In
OVERLAP the manual gives no row for an EXTERNAL_OPEN of the outgoing incomer, one that was FAULTED or LOCKED and whose trip
set no operation: it is taken as the end of the overlap (DESIGN CHOICE, log entry 49). A CONFIRM_OPEN of an incomer whose trip
the section did not ask for is taken as an EXTERNAL_OPEN of it in every state (DEDUCED, log entry 25). -/
def openSeen (n : Sec) (c : Chan) (kind : ContactKind) (s : State) : State :=
  let feed := feedChan n (s.ctx n).feed
  match (s.ctx n).state with
  | .fed | .returnWait | .sync => if feed = some c then feedOpened n c kind s else otherOpened n s
  | .waitSource =>
    if kind = .protectionOpen ∧ (s.ctx n).lost.map (fun l => entryChan ⟨n, l.entry⟩) = some c then
      halt n .busFault (some c) s
    else
      match s.leftFeed n with
      | some e => restOn n e s
      | none => waitTest n s
  | .decay =>
    match s.adoptedFeed n with
    | some e => restOn n e s
    | none => retest n s
  | .closing =>
    if (s.ctx n).closedTrans then
      if feed = some c then oldFeedOpened n c kind s
      else
        match s.adoptedFeed n with
        | some e => setFeed n (some e) s
        | none => s
    else s
  | .overlap =>
    if kind = .protectionOpen ∧ (s.outChan n = some c ∨ s.stayChan n = some c) then halt n .busFault (some c) s
    else if kind = .externalOpen ∧ s.outChan n = some c then overlapEnd n s
    else if s.stayChan n = some c then halt n .overlapFail (some c) s
    else s
  | .opening | .halted => s

/-- A contact change reaches a section's sequencer (R88). -/
def contactSeen (n : Sec) (c : Chan) (kind : ContactKind) (op : Option Operation) (s : State) : State :=
  if !s.auto n then track n s
  else if (s.ctx n).state = .halted then setFeed n (s.adoptedFeed n) s
  else
    match kind with
    | .confirmClose | .inOperation | .externalClose => closeSeen n c kind op s
    | .confirmOpen | .externalOpen | .protectionOpen => openSeen n c kind s

/-! ### Timers (R110, R112, R117, R122) -/

/-- A sequencer's timer. -/
def SecCtx.timer (c : SecCtx) : SeqTimer → Option Nat
  | .tReturn => c.tReturn
  | .tSyncWait => c.tSyncWait
  | .tDecayMax => c.tDecayMax
  | .tDead => c.tDead
  | .tOverlap => c.tOverlap

/-- A context with one timer idle. -/
def SecCtx.stopTimer (c : SecCtx) : SeqTimer → SecCtx
  | .tReturn => { c with tReturn := none }
  | .tSyncWait => { c with tSyncWait := none }
  | .tDecayMax => { c with tDecayMax := none }
  | .tDead => { c with tDead := none }
  | .tOverlap => { c with tOverlap := none }

/-- The return method of a section is CLOSED (R110). -/
def State.returnsClosed (s : State) (n : Sec) : Bool := s.plan.sec n .returnMethod == 1

/-- t_return expires (R110, R138 to R140). -/
def returnOver (n : Sec) (s : State) : State :=
  match s.preferred n with
  | some e => directTransfer n .return (s.returnsClosed n && s.healthy? (s.feedSource n)) ⟨n, e⟩ s
  | none => enterFed n .loss s

/-- t_sync_wait expires (R112). -/
def syncOver (n : Sec) (s : State) : State :=
  if s.plan.sec n .fallbackOpen = 1 then openTransition n (modSeq n (fun c => { c with closedTrans := false }) s)
  else
    let c := s.ctx n
    enterFed n .loss (post (.syncTimeout n c.target (c.lastResult.bind (·.angleSlip))) s)

/-- t_decay_max expires (R117). -/
def decayOver (n : Sec) (s : State) : State :=
  if s.plan.sec n .closeOnTimeout = 1 then testDecay n false [] (modSeq n (fun c => { c with decayOver := true }) s)
  else halt n .decayTimeout none (modSeq n (fun c => { c with decayOver := true }) s)

/-- t_dead expires (R117). -/
def deadOver (n : Sec) (s : State) : State := testDecay n false [] (modSeq n (fun c => { c with deadOver := true }) s)

/-- A running timer of a sequencer expires, in the state it serves (R102). -/
def timerOver (n : Sec) (k : SeqTimer) (s : State) : State :=
  match (s.ctx n).timer k with
  | none => s
  | some d =>
    let t := modSeq n (·.stopTimer k) (reach d s)
    if s.auto n then
      match k, (s.ctx n).state with
      | .tReturn, .returnWait => returnOver n t
      | .tSyncWait, .sync => syncOver n t
      | .tDecayMax, .decay => decayOver n t
      | .tDead, .decay => deadOver n t
      | .tOverlap, .overlap => overlapFail n .overlapFail none t
      | _, _ => t
    else t

/-! ### Holds, modes and the block (R103, R163, R164, R169) -/

/-- The end of a hold (R103, R137). -/
def holdEnded (n : Sec) (s : State) : State :=
  if s.auto n then
    match (s.ctx n).state with
    | .waitSource => waitTest n s
    | .fed => evalReturn n s
    | _ => s
  else s

/-- The state a section drops to at a change to MANUAL or at the entry into BLOCKED (R163, R169); none keeps it. -/
def SeqState.dropped : SeqState → Option SeqState
  | .decay => some .waitSource
  | .sync | .returnWait => some .fed
  | .fed | .waitSource | .halted | .opening | .closing | .overlap => none

/-- The channel whose operation a section in transfer has in flight (R169). -/
def State.inFlight (s : State) (n : Sec) : Option Chan :=
  match (s.ctx n).state with
  | .opening => s.oldChan n
  | .closing => s.targetChan n
  | .overlap => s.outChan n
  | _ => none

/-- The entry into BLOCKED at one sequencer (R169). -/
def seqBlocked (n : Sec) (s : State) : State :=
  if s.auto n then
    match (s.ctx n).state with
    | .opening | .closing | .overlap => halt n .blockedInTransfer (s.inFlight n) s
    | .decay => enter n .waitSource s
    | .sync | .returnWait => enterFed n .loss s
    | .fed | .waitSource | .halted => s
  else s

/-- The release of the block at one sequencer (R170): the end of a hold unless its settle timer runs. -/
def seqReleased (n : Sec) (s : State) : State := if (s.mdc.settle.get n).isNone then holdEnded n s else s

/-- A change to MANUAL at one sequencer (R163). -/
def toManual (n : Sec) (s : State) : State :=
  match (s.ctx n).state.dropped with
  | some st => enter n st s
  | none => s

/-- A change to AUTO at one sequencer (R164): the board is taken as it stands. R164 has a section in WAIT_SOURCE test its
lost source and select; R143 has one rest in the state it holds while BKT is closed with two paths. There R143 is followed
(DESIGN CHOICE, log entry 56). -/
def toAuto (n : Sec) (s : State) : State :=
  match (s.ctx n).state with
  | .fed => if 2 ≤ (s.paths n).length then s else fedTests n .loss s
  | .waitSource => if s.closed .bkt ∧ 2 ≤ (s.paths n).length then s else waitTest n s
  | _ => s

/-- An activation at one sequencer (R127). -/
def seqActivated (n : Sec) (s : State) : State :=
  if s.auto n then
    match (s.ctx n).state with
    | .returnWait => enterFed n .loss s
    | .fed => evalReturn n s
    | .waitSource => select n .reselect s
    | _ => s
  else s

/-! ### TRANSFER_REQUEST and RESUME (R109, R125, R135) -/

/-- Why a TRANSFER_REQUEST is refused (R109, R135), in order, with the claim reason where the claim test of a TIE entry
fails (log entry 36); none accepts it. BUSY for the supplying section's transfer is for an own entry (log entry 26). -/
def State.transferRefusal (s : State) (n : Sec) (e : Entry) : Option (Status × Option ClaimReason) :=
  let c := s.ctx n
  if !s.auto n then some (.wrongMode, none)
  else if s.blocked then some (.blocked, none)
  else if (s.mdc.settle.get n).isSome || !c.state.settled then some (.busy, none)
  else if e ≠ .tie ∧ c.role = .dependent ∧ !(s.ctx n.other).state.settled then some (.busy, none)
  else if c.feed = some e ∨ !(s.plan.prefs n).contains e then some (.notAvailable, none)
  else if s.eligible n ⟨n, e⟩ then none
  else if e = .tie then some (.notAvailable, s.claimTest n)
  else some (.notAvailable, none)

/-- An accepted TRANSFER_REQUEST (R109). -/
def startRequested (n : Sec) (e : Entry) (s : State) : State :=
  let closed := s.returnsClosed n && s.healthy? (s.feedSource n) && s.healthy? (s.entrySource ⟨n, e⟩)
  directTransfer n .request closed ⟨n, e⟩ s

/-- The cause of a halt still stands (R125). -/
def State.haltStands (s : State) (n : Sec) : Bool :=
  match (s.ctx n).haltCause with
  | .busFault =>
    match (s.ctx n).haltChan with
    | some c => (s.bcu.get c).position == .locked
    | none => false
  | .parallelFound => decide (2 ≤ (s.paths n).length)
  | _ => false

/-- An accepted RESUME of a HALTED section (R125): the adoption evaluation sets its state, and with two source paths it
stays HALTED with PARALLEL_FOUND (R123), with the highest-numbered closed incomer as halt channel and with no further notice
or ALARM (DESIGN CHOICE, log entry 14). -/
def resumeSection (n : Sec) (s : State) : State :=
  let t := modSeq n (fun c => { c with haltCause := .none, haltChan := none, lost := none }) s
  match s.paths n with
  | [x] => enterFed n .loss (setFeed n (some (pathEntry n x)) t)
  | [] =>
    let u := enter n .waitSource (setFeed n none t)
    if s.auto n then select n .reselect u else u
  | _ => setFeed n none (modSeq n (fun c => { c with haltCause := .parallelFound, haltChan := s.highestClosed n }) t)

end Sys2Proof.Machine
end

