-- ==== Sys2Proof/Machine/Plans.lean ====
section
/-! DEFINITION. The plan store PST (chapter 1, sections 1.2.1 to 1.2.6): page images, the load, the writes to the
non-volatile store, the cross-item check, and an activation taking effect. -/

namespace Sys2Proof.Machine

/-! ### Page images (R20, R22, R194) -/

/-- The item values of a page as bytes, four each, high byte first (R194). -/
def itemBytes (l : List Word) : List Byte := l.flatMap fun w => be32 w.toNat

/-- The bytes of a page before its CRC: format number 1, the status, the 252 item values (R194). -/
def imageBody (p : Page) : List Byte := [1, p.status.code] ++ itemBytes p.items.toList

/-- The stored image of a page, CRC included (R20, R194). -/
def pageImage (p : Page) : List Byte := imageBody p ++ be16 (crc16 (imageBody p)).toNat

/-- Bytes read as four-byte values; a last piece of fewer than four bytes gives nothing. -/
def readWords : List Byte → List Word
  | a :: b :: c :: d :: l => readWord a b c d :: readWords l
  | _ => []

/-- The items of a list of values, where it has all 252. -/
def itemsOf (l : List Word) : Option Items :=
  if h : l.length = 252 then some ⟨⟨l⟩, h⟩ else none

/-- A page status from its code (R193). -/
def statusOf (b : Byte) : Option PageStatus :=
  match b.toNat with
  | 0 => some .blank
  | 1 => some .draft
  | 2 => some .valid
  | _ => none

/-- The page a stored image gives: accepted when it has its 1012 bytes, a right CRC and format number 1 (R22). -/
def imagePage (img : List Byte) : Option Page :=
  let body := img.take 1010
  if img.length = 1012 ∧ img.drop 1010 = be16 (crc16 body).toNat then
    match body with
    | f :: st :: vals =>
      if f = 1 then
        match statusOf st, itemsOf (readWords vals) with
        | some st, some it => some ⟨it, st, true⟩
        | _, _ => none
      else none
    | _ => none
  else none

/-- A page as the load leaves it: EMPTY with the defaults where its image is not accepted (R22). -/
def loadPage (img : List Byte) : Page := (imagePage img).getD Page.empty

/-! ### Store writes (R20, R21) -/

/-- Changes PST's state. -/
def modPst (f : PstState → PstState) (s : State) : State := { s with pst := f s.pst }

/-- A write is a pointer write. -/
def StoreWrite.isPointer : StoreWrite → Bool
  | .pointer _ => true
  | _ => false

/-- A pointer write takes the place of an earlier one that is still waiting; any other write waits behind (R21). -/
def enqueueWrite (w : StoreWrite) : List StoreWrite → List StoreWrite
  | [] => [w]
  | first :: waiting =>
    if w.isPointer ∧ waiting.any (·.isPointer) then first :: waiting.map fun x => if x.isPointer then w else x
    else first :: waiting ++ [w]

/-- Requests a store write (R21); with none in progress it begins at once. -/
def queueWrite (w : StoreWrite) (s : State) : State :=
  modPst (fun p => { p with writes := enqueueWrite w p.writes }) s

/-- The write in progress has ended, and the next waiting one begins (R21). -/
def nextWrite (s : State) : State := modPst (fun p => { p with writes := p.writes.tail }) s

/-- Replaces the stored image of a page. -/
def setImage (p : PageNo) (img : List Byte) (s : State) : State :=
  modPst (fun t => { t with store := { t.store with images := t.store.images.set p img } }) s

/-- Changes a page. -/
def modPage (p : PageNo) (f : Page → Page) (s : State) : State :=
  modPst (fun t => { t with pages := t.pages.set p (f (t.pages.get p)) }) s

/-- What the store and the page hold after a page write has ended (R20): on a failed verify the image is a free value. -/
def pageWritten (p : PageNo) (good : Bool) (s : State) : State :=
  if good then modPage p (fun q => { q with saved := true }) (setImage p (pageImage (s.pst.pages.get p)) s)
  else useFree (setImage p (Config.tornImage s.freeCount) s)

/-- What the stored active pointer is after a pointer write has ended (R21). -/
def pointerWritten (p : PageNo) (good : Bool) (s : State) : State :=
  let v : StoredPtr := if good then .page p else .unreadable
  modPst (fun t => { t with storedActive := v, store := { t.store with pointer := v } }) s

/-- What the stored link map record is after its write has ended (R21, R41): on a failed verify a free value. -/
def linkMapWritten (m : LinkMap) (good : Bool) (s : State) : State :=
  if good then modPst (fun t => { t with store := { t.store with linkMap := some m } }) s
  else useFree (modPst (fun t => { t with store := { t.store with linkMap := Config.tornMap s.freeCount } }) s)

/-- The store after a reset has cut off the write in progress (log entry 5): what it was writing is a free value. -/
def tornStore (s : State) : State :=
  match s.pst.writes with
  | [] => s
  | .page p :: _ => useFree (setImage p (Config.tornImage s.freeCount) s)
  | .pointer _ :: _ =>
    let v : StoredPtr := match Config.tornPointer s.freeCount with
      | none => .unreadable
      | some none => .noPage
      | some (some p) => .page p
    useFree (modPst (fun t => { t with store := { t.store with pointer := v } }) s)
  | .linkMap _ :: _ => useFree (modPst (fun t => { t with store := { t.store with linkMap := Config.tornMap s.freeCount } }) s)

/-! ### The load (R22, R23) -/

/-- The active page a load gives (R23): the page the stored pointer names, if it loaded VALID. -/
def loadedActive (pages : ByPage Page) : StoredPtr → Option PageNo
  | .page p => if (pages.get p).status = .valid then some p else none
  | _ => none

/-- PST after the load (R22, R23). -/
def loadStore (s : State) : State :=
  let st := s.pst.store
  let pages : ByPage Page :=
    ⟨loadPage st.images.p0, loadPage st.images.p1, loadPage st.images.p2, loadPage st.images.p3⟩
  modPst (fun p => { p with
    pages := pages, active := loadedActive pages st.pointer, pendingPage := none, edit := .p0,
    storedActive := st.pointer, linkMap := st.linkMap.getD (.all none) }) s

/-! ### PLAN_CHECK (R16) -/

/-- A failed cross-item test: its code and the address of the item reported. -/
structure CheckFailure where
  code  : Nat
  group : Nat
  index : Nat
  field : Nat
  deriving DecidableEq, Repr

/-- The first of a list of conditions that fails. -/
def firstFailure (l : List (Bool × CheckFailure)) : Option CheckFailure := (l.find? fun c => !c.1).map (·.2)

/-- Test 1: the pickup band inside the dropout band. -/
def bandTests (it : Items) (x : Src) : List (Bool × CheckFailure) :=
  let p := it.kind x == .absent
  let i := srcIx x + 1
  [(p || decide (it.src x .vDropLo ≤ it.src x .vPickLo), ⟨1, 1, i, 5⟩),
   (p || decide (it.src x .vPickHi ≤ it.src x .vDropHi), ⟨1, 1, i, 6⟩),
   (p || decide (it.src x .fPickDev ≤ it.src x .fDropDev), ⟨1, 1, i, 10⟩)]

/-- A preference item names no source of kind ABSENT. -/
def ownPresent (it : Items) (n : Sec) (code : Nat) : Bool :=
  match (entryOfCode code).bind (ownSource n) with
  | some x => it.kind x != .absent
  | none => true

/-- Test 2: the preference list well formed. -/
def listTests (it : Items) (n : Sec) : List (Bool × CheckFailure) :=
  let a := it.sec n .pref1
  let b := it.sec n .pref2
  let c := it.sec n .pref3
  let at' := fun f => (⟨2, 3, secIx n + 1, f⟩ : CheckFailure)
  [(b == 0 || a != 0, at' 2), (c == 0 || (a != 0 && b != 0), at' 3),
   (b == 0 || a != b, at' 2), (c == 0 || (a != c && b != c), at' 3),
   (ownPresent it n a, at' 1), (ownPresent it n b, at' 2), (ownPresent it n c, at' 3)]

/-- A section's list holds an own entry. -/
def hasOwn (it : Items) (n : Sec) : Bool := (it.prefs n).any (· != .tie)

/-- Test 3: the tie needs an own entry on the other side. -/
def tieTests (it : Items) (n : Sec) : List (Bool × CheckFailure) :=
  let at' := fun f => (⟨3, 3, secIx n + 1, f⟩ : CheckFailure)
  [(it.sec n .pref1 != 3 || hasOwn it n.other, at' 1), (it.sec n .pref2 != 3 || hasOwn it n.other, at' 2),
   (it.sec n .pref3 != 3 || hasOwn it n.other, at' 3)]

/-- Test 4: the closed window within the open window. -/
def windowTest (it : Items) (n : Sec) : Bool × CheckFailure :=
  (decide (it.sec n .closedWindow ≤ it.sec n .openWindow), ⟨4, 3, secIx n + 1, 14⟩)

/-- The five cross-item tests in their order (R16); none passes them all. -/
def planCheck (it : Items) : Option CheckFailure :=
  firstFailure (allSrcs.flatMap (bandTests it) ++ allSecs.flatMap (listTests it) ++ allSecs.flatMap (tieTests it) ++
    allSecs.map (windowTest it) ++ [(!(it.prefs .sec1).isEmpty || !(it.prefs .sec2).isEmpty, ⟨5, 3, 1, 1⟩)])

/-! ### Activation (R17 to R19) -/

/-- Both sequencers are at rest (R18). -/
def State.bothAtRest (s : State) : Bool := (s.ctx .sec1).state.atRest && (s.ctx .sec2).state.atRest

/-- The blocks told of an activation act on it (R19): SQU, BCU, LMG, MDC, and the sequencers by their reports. -/
def tellActivation (old : Items) (oldOne : Nat) (s : State) : State :=
  let t := allSrcs.foldl (fun t x => srcActivated old x t) s
  let t := loadActivated old oldOne (allChans.foldl (fun t c => chanActivated old c t) t)
  let t := allSrcs.foldl (fun t x => runActivated old x t) t
  report (.activated .sec2) (report (.activated .sec1) t)

/-- An activation of a page takes effect (R19). Its pointer write and its notice follow the blocks' own actions. -/
def takeEffect (p : PageNo) (s : State) : State :=
  let t := modPst (fun q => { q with active := some p, pendingPage := none }) s
  report (.activationDone p s.pst.active) (tellActivation s.plan s.classOne t)

/-- The pending page takes effect once both sequencers are at rest (R18). -/
def testPending (s : State) : State :=
  match s.pst.pendingPage with
  | some p => if s.bothAtRest then takeEffect p s else s
  | none => s

/-- The end of an activation (R19): the pointer write and the notice. -/
def activationDone (p : PageNo) (prev : Option PageNo) (s : State) : State :=
  post (.planActivated p prev) (queueWrite (.pointer p) s)

end Sys2Proof.Machine
end

