-- ==== Sys2Proof/Machine/Reports.lean ====
section
/-! DEFINITION. Taking the reports that blocks make to each other within one event (R54, R87, R102): each report in
turn, in the order made, with the run requests formed again after each (R171). -/

namespace Sys2Proof.Machine

/-- CCU computes for one sequencer's watch, where it names the point, and hands the result to it (R65). R64 has the first
result of a watch come with the next arrival or invalidity report; where the very arrival or report makes a sequencer set its
watch, before CCU computes for it (R65), it gives that result within the same event (DESIGN CHOICE, log entry 58), before the test that R115 makes at an entry into
DECAY (DESIGN CHOICE, log entry 61). -/
def computeWatch (p : Point) (nd : Word) (n : Sec) (s : State) : State :=
  match s.ccu.watches.get n with
  | some w =>
    if w.pair.names p then
      let r := s.coincidence w.pair w.set w.judging nd
      handResult n r (keep w.pair r s)
    else s
  | none => s

/-- Both sections in ascending order. -/
def forSecs (f : Sec → State → State) (s : State) : State := f .sec2 (f .sec1 s)

/-- The requester of a close, where it is a sequencer, takes the report. -/
def forRequester (q : Requester) (f : Sec → State → State) (s : State) : State :=
  match q with
  | .seq n => f n s
  | .mdc => s

/-- What the receivers of one report do. A trip that is confirmed, fails or is ended by lockout goes to both sequencers, each
of which tests whether the channel is the one its state waits for (R114, R118, R120 to R122): a trip that one sequencer's
trigger only extended keeps its first requester (R82), whom alone R85, R90 and R102 name, and the manual does not say whether
that sequencer is told; here it is (DESIGN CHOICE, log entry 48). -/
def handle (r : Report) (s : State) : State :=
  match r with
  | .srcChanged x _ new _ => srcReported x new s
  | .busChanged b _ _ => testDecay b false [] s
  | .pointInvalid p nd => report (.ccuPoint p nd) (squInvalid p s)
  | .ccuPoint p nd => forSecs (computeWatch p nd) s
  | .availability _ => forSecs (fun n => reconsider n true) s
  | .tripConfirmed c => forSecs (tripConfirmed c) s
  | .tripFailed c => forSecs (tripFailed c) s
  | .closeConfirmed c q m => forRequester q (fun n => closeConfirmed c n m) s
  | .closeFailed c q => forRequester q (closeFailed c) s
  | .closeWithdrawn c q => forRequester q (closeWithdrawn c) s
  | .lockoutEnded c _ => forSecs (lockoutEnded c) s
  | .contact n c k op => contactSeen n c k op s
  | .channelLocked c => forSecs (channelLocked c) s
  | .channelCleared _ => s
  | .seqState n => reconsider n.other true (testPending s)
  | .seqFeed n => reconsider n.other false s
  | .tieOwner => forSecs (fun n => reconsider n false) s
  | .classOneDemand => forSecs (fun n => reconsider n false) s
  | .holdEnded n => holdEnded n s
  | .activated n => seqActivated n s
  | .fedEntry n cause => fedTests n cause s
  | .decayTest n passed => testDecay n false passed s
  | .timerOver n k => timerOver n k s
  | .activationDone p prev => activationDone p prev s

/-- Takes at most so many reports. -/
def drain : Nat → State → State
  | 0, s => s
  | k + 1, s =>
    match s.agenda with
    | [] => s
    | r :: rest => drain k (runAll (handle r { s with agenda := rest }))

/-- Ends an event: every report is taken. The bound is far above what one event of the part can give (log entry 8). -/
def settle (s : State) : State := drain 4096 (runAll s)

end Sys2Proof.Machine
end

