-- ==== Sys2Proof/Machine/Power.lean ====
section
/-! DEFINITION. The block (R168 to R170), the settle timers (R177), and the ends of the power-up sequence: what the store
load gives the blocks and the adoption of the board (R175 to R178). -/

namespace Sys2Proof.Machine

/-! ### The block -/

/-- The entry into BLOCKED (R169): pulses stop, and both sequencers and LMG are told. -/
def blockEntry (s : State) : State := loadBlocked (seqBlocked .sec2 (seqBlocked .sec1 (stopAllPulses s)))

/-- The release of the block (R160, R170): the shed lines follow their feeders, the sequencers act, and LMG supervises. -/
def blockRelease (s : State) : State := superviseAll (seqReleased .sec2 (seqReleased .sec1 (driveAllLines s)))

/-- A change of one of the two causes of the block (R168): the entry and the release are where the state changes. -/
def changeBlock (f : MdcState → MdcState) (s : State) : State :=
  let t : State := { s with mdc := f s.mdc }
  match s.blocked, t.blocked with
  | false, true => blockEntry t
  | true, false => blockRelease t
  | _, _ => t

/-- A section's settle timer expires (R177): the end of a hold unless the part is BLOCKED. -/
def settleOver (n : Sec) (s : State) : State :=
  match s.mdc.settle.get n with
  | none => s
  | some d =>
    let t := reach d s
    let u : State := { t with mdc := { t.mdc with settle := t.mdc.settle.set n none } }
    if u.blocked then u else report (.holdEnded n) u

/-! ### The store load (R175) -/

/-- The records that take their values after power-up from the item set in use: qualification (R43), feeders, stacks and
shed lines (R144, R147, R159), and learned close times (R75). -/
def takeInitial (s : State) : State :=
  let it := s.plan
  let t : State := { s with
    squ := .start it, lmg := { s.lmg with feeders := feedersFrom it, shedStack := .all [], lines := linesOff } }
  allChans.foldl (fun t c => modChan c (fun r => { r with tc := it.chan c .closeTimeInit }) t) t

/-- What the end of the store load sets (R22, R23, R175). -/
def loadEnded (s : State) : State := takeInitial { loadStore s with loaded := true }

/-! ### Adoption (R176 to R178) -/

/-- A section's context as adoption sets it (R123, R176). -/
def adoptSection (n : Sec) (s : State) : State :=
  modSeq n (fun c =>
    match s.paths n with
    | [] => { c with state := .waitSource, feed := none }
    | [x] => { c with state := .fed, feed := some (pathEntry n x) }
    | _ => { c with state := .halted, feed := none, haltCause := .parallelFound, haltChan := s.highestClosed n }) s

/-- A section's start mode (R177): that of the active page, or MANUAL with none. -/
def State.startMode (s : State) (n : Sec) : Mode :=
  if s.pst.active.isSome ∧ s.plan.sec n .startMode = 1 then .auto else .manual

/-- A section's settle timer as it starts at adoption (R177); 0 starts none. -/
def State.settleStart (s : State) (n : Sec) : Option Nat :=
  if s.plan.sec n .tSettle = 0 then none else some (s.now + s.plan.sec n .tSettle * 1000)

/-- The channels found LOCKED. -/
def State.lockedSet (s : State) : ByChan Bool := s.bcu.map fun r => r.position == .locked

/-- A section was adopted HALTED or a channel found LOCKED (R100). -/
def State.troubled (s : State) : Bool :=
  allSecs.any (fun n => (s.ctx n).state == .halted) || allChans.any fun c => s.lockedSet.get c

/-- The POWER_UP notice (R178). -/
def State.powerUpNote (s : State) : Note :=
  .powerUp s.hlc.link s.pst.active (s.ctx .sec1).state (s.ctx .sec1).feed (s.ctx .sec2).state (s.ctx .sec2).feed
    s.lockedSet s.blocked

/-- Modes and settle timers at adoption (R177). -/
def adoptModes (s : State) : State :=
  { s with mdc := { s.mdc with
      modes := ⟨s.startMode .sec1, s.startMode .sec2⟩, settle := ⟨s.settleStart .sec1, s.settleStart .sec2⟩ } }

/-- Adoption at the end of the first link start (R176 to R178). POWER_UP is the first notice of the blocks that act from
adoption on, so the overload supervision of the adopted islands follows it (log entry 22). -/
def adopt (s : State) : State :=
  let t := adoptModes (adoptSection .sec2 (adoptSection .sec1 s))
  let t := runAll (driveAllLines (formIslands (tieFromBoard { t with adopted := true })))
  superviseAll (post t.powerUpNote (if t.troubled then triggerAlarm t else t))

end Sys2Proof.Machine
end

