-- ==== Sys2Proof/Machine/HeadLink.lean ====
section
/-! DEFINITION. The head link controller HLC (chapter 2): frames, the point records, head commands, output words, the
link start, discovery and binding. -/

namespace Sys2Proof

/-! ### Inbound slots (R26, R195) -/

/-- READY of a line's TAG. -/
def InLine.ready (l : InLine) : Bool := l.tag.getLsbD 23

/-- SLOT_VALID of slot k, 1 to 8: bit 23 − k of the TAG (R195). -/
def InLine.slotValid (l : InLine) (k : Nat) : Bool := l.tag.getLsbD (23 - k)

/-- The head's own address in a line's TAG. -/
def InLine.addr (l : InLine) : Nat := (l.tag.extractLsb' 12 3).toNat

/-- SEQUENCE_ACB of a line's TAG. -/
def InLine.acb (l : InLine) : Bool := l.tag.getLsbD 11

/-- A field of the low bits of a slot. -/
def slotField (s : Slot) (width : Nat) : Nat := (s.extractLsb' 0 width).toNat

/-- A frame on a line is good for an address (R26). -/
def InLine.good (l : InLine) (a : Six) : Bool := l.ready && l.addr == Machine.sixNo a

/-- The echo of a line: index and data, where both slots are marked valid (R26). -/
def InLine.echo (l : InLine) : Option (Nat × Half) :=
  if l.slotValid 1 && l.slotValid 2 then some (slotField l.s1 5, l.s2.extractLsb' 0 16) else none

/-- The accepted summary of a good frame (R27). -/
def InLine.summary (l : InLine) (n : Word) : Option Machine.Summary :=
  let freq := slotField l.s6 17
  let angle := slotField l.s7 12
  if (l.slotValid 3 && l.slotValid 4 && l.slotValid 5 && l.slotValid 6 && l.slotValid 7) &&
      (freq == 0 || (decide (40000 ≤ freq) && decide (freq ≤ 70000))) && decide (angle ≤ 3599) then
    some ⟨slotField l.s3 16, slotField l.s4 16, slotField l.s5 16, freq, angle, l.acb, n⟩
  else none

end Sys2Proof

namespace Sys2Proof.Machine

/-- Changes HLC's state. -/
def modHlc (f : HlcState → HlcState) (s : State) : State := { s with hlc := f s.hlc }

/-! ### The outbound frame (R25, R33, R34, R36, R195) -/

/-- The command the frame in progress carries. -/
def HlcState.carried (h : HlcState) : Option HeadCmd :=
  match h.slot with
  | some c => if c.sentIn = some h.frameNo then some c else none
  | none => none

/-- A bit of an outbound TAG. -/
def tagBit (b : Bool) (k : Nat) : Slot := if b then 1 <<< k else 0

/-- The slots of the frame in progress (R25, R195). In a frame without a command WRITE and CMD_ADDR are sent as 0: R25
gives the command slots a value there, but not these fields of the TAG (DESIGN CHOICE, log entry 55). -/
def HlcState.slots (h : HlcState) : OutFrame :=
  let w := h.words.get h.outTurn
  let out : Slot := tagBit true 23 ||| tagBit w.written 20 ||| (BitVec.ofNat 24 (sixNo h.outTurn) <<< 14)
  let data : Slot := if w.written then w.word.zeroExtend 24 else 0
  match h.carried with
  | none => ⟨out, 0, 0, data⟩
  | some c =>
    ⟨out ||| tagBit true 22 ||| tagBit c.write 21 ||| (BitVec.ofNat 24 (sixNo c.place.addr) <<< 17),
     c.index.zeroExtend 24, if c.write then c.data.zeroExtend 24 else 0, data⟩

/-- A frame begins: it carries the command that waits for it, and its slots are as R25 says. They are fixed here: a word
that HEAD_WRITE of index 30 stores while its own address has its turn shows at that address's next turn (R36 leaves it
open; DESIGN CHOICE, log entry 46). -/
def beginFrame (n : Word) (turn : Six) (s : State) : State :=
  modHlc (fun h =>
    let h : HlcState := { h with
      frameNo := n, outTurn := turn
      slot := h.slot.map fun c => if c.sentIn.isNone then { c with sentIn := some n } else c }
    { h with outFrame := h.slots }) s

/-! ### Points: loss, return, summaries, staleness (R27 to R31) -/

/-- A point has stopped being valid, if it was, at the frame nd (R31). -/
def reportInvalid (was : Bool) (p : Point) (nd : Word) (s : State) : State :=
  if was ∧ !s.pointValid p then report (.pointInvalid p nd) s else s

/-- A bound head's loss count reaches 32 (R30): LOST, with its notice, and the point is reported invalid. -/
def headLost (p : Point) (s : State) : State :=
  let r := s.hlc.points.get p
  match r.bound with
  | some h =>
    if r.status = .present then
      reportInvalid r.valid p s.lastFrame
        (post (.headLost p h) (modPoint p (fun r => { r with status := .lost, loss := 32 }) s))
    else s
  | none => s

/-- A point's record becomes stale (R29). -/
def recordStale (p : Point) (s : State) : State :=
  let r := s.hlc.points.get p
  if r.fresh then reportInvalid r.valid p s.lastFrame (modPoint p (fun r => { r with fresh := false }) s) else s

/-- The end of a frame that is not good on a bound point's line (R30). -/
def badFrame (p : Point) (s : State) : State :=
  let r := s.hlc.points.get p
  if r.status = .present ∧ 31 ≤ r.loss then headLost p s
  else modPoint p (fun r => { r with loss := min 32 (r.loss + 1) }) s

/-- The end of a good frame, summary aside (R28, R30): the loss count, HEAD_BACK, and the input word. A LOST head that
returns while its record is still fresh makes its point valid at once, by the definition of R31, though R31 also has
validity begin at an accepted summary (DESIGN CHOICE, log entry 47). -/
def goodFrame (p : Point) (h : HeadPlace) (l : InLine) (s : State) : State :=
  let r := s.hlc.points.get p
  let t := modPoint p (fun r => { r with
    status := .present, loss := 0, input := if l.slotValid 8 then l.s8.extractLsb' 0 16 else r.input }) s
  if r.status = .lost then post (.headBack p h) t else t

/-- A summary arrives (R27, R65): the record holds it, SQU judges it, and CCU computes after. -/
def arrive (p : Point) (m : Summary) (s : State) : State :=
  report (.ccuPoint p m.arrival) (judge p m (modPoint p (fun r => { r with last := some m, fresh := true }) s))

/-- A record is 240 frames old at the end of a frame (R29). -/
def PointRec.aged (r : PointRec) (n : Word) : Bool :=
  r.fresh && match r.last with
    | some m => decide (240 ≤ frameAge n m.arrival)
    | none => false

/-- One bound point at the end of frame n; its reports are taken before another point's (R27, R54). -/
def pointFrame (lines : BySix InLine) (n : Word) (p : Point) (s : State) : State :=
  match (s.hlc.points.get p).bound with
  | none => s
  | some h =>
    let l := lines.get h.line
    let t :=
      if l.good h.addr then
        let t := goodFrame p h l s
        match l.summary n with
        | some m => arrive p m t
        | none => t
      else badFrame p s
    let t := settle t
    if (t.hlc.points.get p).aged n then settle (recordStale p t) else t

/-- A point at which this frame end brings more than a count: an arrival, a loss, a return or a stale record. -/
def State.eventful (s : State) (lines : BySix InLine) (n : Word) (p : Point) : Bool :=
  let r := s.hlc.points.get p
  match r.bound with
  | none => false
  | some h =>
    let l := lines.get h.line
    r.aged n || (if l.good h.addr then (l.summary n).isSome || r.status == .lost
      else r.status == .present && decide (31 ≤ r.loss))

/-- Puts a ranked item in its place in a list sorted by rank. -/
def insertRanked {α : Type} (x : Nat × α) : List (Nat × α) → List (Nat × α)
  | [] => [x]
  | y :: l => if x.1 ≤ y.1 then x :: y :: l else y :: insertRanked x l

/-- Items sorted by rank. -/
def sortRanked {α : Type} (l : List (Nat × α)) : List α := (l.foldr insertRanked []).map (·.2)

/-- The order in which things that fall together are taken: any (free value), where there are two or more. -/
def raceOrder {α : Type} (k : Nat) : List α → List α
  | [] => []
  | [x] => [x]
  | l => sortRanked (l.zipIdx.map fun (x, i) => (Config.race k i, x))

/-- Every bound point at the end of frame n: points with nothing but a count first, the others in any order. -/
def allPointFrames (lines : BySix InLine) (n : Word) (s : State) : State :=
  let busy := allPoints.filter (s.eventful lines n)
  let t := (allPoints.filter fun p => !busy.contains p).foldl (fun t p => pointFrame lines n p t) s
  let u := if 2 ≤ busy.length then useFree t else t
  (raceOrder t.freeCount busy).foldl (fun t p => pointFrame lines n p t) u

/-! ### Head commands (R32 to R35) -/

/-- Frees the command slot. -/
def freeSlot (s : State) : State := modHlc (fun h => { h with slot := none }) s

/-- Puts a command in the slot, to go out in the next frame. -/
def takeSlot (c : HeadCmd) (s : State) : State := modHlc (fun h => { h with slot := some c }) s

/-- An outstanding read of a request completes with the head's data (R33). -/
def readComplete (data : Half) (s : State) : State :=
  match s.hlc.slot with
  | some c =>
    if !c.write ∧ c.point.isSome ∧ c.sentIn.isSome then
      formReply 0x60 ⟨.ok, .headData c.index.toNat data⟩ (freeSlot s)
    else s
  | none => s

/-- An outstanding read of a request ends without an echo (R33). -/
def readTimeout (s : State) : State :=
  match s.hlc.slot with
  | some c =>
    if !c.write ∧ c.point.isSome ∧ c.sentIn.isSome then formReply 0x60 ⟨.headTimeout, .empty⟩ (freeSlot s) else s
  | none => s

/-- The frame that carries a write ends (R34). -/
def writePosted (s : State) : State :=
  match s.hlc.slot with
  | some c => if c.write ∧ c.sentIn.isSome then formReply 0x61 ⟨.ok, .empty⟩ (freeSlot s) else s
  | none => s

/-- The head command at the end of frame n (R33, R34). -/
def commandFrame (lines : BySix InLine) (n : Word) (s : State) : State :=
  match s.hlc.slot with
  | none => s
  | some c =>
    match c.sentIn with
    | none => s
    | some sent =>
      let k := frameAge n sent
      if c.write then writePosted s
      else if c.point.isNone ∨ k = 0 then s
      else
        let l := lines.get c.place.line
        match if l.good c.place.addr then l.echo else none with
        | some (i, d) =>
          if i = c.index.toNat then readComplete d s else if 64 ≤ k then readTimeout s else s
        | none => if 64 ≤ k then readTimeout s else s

/-! ### The link start (R37) -/

/-- A point is unbound and its record reset; it is reported invalid if it was valid (R31, R37, R41). -/
def unbind (nd : Word) (p : Point) (s : State) : State :=
  reportInvalid (s.pointValid p) p nd (modPoint p (fun _ => PointRec.unbound) s)

/-- A link start begins (R37). The points that become invalid at it are reported in ascending point code, an order no rule
gives (DESIGN CHOICE, log entry 35). -/
def linkStart (s : State) : State :=
  let t := modHlc (fun h => { h with
    link := .starting, slot := none, words := .all ⟨0, false⟩, heads := .all .unread, discovery := .idle,
    running := false, frameNo := 0, lastEnded := none, outTurn := .n0, outFrame := ⟨0, 0, 0, 0⟩,
    rstLow := true, rstEnd := some (s.now + 1) }) s
  allPoints.foldl (fun t p => unbind 0 p t) t

/-- HL_RSTn is released: frame 0 begins, and the first phase of discovery (R37, R38). -/
def resetReleased (s : State) : State :=
  match s.hlc.rstEnd with
  | none => s
  | some d =>
    beginFrame 0 .n0 (modHlc (fun h => { h with
      rstLow := false, rstEnd := none, running := true, discovery := .ready (.all false) }) (reach d s))

/-! ### Discovery (R38, R39) -/

/-- The read of index 0 from an address goes out in the next frame (R38). -/
def discoverRead (a : Six) (s : State) : State :=
  takeSlot ⟨false, none, ⟨a, .n0⟩, 0, 0, none⟩ (modHlc (fun h => { h with discovery := .reading a }) s)

/-- The address after one, none after the last. -/
def nextAddress : Six → Option Six
  | .n0 => some .n1 | .n1 => some .n2 | .n2 => some .n3 | .n3 => some .n4 | .n4 => some .n5 | .n5 => none

/-- The point of a head identity (R195): kind in bits 15..8, SOURCE 1 or BUS 2, and number in bits 7..0. -/
def pointOf (identity : Half) : Option Point :=
  match (identity.extractLsb' 8 8).toNat, (identity.extractLsb' 0 8).toNat with
  | 1, 1 => some (.src .src1)
  | 1, 2 => some (.src .src2)
  | 1, 3 => some (.src .src3)
  | 1, 4 => some (.src .src4)
  | 2, 1 => some (.bus .sec1)
  | 2, 2 => some (.bus .sec2)
  | _, _ => none

/-- The answers of an address. -/
def HeadEntry.answers : HeadEntry → List HeadAnswer
  | .answered l => l
  | _ => []

/-- The lines that answered for an address. -/
def HlcState.linesOf (h : HlcState) (a : Six) : List Six := (h.heads.get a).answers.map (·.line)

/-- The answer the discovered map takes for an address (R39): the lowest line that no lower address answered on. -/
def HlcState.chosen (h : HlcState) (a : Six) : Option HeadAnswer :=
  let lower := (allSix.filter fun b => decide (sixNo b < sixNo a)).flatMap h.linesOf
  let free := (h.heads.get a).answers.filter fun x => !lower.contains x.line
  allSix.findSome? fun l => free.find? fun x => x.line == l

/-- The discovered map's entry of a point (R39): the lowest address whose head identified itself as the point. An address
that lost its only line to a lower one has no place in the map, so a duplicate point goes to the higher address; of an address
answered on several lines with different identities only the chosen line's counts here (DESIGN CHOICE, log entry 21). -/
def HlcState.discovered (h : HlcState) (p : Point) : Option HeadPlace :=
  allSix.findSome? fun a =>
    match h.chosen a with
    | some x => if pointOf x.identity = some p then some ⟨a, x.line⟩ else none
    | none => none

/-- One value for each point. -/
def tabulate {α : Type} (f : Point → α) : ByPoint α :=
  ⟨⟨f (.src .src1), f (.src .src2), f (.src .src3), f (.src .src4)⟩, ⟨f (.bus .sec1), f (.bus .sec2)⟩⟩

/-- The discovered map (R39). -/
def HlcState.discoveredMap (h : HlcState) : LinkMap := tabulate h.discovered

/-- The pairs of addresses, the lower first. -/
def addressPairs : List (Six × Six) :=
  allSix.flatMap fun a => (allSix.filter fun b => decide (sixNo a < sixNo b)).map fun b => (a, b)

/-- A DUPLICATE_POINT conflict (R39): two addresses gave the identity of the same point. Every answer of an address counts, also
one on a line the map does not take for it (DESIGN CHOICE, log entry 21). -/
def HlcState.duplicate (h : HlcState) : Bool :=
  addressPairs.any fun (a, b) => (h.heads.get a).answers.any fun x => (h.heads.get b).answers.any fun y =>
    (pointOf x.identity).isSome && pointOf x.identity == pointOf y.identity

/-- A line conflict (R39): an address answered on several lines, or a line answering for several addresses. -/
def HlcState.lineConflict (h : HlcState) : Bool :=
  allSix.any (fun a => decide (2 ≤ (h.linesOf a).length)) ||
  addressPairs.any fun (a, b) => (h.linesOf a).any fun l => (h.linesOf b).contains l

/-- An answer gave an unrecognised identity (R39). -/
def HlcState.unrecognised (h : HlcState) : Bool :=
  allSix.any fun a => (h.heads.get a).answers.any fun x => (pointOf x.identity).isNone

/-- The points whose discovered entry differs from the link map record (R40). -/
def State.differing (s : State) : ByPoint Bool := tabulate fun p => s.hlc.discovered p != s.pst.linkMap.get p

/-! ### Binding (R40 to R42) -/

/-- A point takes a head, with its record as under R28. -/
def bindPoint (p : Point) (h : HeadPlace) (s : State) : State :=
  modPoint p (fun _ => { PointRec.unbound with bound := some h, status := .present }) s

/-- Every point with a head in the discovered map is bound to it. -/
def bindAll (s : State) : State :=
  allPoints.foldl (fun t p => match s.hlc.discovered p with | some h => bindPoint p h t | none => t) s

/-- The link start agrees with the record (R40): equal maps, no conflict, no unrecognised identity. -/
def State.mapAgrees (s : State) : Bool :=
  allPoints.all (fun p => !s.differing.get p) && !s.hlc.duplicate && !s.hlc.lineConflict && !s.hlc.unrecognised

/-- Binding is decided (R40): the link state and the bindings, or MAP_MISMATCH. -/
def decideBinding (s : State) : State :=
  let t := modHlc (fun h => { h with discovery := .idle, slot := none }) s
  if s.mapAgrees then modHlc (fun h => { h with link := .bound }) (bindAll t)
  else
    post (.mapMismatch s.differing s.hlc.duplicate s.hlc.lineConflict s.hlc.unrecognised)
      (modHlc (fun h => { h with link := .unbound }) t)

/-- The answer of LINK_RESTART (R42). -/
def State.restartAnswer (s : State) : Reply :=
  ⟨.ok, .restart s.hlc.link s.hlc.duplicate s.hlc.lineConflict s.hlc.unrecognised s.differing⟩

/-- A link start ends (R40, R42, R176): binding, the reply of LINK_RESTART, and at power-up the adoption. -/
def linkStartEnd (s : State) : State :=
  let t := decideBinding s
  let t := formReply 0x62 t.restartAnswer t
  if t.adopted then t else adopt t

/-- The read of an address has ended: the next one begins, or discovery is complete (R38). -/
def readEnded (a : Six) (e : HeadEntry) (s : State) : State :=
  let t := modHlc (fun h => { h with heads := h.heads.set a e, slot := none }) s
  match nextAddress a with
  | some b => discoverRead b t
  | none => linkStartEnd t

/-- The first phase of discovery ends (R38). -/
def readyEnd (s : State) : State :=
  match s.hlc.discovery with
  | .ready _ => discoverRead .n0 s
  | _ => s

/-- A discovery read gets no answer: its address is silent (R38). -/
def readSilent (s : State) : State :=
  match s.hlc.discovery with
  | .reading a => readEnded a .silent s
  | _ => s

/-- The lines that answer the read of an address in a frame (R38). -/
def answersOf (lines : BySix InLine) (a : Six) : List HeadAnswer :=
  allSix.filterMap fun i =>
    let l := lines.get i
    if l.good a then
      match l.echo with
      | some (0, d) => some ⟨i, d⟩
      | _ => none
    else none

/-- The lines that have shown READY by the end of a frame. -/
def noteReady (lines : BySix InLine) (seen : BySix Bool) : BySix Bool :=
  allSix.foldl (fun t i => if (lines.get i).ready then t.set i true else t) seen

/-- Discovery at the end of frame n (R38). -/
def discoveryFrame (lines : BySix InLine) (n : Word) (s : State) : State :=
  match s.hlc.discovery with
  | .idle => s
  | .ready seen =>
    let seen' := noteReady lines seen
    let t := modHlc (fun h => { h with discovery := .ready seen' }) s
    if allSix.all (fun i => seen'.get i) || decide (799 ≤ n.toNat) then readyEnd t else t
  | .reading a =>
    match s.hlc.slot.bind (·.sentIn) with
    | none => s
    | some sent =>
      let k := frameAge n sent
      if k = 0 then s
      else
        match answersOf lines a with
        | [] => if 64 ≤ k then readSilent s else s
        | l => readEnded a (.answered l) s

/-! ### The end of a frame -/

/-- The end of the head link frame in progress (R26, R33, R34, R38), after which the next frame begins (R24, R36). -/
def frameEnd (lines : BySix InLine) (s : State) : State :=
  if s.hlc.running then
    let n := s.hlc.frameNo
    let t := modHlc (fun h => { h with lastEnded := some n }) s
    let t := settle (discoveryFrame lines n (commandFrame lines n (allPointFrames lines n t)))
    beginFrame (n + 1) (sixNext t.hlc.outTurn) t
  else s

/-! ### HEADS_BIND (R41) -/

/-- One point under HEADS_BIND. -/
def rebind (p : Point) (s : State) : State :=
  let new := s.hlc.discovered p
  if (s.hlc.points.get p).bound = new then s
  else
    let t := unbind s.lastFrame p s
    match new with
    | some h => bindPoint p h t
    | none => t

/-- An accepted HEADS_BIND (R41): the discovered map becomes the binding and the record, and a link map write is queued. The
points are rebound, and those that become invalid reported, in ascending point code, an order no rule gives (DESIGN CHOICE, log
entry 35). -/
def bindDiscovered (s : State) : State :=
  let m := s.hlc.discoveredMap
  let t := modHlc (fun h => { h with link := .bound }) (allPoints.foldl (fun t p => rebind p t) s)
  queueWrite (.linkMap m) (modPst (fun q => { q with linkMap := m }) t)

end Sys2Proof.Machine
end

