-- ==== Sys2Proof/Machine/Operands.lean ====
section
/-! DEFINITION. The operand forms of requests: what each code of a payload field names (R1, R2, R3, R193), none for a code
outside its list. -/

namespace Sys2Proof.Machine

/-- A section number, 1 or 2. -/
def secOf (b : Byte) : Option Sec :=
  match b.toNat with
  | 1 => some .sec1
  | 2 => some .sec2
  | _ => none

/-- A source number, 1 to 4. -/
def srcOf (b : Byte) : Option Src :=
  match b.toNat with
  | 1 => some .src1
  | 2 => some .src2
  | 3 => some .src3
  | 4 => some .src4
  | _ => none

/-- A point code, 1 to 6 (R1). -/
def pointOfCode (b : Byte) : Option Point :=
  match b.toNat with
  | 1 => some (.src .src1)
  | 2 => some (.src .src2)
  | 3 => some (.src .src3)
  | 4 => some (.src .src4)
  | 5 => some (.bus .sec1)
  | 6 => some (.bus .sec2)
  | _ => none

/-- A channel code, 1 to 5 (R2). -/
def chanOfCode (b : Byte) : Option Chan :=
  match b.toNat with
  | 1 => some .bk1
  | 2 => some .bk2
  | 3 => some .bk3
  | 4 => some .bk4
  | 5 => some .bkt
  | _ => none

/-- A page number, 0 to 3 (R10). -/
def pageOf (b : Byte) : Option PageNo :=
  match b.toNat with
  | 0 => some .p0
  | 1 => some .p1
  | 2 => some .p2
  | 3 => some .p3
  | _ => none

/-- A feeder number, 1 to 24 (R8). -/
def feederOf (b : Byte) : Option Feeder :=
  if h : 1 ≤ b.toNat ∧ b.toNat ≤ 24 then some ⟨b.toNat - 1, by omega⟩ else none

/-- A value of 0 or 1. -/
def bitOf (b : Byte) : Option Bool :=
  match b.toNat with
  | 0 => some false
  | 1 => some true
  | _ => none

/-- An item set code (R193). -/
def itemSetOf (b : Byte) : Option ItemSet :=
  match b.toNat with
  | 0 => some .openItems
  | 1 => some .closedItems
  | _ => none

/-- The pair two point codes name, one of the six of R62. -/
def pairOf (incoming bus : Byte) : Option Pair :=
  match pointOfCode incoming, pointOfCode bus with
  | some (.src x), some (.bus n) => if srcSec x = n then some (.incomer x) else none
  | some (.bus m), some (.bus n) => if m = n then none else some (.tieTo n)
  | _, _ => none

/-- An annunciator line number, 1 to 4, as its bit in the latches (R94). -/
def lineOf (b : Byte) : Option (Fin 4) :=
  if h : 1 ≤ b.toNat ∧ b.toNat ≤ 4 then some ⟨b.toNat - 1, by omega⟩ else none

end Sys2Proof.Machine
end

