-- ==== Sys2Proof/Machine/Requests.lean ====
section
/-! DEFINITION. The supervisory port SPT (chapter 10): the kinds and payloads of requests, the service of each request by
its owner, request service, and the receiver. -/

namespace Sys2Proof.Machine

/-- What the service of a request gives: a reply at once, a reply formed from the state after the event's reports, or a
wait for the end of the operation begun (R181). -/
inductive Served
  | done (s : State) (r : Reply)
  | after (s : State) (f : State → Reply)
  | waits (s : State)

/-- A refusal with its STATUS byte alone (R183). -/
def refuse (st : Status) (s : State) : Served := .done s ⟨st, .empty⟩

/-- An OK reply at once. -/
def answerNow (b : Body) (s : State) : Served := .done s ⟨.ok, b⟩

/-- An OK reply with no answer, formed after the event. -/
def answerOk (s : State) : Served := .after s fun _ => ⟨.ok, .empty⟩

/-- An argument test: BAD_ARGUMENT where the operand names nothing. -/
def withArg {α : Type} (o : Option α) (s : State) (f : α → Served) : Served :=
  match o with
  | some a => f a
  | none => refuse .badArgument s

/-- The refusal BUSY until the power-up sequence has ended (R185). -/
def afterStart (s : State) (v : Served) : Served := if s.started then v else refuse .busy s

/-! ### Reading the part (R61, R93, R162, R186 to R189, R191) -/

/-- The answer of STATUS_GET (R187). -/
def State.statusAns (s : State) : StatusAns :=
  { ended := s.started, modes := s.mdc.modes, states := ⟨(s.ctx .sec1).state, (s.ctx .sec2).state⟩, owner := s.owner,
    blocked := s.blocked, hostBlock := s.mdc.hostBlock, blk := s.mdc.blk.accepted, active := s.pst.active,
    waiting := s.pst.pendingPage, edit := s.pst.edit, stored := s.pst.storedActive,
    pages := ⟨(s.pst.pages.p0.status, s.pst.pages.p0.saved), (s.pst.pages.p1.status, s.pst.pages.p1.saved),
              (s.pst.pages.p2.status, s.pst.pages.p2.saved), (s.pst.pages.p3.status, s.pst.pages.p3.saved)⟩,
    link := s.hlc.link, alarm := s.mdc.alarm.isSome, lines := s.anLevels, latches := s.mdc.latches,
    notices := s.spt.queue.length, overflow := s.spt.overflow }

/-- The answer of POINT_GET (R61, R189). -/
def State.pointAns (s : State) (p : Point) : PointAns :=
  { record := s.hlc.points.get p, valid := s.pointValid p, discovered := s.hlc.discovered p, link := s.hlc.link,
    qual := match p with
      | .src x => some (s.squ.srcs.get x, s.left ((s.squ.srcs.get x).timer.map (·.2)))
      | .bus _ => none
    bus := match p with
      | .src _ => none
      | .bus b => some (s.squ.buses.get b) }

/-- The answer of BREAKER_GET (R93). -/
def State.breakerAns (s : State) (c : Chan) : BreakerAns :=
  let r := s.bcu.get c
  { record := r, closeLeft := s.left r.closeEnd, tripLeft := s.left r.tripEnd,
    confirmLeft := s.left (r.op.map (·.deadline)), available := r.available }

/-- An own entry's source with its state and cause. -/
def State.ownAns (s : State) (x : Option Src) : SrcState × Cause :=
  match x with
  | some x => ((s.squ.srcs.get x).state, (s.squ.srcs.get x).cause)
  | none => (.absent, .none)

/-- The answer of SECTION_GET (R188). -/
def State.sectionAns (s : State) (n : Sec) : SectionAns :=
  let c := s.ctx n
  { sec := n, ctx := c, mode := s.mode n, tReturnLeft := s.left c.tReturn, tSyncLeft := s.left c.tSyncWait,
    tDecayLeft := s.left c.tDecayMax, tDeadLeft := s.left c.tDead, tOverlapLeft := s.left c.tOverlap,
    settleLeft := s.left (s.mdc.settle.get n), held := s.heldBy n, ownA := s.ownAns (ownSource n .ownA),
    ownB := s.ownAns (ownSource n .ownB), bus := (s.squ.buses.get n).state, owner := s.owner }

/-- A feeder's place on its stack from the bottom, 1 to 12, or 0 (R162). -/
def State.stackPlace (s : State) (f : Feeder) : Nat :=
  match (s.lmg.shedStack.get (feederSec f)).findIdx? (· == f) with
  | some k => k + 1
  | none => 0

/-- The answer of FEEDER_GET for one feeder (R162). -/
def State.feederAns (s : State) (f : Feeder) : FeederAns :=
  { feeder := f, fitted := s.plan.fitted f, sec := feederSec f, cls := s.cls f, demand := (s.feeder f).demand,
    surge := s.plan.feeder f .surge, shed := (s.feeder f).shed, line := s.shedLine f, place := s.stackPlace f }

/-- One island of the load manager's summary (R162). -/
def State.islandAns (s : State) (i : IslandId) : Option IslandAns :=
  (s.island i).map fun r =>
    { members := i, cond := r.cond, source := r.source, sum := s.sumOf (islandSecs i),
      budget := r.source.map s.plan.budget, restoreLeft := s.left r.restoreAt, overloadLeft := s.left r.overloadAt,
      reported := r.reported, stretch := r.stretch }

/-- The load manager's summary (R162). -/
def State.summaryAns (s : State) : SummaryAns :=
  { shedStack := s.lmg.shedStack, class1 := s.classOne, anns := s.lmg.anns,
    islands := s.islandIds.filterMap s.islandAns }

/-- NOTICE_GET (R191): the oldest notice is removed, and the flag is cleared where the queue empties. -/
def serveNotice (s : State) : Served :=
  match s.spt.queue with
  | [] => answerNow (.notice none 0 s.spt.overflow) s
  | n :: rest =>
    answerNow (.notice (some n) rest.length s.spt.overflow)
      { s with spt := { s.spt with queue := rest, overflow := s.spt.overflow && !rest.isEmpty } }

/-! ### Coincidence and breakers (R72, R73, R91, R166, R167) -/

/-- PAIR_GET (R72). -/
def servePair (incoming bus mode items : Byte) (s : State) : Served :=
  withArg (pairOf incoming bus) s fun p =>
  withArg (bitOf mode) s fun new =>
  withArg (itemSetOf items) s fun set =>
    let ans := fun r => Body.pair r (s.watches .sec1 p) (s.watches .sec2 p)
    if new then
      let r := s.coincidence p set p.busSec s.lastFrame
      answerNow (ans (some r)) (keep p r s)
    else answerNow (ans (s.kept p)) s

/-- The pair on which a manual close is judged (R62, R142). -/
def manualPair (c : Chan) : Pair :=
  match chanSrc c with
  | some x => .incomer x
  | none => .tieTo .sec1

/-- A manual close would give an island a second source path (R167). -/
def State.secondPath (s : State) (c : Chan) : Bool :=
  match chanSrc c with
  | some x => !(s.paths (srcSec x)).isEmpty
  | none => !(s.closedPaths [.sec1]).isEmpty && !(s.closedPaths [.sec2]).isEmpty

/-- The reply to a manual operation: OK with the channel's position after the event, or BCU's refusal (R166). -/
def operated (c : Chan) (r : State × Option Status) : Served :=
  match r with
  | (t, some e) => refuse e t
  | (t, none) => .after t fun u => ⟨.ok, .position (u.bcu.get c).position⟩

/-- A manual close (R166, R167): the second-path test, then the close trigger. -/
def manualClose (c : Chan) (s : State) : Served :=
  if s.secondPath c then
    let p := manualPair c
    let r := s.coincidence p .closedItems p.busSec s.lastFrame
    let t := keep p r s
    if r.permit then operated c (closeTrigger c .mdc t) else .done t ⟨.interlock, .coincidence r⟩
  else operated c (closeTrigger c .mdc s)

/-- The actions of BREAKER_OPERATE (R193). -/
inductive Action | close | trip | stop
  deriving DecidableEq, Repr

/-- An action code (R193). -/
def actionOf (b : Byte) : Option Action :=
  match b.toNat with
  | 1 => some .close
  | 2 => some .trip
  | 3 => some .stop
  | _ => none

/-- Every section a channel belongs to is in MANUAL (R166). -/
def State.manualChan (s : State) (c : Chan) : Bool := allSecs.all fun n => !chanOf c n || s.mode n == .manual

/-- BREAKER_OPERATE (R166). -/
def serveOperate (chan action : Byte) (s : State) : Served :=
  withArg (chanOfCode chan) s fun c =>
  withArg (actionOf action) s fun a =>
    afterStart s <|
      if !s.manualChan c then refuse .wrongMode s
      else
        match a with
        | .close => manualClose c s
        | .trip => operated c (tripTrigger c .mdc s)
        | .stop => operated c (stopPulse c s, none)

/-- CHANNEL_CLEAR (R91). -/
def serveClear (chan : Byte) (s : State) : Served :=
  withArg (chanOfCode chan) s fun c =>
    let r := s.bcu.get c
    let ans := fun (t : State) => (⟨.ok, .position (t.bcu.get c).position⟩ : Reply)
    match r.position with
    | .locked => if r.prot.accepted then refuse .interlock s else .after (clearChan c s) ans
    | .faulted => .after (clearChan c s) ans
    | .isOpen | .isClosed | .closing | .opening => .done s (ans s)

/-! ### Sections (R109, R125, R163, R164, R168) -/

/-- Sets a section's mode (R163). -/
def setMode (n : Sec) (m : Mode) (s : State) : State :=
  { s with mdc := { s.mdc with modes := s.mdc.modes.set n m } }

/-- A section goes to MANUAL (R163); where it served a closed-tie island, the other section's hold ends (R137). -/
def goManual (n : Sec) (s : State) : State :=
  let t := toManual n (setMode n .manual s)
  if s.serving = some n then report (.holdEnded n.other) t else t

/-- A section's state allows a change to MANUAL (R163). -/
def SeqState.mayGoManual : SeqState → Bool
  | .opening | .closing | .overlap => false
  | .fed | .returnWait | .sync | .waitSource | .decay | .halted => true

/-- A mode code (R193). -/
def modeOf (b : Byte) : Option Mode :=
  match b.toNat with
  | 0 => some .manual
  | 1 => some .auto
  | _ => none

/-- MODE_SET (R163, R164). -/
def serveMode (sec mode : Byte) (s : State) : Served :=
  withArg (secOf sec) s fun n =>
  withArg (modeOf mode) s fun m =>
    afterStart s <|
      let ans := fun (t : State) => (⟨.ok, .mode (t.mode n) (t.ctx n).state⟩ : Reply)
      if s.mode n = m then .done s (ans s)
      else
        match m with
        | .manual => if (s.ctx n).state.mayGoManual then .after (goManual n s) ans else refuse .busy s
        | .auto => if s.pst.active.isNone then refuse .noPlan s else .after (toAuto n (setMode n .auto s)) ans

/-- BLOCK_SET (R168). -/
def serveBlock (value : Byte) (s : State) : Served :=
  withArg (bitOf value) s fun b =>
    .after (changeBlock (fun m => { m with hostBlock := b }) s)
      fun t => ⟨.ok, .block t.mdc.hostBlock t.mdc.blk.accepted t.blocked⟩

/-- TRANSFER_REQUEST (R109, R129, R135). -/
def serveTransfer (sec entry : Byte) (s : State) : Served :=
  withArg (secOf sec) s fun n =>
  withArg (entryOfCode entry.toNat) s fun e =>
    afterStart s <|
      match s.transferRefusal n e with
      | some (st, some r) => .done s ⟨st, .claimTest r⟩
      | some (st, none) => refuse st s
      | none => answerOk (startRequested n e s)

/-- RESUME (R125). -/
def serveResume (sec : Byte) (s : State) : Served :=
  withArg (secOf sec) s fun n =>
    afterStart s <|
      if (s.ctx n).state ≠ .halted then answerNow .empty s
      else if s.haltStands n then refuse .interlock s
      else answerOk (resumeSection n s)

/-! ### Feeders (R145, R162) -/

/-- FEEDER_GET (R162). -/
def serveFeeder (feeder : Byte) (s : State) : Served :=
  if feeder = 0 then answerNow (.summary s.summaryAns) s
  else withArg (feederOf feeder) s fun f => answerNow (.feeder (s.feederAns f)) s

/-- FEEDER_DEMAND_SET (R145). -/
def serveDemand (feeder : Byte) (demand : Half) (s : State) : Served :=
  withArg (feederOf feeder) s fun f =>
    .after (setDemand f demand.toNat s) fun t => ⟨.ok, .demand (t.feeder f).demand⟩

/-! ### Plans (R12 to R20) -/

/-- A page that must not be written (R14, R15). -/
def State.pageInUse (s : State) (p : PageNo) : Bool := s.pst.active == some p || s.pst.pendingPage == some p

/-- PLAN_SELECT (R13). -/
def serveSelect (page : Byte) (s : State) : Served :=
  withArg (pageOf page) s fun p => answerNow .empty (modPst (fun t => { t with edit := p }) s)

/-- PLAN_READ (R13). -/
def serveRead (group index field : Byte) (s : State) : Served :=
  withArg (itemAt group.toNat index.toNat field.toNat) s fun (i, _) =>
    let q := s.pst.pages.get s.pst.edit
    answerNow (.item (BitVec.ofNat 32 (q.items.val i)) s.pst.edit q.status q.saved) s

/-- PLAN_WRITE (R14). -/
def serveWrite (group index field : Byte) (value : Word) (s : State) : Served :=
  withArg (itemAt group.toNat index.toNat field.toNat) s fun (i, d) =>
    if s.pageInUse s.pst.edit then refuse .pageActive s
    else if !itemInRange group.toNat field.toNat d value.toNat then refuse .badArgument s
    else answerNow .empty (modPage s.pst.edit (fun q => ⟨q.items.put i value, .draft, false⟩) s)

/-- PLAN_COPY (R15). -/
def serveCopy (source dest : Byte) (s : State) : Served :=
  withArg (pageOf source) s fun p =>
  withArg (pageOf dest) s fun q =>
    if p = q then answerNow .empty s
    else if s.pageInUse q then refuse .pageActive s
    else answerNow .empty (modPage q (fun _ => { s.pst.pages.get p with saved := false }) s)

/-- PLAN_CHECK (R16). -/
def serveCheck (page : Byte) (s : State) : Served :=
  withArg (pageOf page) s fun p =>
    if (s.pst.pages.get p).status = .valid then answerNow .empty s
    else
      match planCheck (s.pst.pages.get p).items with
      | none => answerNow .empty (modPage p (fun q => { q with status := .valid, saved := false }) s)
      | some e => .done s ⟨.checkFailed, .check e.code e.group e.index e.field⟩

/-- PLAN_ACTIVATE (R17). -/
def serveActivate (page : Byte) (s : State) : Served :=
  withArg (pageOf page) s fun p =>
    afterStart s <|
      if (s.pst.pages.get p).status ≠ .valid then refuse .pageNotValid s
      else if s.pst.active = some p then answerNow (.outcome true) (modPst (fun t => { t with pendingPage := none }) s)
      else if s.pst.pendingPage = some p then answerNow (.outcome false) s
      else if s.bothAtRest then .after (takeEffect p s) fun _ => ⟨.ok, .outcome true⟩
      else answerNow (.outcome false) (modPst (fun t => { t with pendingPage := some p }) s)

/-- PLAN_SAVE (R20). -/
def serveSave (page : Byte) (s : State) : Served :=
  withArg (pageOf page) s fun p => .waits (queueWrite (.page p) (modPage p (fun q => { q with saved := false }) s))

/-! ### Heads (R32 to R35, R41, R42) -/

/-- The tests of R32 after the index: a link start in progress, and the point bound. -/
def withHead (p : Point) (s : State) (f : HeadPlace → Served) : Served :=
  if s.hlc.link = .starting then refuse .busy s
  else
    match (s.hlc.points.get p).bound with
    | none => refuse .headsUnbound s
    | some h => f h

/-- A setting index, 0 to 31. -/
def indexOf (b : Byte) : Option (BitVec 5) := if b.toNat ≤ 31 then some (BitVec.ofNat 5 b.toNat) else none

/-- HEAD_READ (R32, R33, R35). -/
def serveHeadRead (point index : Byte) (s : State) : Served :=
  withArg (pointOfCode point) s fun p =>
  withArg (indexOf index) s fun i =>
  withHead p s fun h =>
    if i = 31 then answerNow (.headData 31 (s.hlc.points.get p).input) s
    else .waits (takeSlot ⟨false, some p, h, i, 0, none⟩ s)

/-- A setting index that may be written, 1 to 30 (R32). -/
def writeIndexOf (b : Byte) : Option (BitVec 5) := if b = 0 ∨ b = 31 then none else indexOf b

/-- Sets the output word of a head address (R35, R36). -/
def setWord (a : Six) (v : Half) (s : State) : State := modHlc (fun h => { h with words := h.words.set a ⟨v, true⟩ }) s

/-- HEAD_WRITE (R32, R34, R35). -/
def serveHeadWrite (point index : Byte) (data : Half) (s : State) : Served :=
  withArg (pointOfCode point) s fun p =>
  withArg (writeIndexOf index) s fun i =>
  withHead p s fun h =>
    let t := takeSlot ⟨true, some p, h, i, data, none⟩ s
    .waits (if i = 30 then setWord h.addr data t else t)

/-- LINK_RESTART (R42). -/
def serveRestart (s : State) : Served := if s.hlc.link = .starting then refuse .busy s else .waits (linkStart s)

/-- HEADS_BIND (R41). -/
def serveBind (s : State) : Served :=
  if s.hlc.link = .starting then refuse .busy s
  else if s.hlc.duplicate || s.hlc.lineConflict then refuse .duplicatePoint s
  else .waits (bindDiscovered s)

/-! ### Outputs (R96, R98, R173) -/

/-- A latch set or cleared. -/
def setLatch (l : BitVec 4) (k : Fin 4) (b : Bool) : BitVec 4 :=
  let m : BitVec 4 := 1#4 <<< k.val
  if b then l ||| m else l &&& ~~~m

/-- OUTPUT_SET (R96). -/
def serveOutput (line value : Byte) (s : State) : Served :=
  withArg (lineOf line) s fun k =>
  withArg (bitOf value) s fun b =>
    let t : State := { s with mdc := { s.mdc with latches := setLatch s.mdc.latches k b } }
    answerNow (.output (t.mdc.latches.getLsbD k.val) (t.anLine k)) t

/-- ALARM_SILENCE (R98). -/
def serveSilence (s : State) : Served := answerNow .empty { s with mdc := { s.mdc with alarm := none } }

/-- GEN_TEST (R173). -/
def serveGenTest (source value : Byte) (s : State) : Served :=
  withArg (srcOf source) s fun x =>
  withArg (bitOf value) s fun b =>
    afterStart s <|
      if s.plan.kind x ≠ .generator then refuse .notAvailable s
      else .after (modRun x (fun r => { r with test := b }) s)
        fun t => ⟨.ok, .gen (t.mdc.runs.get x).test (t.mdc.runs.get x).state (t.runLine x)⟩

/-! ### Request service (R181, R182, R185) -/

/-- The service of a request by its owner. -/
def serve (r : Request) (s : State) : Served :=
  match r with
  | .ping => answerNow .identity s
  | .statusGet => answerNow (.status s.statusAns) s
  | .noticeGet => serveNotice s
  | .pointGet p => withArg (pointOfCode p) s fun p => answerNow (.point (s.pointAns p)) s
  | .pairGet i b m k => servePair i b m k s
  | .breakerGet c => withArg (chanOfCode c) s fun c => answerNow (.breaker (s.breakerAns c)) s
  | .breakerOperate c a => serveOperate c a s
  | .channelClear c => serveClear c s
  | .sectionGet n => withArg (secOf n) s fun n => afterStart s (answerNow (.sectionView (s.sectionAns n)) s)
  | .modeSet n m => serveMode n m s
  | .blockSet v => serveBlock v s
  | .transferRequest n e => serveTransfer n e s
  | .resume n => serveResume n s
  | .feederGet f => serveFeeder f s
  | .feederDemandSet f d => serveDemand f d s
  | .planSelect p => serveSelect p s
  | .planRead g i f => serveRead g i f s
  | .planWrite g i f v => serveWrite g i f v s
  | .planCopy p q => serveCopy p q s
  | .planCheck p => serveCheck p s
  | .planActivate p => serveActivate p s
  | .planSave p => serveSave p s
  | .headRead p i => serveHeadRead p i s
  | .headWrite p i d => serveHeadWrite p i d s
  | .linkRestart => serveRestart s
  | .headsBind => serveBind s
  | .outputSet l v => serveOutput l v s
  | .alarmSilence => serveSilence s
  | .genTest x v => serveGenTest x v s

/-- The KIND byte of a request (R182). -/
def Request.kind : Request → Byte
  | .ping => 0x01 | .statusGet => 0x02 | .noticeGet => 0x03 | .pointGet _ => 0x10 | .pairGet .. => 0x11
  | .breakerGet _ => 0x20 | .breakerOperate .. => 0x21 | .channelClear _ => 0x22 | .sectionGet _ => 0x30
  | .modeSet .. => 0x31 | .blockSet _ => 0x32 | .transferRequest .. => 0x33 | .resume _ => 0x34
  | .feederGet _ => 0x40 | .feederDemandSet .. => 0x41 | .planSelect _ => 0x50 | .planRead .. => 0x51
  | .planWrite .. => 0x52 | .planCopy .. => 0x53 | .planCheck _ => 0x54 | .planActivate _ => 0x55
  | .planSave _ => 0x56 | .headRead .. => 0x60 | .headWrite .. => 0x61 | .linkRestart => 0x62
  | .headsBind => 0x63 | .outputSet .. => 0x70 | .alarmSilence => 0x71 | .genTest .. => 0x72

/-- The payload of a request (section 11.2). -/
def Request.payload : Request → List Byte
  | .ping | .statusGet | .noticeGet | .linkRestart | .headsBind | .alarmSilence => []
  | .pointGet a | .breakerGet a | .channelClear a | .sectionGet a | .blockSet a | .resume a | .feederGet a => [a]
  | .planSelect a | .planCheck a | .planActivate a | .planSave a => [a]
  | .breakerOperate a b | .modeSet a b | .transferRequest a b | .planCopy a b | .headRead a b => [a, b]
  | .outputSet a b | .genTest a b => [a, b]
  | .feederDemandSet f d => f :: be16 d.toNat
  | .planRead a b c => [a, b, c]
  | .pairGet a b c d => [a, b, c, d]
  | .headWrite a b d => [a, b] ++ be16 d.toNat
  | .planWrite a b c v => [a, b, c] ++ be32 v.toNat

/-- A request of no payload. -/
def read0 (r : Request) : List Byte → Except Status Request
  | [] => .ok r
  | _ => .error .badLength

/-- A request of one payload byte. -/
def read1 (f : Byte → Request) : List Byte → Except Status Request
  | [a] => .ok (f a)
  | _ => .error .badLength

/-- A request of two payload bytes. -/
def read2 (f : Byte → Byte → Request) : List Byte → Except Status Request
  | [a, b] => .ok (f a b)
  | _ => .error .badLength

/-- A request of three payload bytes. -/
def read3 (f : Byte → Byte → Byte → Request) : List Byte → Except Status Request
  | [a, b, c] => .ok (f a b c)
  | _ => .error .badLength

/-- A request of four payload bytes. -/
def read4 (f : Byte → Byte → Byte → Byte → Request) : List Byte → Except Status Request
  | [a, b, c, d] => .ok (f a b c d)
  | _ => .error .badLength

/-- A request of seven payload bytes. -/
def read7 (f : Byte → Byte → Byte → Word → Request) : List Byte → Except Status Request
  | [a, b, c, d, e, g, h] => .ok (f a b c (readWord d e g h))
  | _ => .error .badLength

/-- The request a good frame's KIND and payload spell (R182): UNKNOWN_KIND is tested first, then BAD_LENGTH. -/
def parseRequest (kind : Byte) (l : List Byte) : Except Status Request :=
  match kind.toNat with
  | 0x01 => read0 .ping l
  | 0x02 => read0 .statusGet l
  | 0x03 => read0 .noticeGet l
  | 0x10 => read1 .pointGet l
  | 0x11 => read4 .pairGet l
  | 0x20 => read1 .breakerGet l
  | 0x21 => read2 .breakerOperate l
  | 0x22 => read1 .channelClear l
  | 0x30 => read1 .sectionGet l
  | 0x31 => read2 .modeSet l
  | 0x32 => read1 .blockSet l
  | 0x33 => read2 .transferRequest l
  | 0x34 => read1 .resume l
  | 0x40 => read1 .feederGet l
  | 0x41 => read3 (fun a b c => .feederDemandSet a (readHalf b c)) l
  | 0x50 => read1 .planSelect l
  | 0x51 => read3 .planRead l
  | 0x52 => read7 .planWrite l
  | 0x53 => read2 .planCopy l
  | 0x54 => read1 .planCheck l
  | 0x55 => read1 .planActivate l
  | 0x56 => read1 .planSave l
  | 0x60 => read2 .headRead l
  | 0x61 => read4 (fun a b c d => .headWrite a b (readHalf c d)) l
  | 0x62 => read0 .linkRestart l
  | 0x63 => read0 .headsBind l
  | 0x70 => read2 .outputSet l
  | 0x71 => read0 .alarmSilence l
  | 0x72 => read2 .genTest l
  | _ => .error .unknownKind

/-- A plan request, which waits for the store load (R185). -/
def Request.isPlan : Request → Bool
  | .planSelect _ | .planRead .. | .planWrite .. | .planCopy .. | .planCheck _ | .planActivate _ | .planSave _ => true
  | _ => false

/-- Puts a request in service at a phase. -/
def setService (kind tag : Byte) (ph : Phase) (s : State) : State :=
  { s with spt := { s.spt with service := some ⟨kind, tag, ph⟩ } }

/-- What the service gave becomes the request in service's phase (R181). -/
def conclude (kind tag : Byte) (v : Served) : State :=
  match v with
  | .done s r => setService kind tag (.formed r) s
  | .after s f =>
    let t := settle s
    setService kind tag (.formed (f t)) t
  | .waits s => settle s

/-- A request that its owner now serves. -/
def serveNow (kind tag : Byte) (r : Request) (s : State) : State :=
  conclude kind tag (serve r (setService kind tag .deferred s))

/-- A request that passes SPT's tests is taken (R181, R185): discarded while one is in service; a plan request is held
until the store load ends. -/
def takeRequest (tag : Byte) (r : Request) (s : State) : State :=
  if s.spt.service.isSome then s
  else if r.isPlan ∧ !s.loaded then setService r.kind tag (.held r) s
  else serveNow r.kind tag r s

/-- A held plan request is served at the end of the store load (R185). -/
def serveHeld (s : State) : State :=
  match s.spt.service with
  | some ⟨kind, tag, .held r⟩ => serveNow kind tag r s
  | _ => s

/-- A good frame reaches request service (R181, R182). -/
def takeFrame (kind tag : Byte) (payload : List Byte) (s : State) : State :=
  if s.spt.service.isSome then s
  else
    match parseRequest kind payload with
    | .ok r => takeRequest tag r s
    | .error e => setService kind tag (.formed ⟨e, .empty⟩) s

/-! ### The receiver (R179, R180) -/

/-- Puts the receiver in a condition, with the end of its byte gap. -/
def setRx (r : Rx) (gap : Option Nat) (s : State) : State := { s with spt := { s.spt with rx := r, rxGap := gap } }

/-- A frame is complete: the bytes after SYNC (R180). It is dropped on a CRC mismatch or a KIND of 0x80 or above. -/
def frameComplete (bytes : List Byte) (s : State) : State :=
  match bytes with
  | len :: kind :: tag :: rest =>
    let payload := rest.take len.toNat
    if rest.drop len.toNat = be16 (crc16 (len :: kind :: tag :: payload)).toNat ∧ kind.toNat < 0x80 then
      takeFrame kind tag payload s
    else s
  | _ => s

/-- The bytes taken so far make a whole frame: LEN, KIND, TAG, LEN payload bytes and two CRC bytes. -/
def frameWhole : List Byte → Bool
  | [] => false
  | len :: rest => rest.length == len.toNat + 4

/-- The bytes taken so far open with a LEN above 250 (R180). -/
def lenTooLong : List Byte → Bool
  | [] => false
  | len :: _ => decide (250 < len.toNat)

/-- A byte taken into the partly received frame (R180). -/
def frameByte (bytes : List Byte) (s : State) : State :=
  if lenTooLong bytes then setRx .hunting none s
  else if frameWhole bytes then frameComplete bytes (setRx .hunting none s)
  else setRx (.receiving bytes) (some (s.now + 5)) s

/-- A byte arrives on HM_RX (R179, R180). R180 gives a low stop bit as a case of a frame in progress alone; a 0xC3 whose stop
bit is low starts no frame (DESIGN CHOICE, log entry 54). -/
def takeByte (b : Byte) (stopHigh : Bool) (s : State) : State :=
  if s.spt.hmDe then s
  else
    match s.spt.rx with
    | .hunting => if stopHigh ∧ b = 0xC3 then setRx (.receiving []) (some (s.now + 5)) s else s
    | .receiving bytes => if stopHigh then frameByte (bytes ++ [b]) s else setRx .hunting none s

/-- No byte arrives within 5 ms (R180). -/
def byteGapOver (s : State) : State :=
  match s.spt.rxGap with
  | some d => setRx .hunting none (reach d s)
  | none => s

/-- The first byte of a formed reply goes out (R179). -/
def startReply (s : State) : State :=
  match s.spt.service with
  | some ⟨k, g, .formed r⟩ => { setService k g (.sending r) s with spt.hmDe := true }
  | _ => s

/-- The last byte of a reply has been sent (R179 to R181). -/
def endReply (s : State) : State :=
  match s.spt.service with
  | some ⟨_, _, .sending _⟩ =>
    { s with spt := { s.spt with service := none, hmDe := false, rx := .hunting, rxGap := none } }
  | _ => s

end Sys2Proof.Machine
end

