-- ==== Sys2Proof/Machine/Events.lean ====
section
/-! DEFINITION. The operations behind the commands of the table that the chapters' own files do not hold: reset, the ends
of store writes, and the accepted input levels. -/

namespace Sys2Proof.Machine

/-- The outcome of a command. -/
abbrev Result := Host.Outcome State Fault Refusal

/-- A command whose effect is one change of state and whose reports, if any, are taken inside it. In reset it changes
nothing (R175). -/
def act (f : State → State) (s : State) : Result := .next (live f s)

/-- A command whose effect is one change of state followed by the reports it gives rise to (R54, R102). -/
def event (f : State → State) (s : State) : Result := .next (live (fun t => settle (f t)) s)

/-! ### Reset (R175, R179, R181) -/

/-- A channel's record while RSTn is low: both pulses have ended. -/
def ChanRec.quiet (r : ChanRec) : ChanRec := { r with closeEnd := none, tripEnd := none }

/-- RSTn goes low (R175): every output goes inactive, the request in service ends without a reply (R181), and a store
write in progress is cut off (log entry 5). -/
def assertReset (s : State) : State :=
  if s.inReset then s
  else
    let t := modPst (fun q => { q with writes := [] }) (tornStore s)
    { t with
      inReset := true
      bcu := t.bcu.map ChanRec.quiet
      hlc := { t.hlc with rstLow := true, rstEnd := none, running := false, outFrame := ⟨0, 0, 0, 0⟩ }
      lmg := { t.lmg with lines := linesOff }
      spt := { t.spt with hmDe := false, rx := .hunting, rxGap := none, service := none }
      agenda := [] }

/-- RSTn is released (R175): every record takes its value after power-up, and the store is kept. -/
def releaseReset (baud : BitVec 2) (pins : FirstSamples) (s : State) : State :=
  if s.inReset then State.boot baud pins s.pst.store s.freeCount s.pending else s

/-! ### The store (R20 to R23, R41) -/

/-- The store load ends (R22, R23, R37, R175): the link start begins, and a held plan request is served. -/
def endLoad (s : State) : State := if s.loaded then s else serveHeld (settle (linkStart (loadEnded s)))

/-- The status of a request whose store write has ended. -/
def writeStatus (good : Bool) : Status := if good then .ok else .storeFault

/-- A page write and its verify end (R20). -/
def endPageWrite (good : Bool) (s : State) : State :=
  match s.pst.writes with
  | .page p :: _ => formReply 0x56 ⟨writeStatus good, .empty⟩ (nextWrite (pageWritten p good s))
  | _ => s

/-- A pointer write ends (R21). -/
def endPointerWrite (good : Bool) (s : State) : State :=
  match s.pst.writes with
  | .pointer p :: _ => nextWrite (pointerWritten p good s)
  | _ => s

/-- A link map write ends (R21, R41). -/
def endLinkMapWrite (good : Bool) (s : State) : State :=
  match s.pst.writes with
  | .linkMap m :: _ => formReply 0x63 ⟨writeStatus good, .empty⟩ (nextWrite (linkMapWritten m good s))
  | _ => s

/-! ### Levels and the alarm (R97, R168) -/

/-- A new BLKn level is accepted (R168). -/
def blkAccept (asserted : Bool) (s : State) : State :=
  changeBlock (fun m => { m with blk := m.blk.accept asserted }) s

/-- The ALARM one-shot reaches its end time (R97). -/
def alarmOver (s : State) : State :=
  match s.mdc.alarm with
  | none => s
  | some d =>
    let t := reach d s
    { t with mdc := { t.mdc with alarm := none } }

end Sys2Proof.Machine
end

