-- ==== Sys2Proof/Machine/BoardCommands.lean ====
section
/-! DEFINITION. The commands of the part's reset, its store, its breaker channels and the block input: one meaning each. -/

namespace Sys2Proof.Machine

/-- RESET_ASSERT (R175). -/
def execResetAssert (s : State) : Result := .next (assertReset s)

/-- RESET_RELEASE (R78, R79, R175, R178, R179). -/
def execResetRelease (baud : BitVec 2) (pins : FirstSamples) (s : State) : Result := .next (releaseReset baud pins s)

/-- STORE_LOAD_END (R22, R23, R175). -/
def execStoreLoadEnd (s : State) : Result := act endLoad s

/-- PAGE_WRITE_END (R20, R21). -/
def execPageWriteEnd (good : Bool) (s : State) : Result := act (endPageWrite good) s

/-- POINTER_WRITE_END (R21). -/
def execPointerWriteEnd (good : Bool) (s : State) : Result := act (endPointerWrite good) s

/-- LINK_MAP_WRITE_END (R21, R41). -/
def execLinkMapWriteEnd (good : Bool) (s : State) : Result := act (endLinkMapWrite good) s

/-- ACTIVATION_TAKES_EFFECT (R18, R19). -/
def execActivationTakesEffect (s : State) : Result := event testPending s

/-- AUX_ACCEPTED (R84 to R89, R133, R148). -/
def execAuxAccepted (ch : Chan) (level : Bool) (s : State) : Result := event (auxAccept ch level) s

/-- PRT_ACCEPTED (R90). -/
def execPrtAccepted (ch : Chan) (level : Bool) (s : State) : Result := event (prtAccept ch level) s

/-- RDY_RCK_ACCEPTED (R92). -/
def execRdyRckAccepted (ch : Chan) (which : RdyRck) (level : Bool) (s : State) : Result := event (readyAccept ch which level) s

/-- CLOSE_PULSE_END (R83). -/
def execClosePulseEnd (ch : Chan) (s : State) : Result := act (closePulseOver ch) s

/-- TRIP_PULSE_END (R83). -/
def execTripPulseEnd (ch : Chan) (s : State) : Result := act (tripPulseOver ch) s

/-- CLOSE_CONFIRM_DEADLINE (R84). -/
def execCloseConfirmDeadline (ch : Chan) (s : State) : Result := event (closeDeadline ch) s

/-- TRIP_CONFIRM_DEADLINE (R85). -/
def execTripConfirmDeadline (ch : Chan) (s : State) : Result := event (tripDeadline ch) s

/-- BLKN_ACCEPTED (R168 to R170). -/
def execBlknAccepted (asserted : Bool) (s : State) : Result := event (blkAccept asserted) s

end Sys2Proof.Machine
end

