-- ==== Sys2Proof/Machine/HeadCommands.lean ====
section
/-! DEFINITION. The commands of the head link: one meaning each. -/

namespace Sys2Proof.Machine

/-- LINK_RESET_RELEASE (R37). -/
def execLinkResetRelease (s : State) : Result := act resetReleased s

/-- HEAD_FRAME_END (R26 to R31, R33, R34, R38). -/
def execHeadFrameEnd (lines : BySix InLine) (s : State) : Result := act (frameEnd lines) s

/-- HEAD_LOST (R30, R31). -/
def execHeadLost (p : Point) (s : State) : Result := event (headLost p) s

/-- RECORD_STALE (R29, R31). -/
def execRecordStale (p : Point) (s : State) : Result := event (recordStale p) s

/-- HEAD_READ_COMPLETE (R33). -/
def execHeadReadComplete (data : Half) (s : State) : Result := act (readComplete data) s

/-- HEAD_READ_TIMEOUT (R33). -/
def execHeadReadTimeout (s : State) : Result := act readTimeout s

/-- HEAD_WRITE_POSTED (R34). -/
def execHeadWritePosted (s : State) : Result := act writePosted s

/-- DISCOVERY_READY_END (R38). -/
def execDiscoveryReadyEnd (s : State) : Result := act readyEnd s

/-- DISCOVERY_READ_SILENT (R38, R40, R42, R176). -/
def execDiscoveryReadSilent (s : State) : Result := event readSilent s

end Sys2Proof.Machine
end

