-- ==== Sys2Proof/Machine/LineCommands.lean ====
section
/-! DEFINITION. The commands of the supervisory line: one meaning each. -/

namespace Sys2Proof.Machine

/-- FRAME_RECEIVED (R180 to R182): the byte that ends a frame. -/
def execFrameReceived (last : Byte) (s : State) : Result := act (takeByte last true) s

/-- LINE_BYTE_RECEIVED (R180). -/
def execLineByteReceived (byte : Byte) (stopHigh : Bool) (s : State) : Result := act (takeByte byte stopHigh) s

/-- REPLY_START (R179, R181). -/
def execReplyStart (s : State) : Result := act startReply s

/-- REPLY_SENT (R179 to R181). -/
def execReplySent (s : State) : Result := act endReply s

end Sys2Proof.Machine
end

