-- ==== Sys2Proof/Machine/RequestCommands.lean ====
section
/-! DEFINITION. The supervisory requests as commands: one meaning each. A request command stands for the completion of a
good frame of its kind with the tag and payload given (R181, R182). -/

namespace Sys2Proof.Machine

/-- PING (R186). -/
def execPing (tag : Byte) (s : State) : Result := act (takeRequest tag .ping) s

/-- STATUS_GET (R187). -/
def execStatusGet (tag : Byte) (s : State) : Result := act (takeRequest tag .statusGet) s

/-- NOTICE_GET (R191). -/
def execNoticeGet (tag : Byte) (s : State) : Result := act (takeRequest tag .noticeGet) s

/-- POINT_GET (R61, R189). -/
def execPointGet (tag : Byte) (point : Byte) (s : State) : Result := act (takeRequest tag (.pointGet point)) s

/-- PAIR_GET, LAST (R72). -/
def execPairGetLast (tag : Byte) (incoming : Byte) (bus : Byte) (items : Byte) (s : State) : Result := act (takeRequest tag (.pairGet incoming bus 0 items)) s

/-- PAIR_GET, NEW (R67 to R72). -/
def execPairGetNew (tag : Byte) (incoming : Byte) (bus : Byte) (items : Byte) (s : State) : Result := act (takeRequest tag (.pairGet incoming bus 1 items)) s

/-- BREAKER_GET (R93). -/
def execBreakerGet (tag : Byte) (chan : Byte) (s : State) : Result := act (takeRequest tag (.breakerGet chan)) s

/-- BREAKER_OPERATE, CLOSE (R81, R166, R167). -/
def execBreakerOperateClose (tag : Byte) (chan : Byte) (s : State) : Result := act (takeRequest tag (.breakerOperate chan 1)) s

/-- BREAKER_OPERATE, TRIP (R82, R166). -/
def execBreakerOperateTrip (tag : Byte) (chan : Byte) (s : State) : Result := act (takeRequest tag (.breakerOperate chan 2)) s

/-- BREAKER_OPERATE, STOP (R83, R166). -/
def execBreakerOperateStop (tag : Byte) (chan : Byte) (s : State) : Result := act (takeRequest tag (.breakerOperate chan 3)) s

/-- CHANNEL_CLEAR (R91). -/
def execChannelClear (tag : Byte) (chan : Byte) (s : State) : Result := act (takeRequest tag (.channelClear chan)) s

/-- SECTION_GET (R188). -/
def execSectionGet (tag : Byte) (sec : Byte) (s : State) : Result := act (takeRequest tag (.sectionGet sec)) s

/-- MODE_SET, MANUAL (R163). -/
def execModeSetManual (tag : Byte) (sec : Byte) (s : State) : Result := act (takeRequest tag (.modeSet sec 0)) s

/-- MODE_SET, AUTO (R163, R164). -/
def execModeSetAuto (tag : Byte) (sec : Byte) (s : State) : Result := act (takeRequest tag (.modeSet sec 1)) s

/-- BLOCK_SET (R168). -/
def execBlockSet (tag : Byte) (value : Byte) (s : State) : Result := act (takeRequest tag (.blockSet value)) s

/-- TRANSFER_REQUEST (R109, R135). -/
def execTransferRequest (tag : Byte) (sec : Byte) (entry : Byte) (s : State) : Result := act (takeRequest tag (.transferRequest sec entry)) s

/-- RESUME (R125). -/
def execResume (tag : Byte) (sec : Byte) (s : State) : Result := act (takeRequest tag (.resume sec)) s

/-- FEEDER_GET (R162). -/
def execFeederGet (tag : Byte) (feeder : Byte) (s : State) : Result := act (takeRequest tag (.feederGet feeder)) s

/-- FEEDER_DEMAND_SET (R145). -/
def execFeederDemandSet (tag : Byte) (feeder : Byte) (demand : Half) (s : State) : Result := act (takeRequest tag (.feederDemandSet feeder demand)) s

/-- PLAN_SELECT (R13). -/
def execPlanSelect (tag : Byte) (page : Byte) (s : State) : Result := act (takeRequest tag (.planSelect page)) s

/-- PLAN_READ (R13). -/
def execPlanRead (tag : Byte) (group : Byte) (index : Byte) (field : Byte) (s : State) : Result := act (takeRequest tag (.planRead group index field)) s

/-- PLAN_WRITE (R14). -/
def execPlanWrite (tag : Byte) (group : Byte) (index : Byte) (field : Byte) (value : Word) (s : State) : Result := act (takeRequest tag (.planWrite group index field value)) s

/-- PLAN_COPY (R15). -/
def execPlanCopy (tag : Byte) (source : Byte) (dest : Byte) (s : State) : Result := act (takeRequest tag (.planCopy source dest)) s

/-- PLAN_CHECK (R16). -/
def execPlanCheck (tag : Byte) (page : Byte) (s : State) : Result := act (takeRequest tag (.planCheck page)) s

/-- PLAN_ACTIVATE (R17 to R19). -/
def execPlanActivate (tag : Byte) (page : Byte) (s : State) : Result := act (takeRequest tag (.planActivate page)) s

/-- PLAN_SAVE (R20). -/
def execPlanSave (tag : Byte) (page : Byte) (s : State) : Result := act (takeRequest tag (.planSave page)) s

/-- HEAD_READ (R32, R33, R35). -/
def execHeadRead (tag : Byte) (point : Byte) (index : Byte) (s : State) : Result := act (takeRequest tag (.headRead point index)) s

/-- HEAD_WRITE (R32, R34, R35). -/
def execHeadWrite (tag : Byte) (point : Byte) (index : Byte) (data : Half) (s : State) : Result := act (takeRequest tag (.headWrite point index data)) s

/-- LINK_RESTART (R37, R42). -/
def execLinkRestart (tag : Byte) (s : State) : Result := act (takeRequest tag .linkRestart) s

/-- HEADS_BIND (R41). -/
def execHeadsBind (tag : Byte) (s : State) : Result := act (takeRequest tag .headsBind) s

/-- OUTPUT_SET (R96). -/
def execOutputSet (tag : Byte) (line : Byte) (value : Byte) (s : State) : Result := act (takeRequest tag (.outputSet line value)) s

/-- ALARM_SILENCE (R98). -/
def execAlarmSilence (tag : Byte) (s : State) : Result := act (takeRequest tag .alarmSilence) s

/-- GEN_TEST (R173). -/
def execGenTest (tag : Byte) (source : Byte) (value : Byte) (s : State) : Result := act (takeRequest tag (.genTest source value)) s

end Sys2Proof.Machine
end

