-- ==== Sys2Proof/Machine/TimerCommands.lean ====
section
/-! DEFINITION. The commands that are the end of a running time: one meaning each. An idle timer does not expire. -/

namespace Sys2Proof.Machine

/-- PICK_EXPIRY (R50). -/
def execPickExpiry (src : Src) (s : State) : Result := event (pickExpired src) s

/-- DROP_FAST_EXPIRY (R52). -/
def execDropFastExpiry (src : Src) (s : State) : Result := event (dropExpired src) s

/-- T_RETURN_EXPIRY (R110, R138 to R140). -/
def execTReturnExpiry (sec : Sec) (s : State) : Result := event (timerOver sec .tReturn) s

/-- T_SYNC_WAIT_EXPIRY (R112). -/
def execTSyncWaitExpiry (sec : Sec) (s : State) : Result := event (timerOver sec .tSyncWait) s

/-- T_DECAY_MAX_EXPIRY (R117). -/
def execTDecayMaxExpiry (sec : Sec) (s : State) : Result := event (timerOver sec .tDecayMax) s

/-- T_DEAD_EXPIRY (R117). -/
def execTDeadExpiry (sec : Sec) (s : State) : Result := event (timerOver sec .tDead) s

/-- T_OVERLAP_EXPIRY (R122). -/
def execTOverlapExpiry (sec : Sec) (s : State) : Result := event (timerOver sec .tOverlap) s

/-- SETTLE_EXPIRY (R103, R177). -/
def execSettleExpiry (sec : Sec) (s : State) : Result := event (settleOver sec) s

/-- RESTORE_TIMER_EXPIRY (R155 to R158). -/
def execRestoreTimerExpiry (island : IslandId) (s : State) : Result := act (restoreExpiry island) s

/-- OVERLOAD_TIMER_EXPIRY (R153, R154). -/
def execOverloadTimerExpiry (island : IslandId) (s : State) : Result := act (overloadExpiry island) s

/-- COOL_DOWN_EXPIRY (R172, R174). -/
def execCoolDownExpiry (src : Src) (s : State) : Result := act (coolExpiry src) s

/-- START_TIMER_EXPIRY (R173). -/
def execStartTimerExpiry (src : Src) (s : State) : Result := act (startExpiry src) s

/-- ALARM_END (R97). -/
def execAlarmEnd (s : State) : Result := act alarmOver s

/-- FRAME_BYTE_TIMEOUT (R180). -/
def execFrameByteTimeout (s : State) : Result := act byteGapOver s

end Sys2Proof.Machine
end

