-- ==== Sys2Proof/Machine/Dispatch.lean ====
section
/-! DEFINITION. The meaning of each command, one arm per constructor of `Instr`. -/

namespace Sys2Proof.Machine

/-- What a command does to everything but the queue of waiting commands. -/
def exec (i : Instr) (s : State) : Host.Outcome State Fault Refusal :=
  match i with
  | .resetAssert => Sys2Proof.Machine.execResetAssert s
  | .resetRelease baud pins => Sys2Proof.Machine.execResetRelease baud pins s
  | .storeLoadEnd => Sys2Proof.Machine.execStoreLoadEnd s
  | .pageWriteEnd good => Sys2Proof.Machine.execPageWriteEnd good s
  | .pointerWriteEnd good => Sys2Proof.Machine.execPointerWriteEnd good s
  | .linkMapWriteEnd good => Sys2Proof.Machine.execLinkMapWriteEnd good s
  | .activationTakesEffect => Sys2Proof.Machine.execActivationTakesEffect s
  | .linkResetRelease => Sys2Proof.Machine.execLinkResetRelease s
  | .headFrameEnd lines => Sys2Proof.Machine.execHeadFrameEnd lines s
  | .headLost p => Sys2Proof.Machine.execHeadLost p s
  | .recordStale p => Sys2Proof.Machine.execRecordStale p s
  | .headReadComplete data => Sys2Proof.Machine.execHeadReadComplete data s
  | .headReadTimeout => Sys2Proof.Machine.execHeadReadTimeout s
  | .headWritePosted => Sys2Proof.Machine.execHeadWritePosted s
  | .discoveryReadyEnd => Sys2Proof.Machine.execDiscoveryReadyEnd s
  | .discoveryReadSilent => Sys2Proof.Machine.execDiscoveryReadSilent s
  | .pickExpiry src => Sys2Proof.Machine.execPickExpiry src s
  | .dropFastExpiry src => Sys2Proof.Machine.execDropFastExpiry src s
  | .auxAccepted ch level => Sys2Proof.Machine.execAuxAccepted ch level s
  | .prtAccepted ch level => Sys2Proof.Machine.execPrtAccepted ch level s
  | .rdyRckAccepted ch which level => Sys2Proof.Machine.execRdyRckAccepted ch which level s
  | .closePulseEnd ch => Sys2Proof.Machine.execClosePulseEnd ch s
  | .tripPulseEnd ch => Sys2Proof.Machine.execTripPulseEnd ch s
  | .closeConfirmDeadline ch => Sys2Proof.Machine.execCloseConfirmDeadline ch s
  | .tripConfirmDeadline ch => Sys2Proof.Machine.execTripConfirmDeadline ch s
  | .tReturnExpiry sec => Sys2Proof.Machine.execTReturnExpiry sec s
  | .tSyncWaitExpiry sec => Sys2Proof.Machine.execTSyncWaitExpiry sec s
  | .tDecayMaxExpiry sec => Sys2Proof.Machine.execTDecayMaxExpiry sec s
  | .tDeadExpiry sec => Sys2Proof.Machine.execTDeadExpiry sec s
  | .tOverlapExpiry sec => Sys2Proof.Machine.execTOverlapExpiry sec s
  | .settleExpiry sec => Sys2Proof.Machine.execSettleExpiry sec s
  | .blknAccepted asserted => Sys2Proof.Machine.execBlknAccepted asserted s
  | .restoreTimerExpiry island => Sys2Proof.Machine.execRestoreTimerExpiry island s
  | .overloadTimerExpiry island => Sys2Proof.Machine.execOverloadTimerExpiry island s
  | .coolDownExpiry src => Sys2Proof.Machine.execCoolDownExpiry src s
  | .startTimerExpiry src => Sys2Proof.Machine.execStartTimerExpiry src s
  | .alarmEnd => Sys2Proof.Machine.execAlarmEnd s
  | .frameReceived last => Sys2Proof.Machine.execFrameReceived last s
  | .frameByteTimeout => Sys2Proof.Machine.execFrameByteTimeout s
  | .replySent => Sys2Proof.Machine.execReplySent s
  | .ping tag => Sys2Proof.Machine.execPing tag s
  | .statusGet tag => Sys2Proof.Machine.execStatusGet tag s
  | .noticeGet tag => Sys2Proof.Machine.execNoticeGet tag s
  | .pointGet tag point => Sys2Proof.Machine.execPointGet tag point s
  | .pairGetLast tag incoming bus items => Sys2Proof.Machine.execPairGetLast tag incoming bus items s
  | .pairGetNew tag incoming bus items => Sys2Proof.Machine.execPairGetNew tag incoming bus items s
  | .breakerGet tag chan => Sys2Proof.Machine.execBreakerGet tag chan s
  | .breakerOperateClose tag chan => Sys2Proof.Machine.execBreakerOperateClose tag chan s
  | .breakerOperateTrip tag chan => Sys2Proof.Machine.execBreakerOperateTrip tag chan s
  | .breakerOperateStop tag chan => Sys2Proof.Machine.execBreakerOperateStop tag chan s
  | .channelClear tag chan => Sys2Proof.Machine.execChannelClear tag chan s
  | .sectionGet tag sec => Sys2Proof.Machine.execSectionGet tag sec s
  | .modeSetManual tag sec => Sys2Proof.Machine.execModeSetManual tag sec s
  | .modeSetAuto tag sec => Sys2Proof.Machine.execModeSetAuto tag sec s
  | .blockSet tag value => Sys2Proof.Machine.execBlockSet tag value s
  | .transferRequest tag sec entry => Sys2Proof.Machine.execTransferRequest tag sec entry s
  | .resume tag sec => Sys2Proof.Machine.execResume tag sec s
  | .feederGet tag feeder => Sys2Proof.Machine.execFeederGet tag feeder s
  | .feederDemandSet tag feeder demand => Sys2Proof.Machine.execFeederDemandSet tag feeder demand s
  | .planSelect tag page => Sys2Proof.Machine.execPlanSelect tag page s
  | .planRead tag group index field => Sys2Proof.Machine.execPlanRead tag group index field s
  | .planWrite tag group index field value => Sys2Proof.Machine.execPlanWrite tag group index field value s
  | .planCopy tag source dest => Sys2Proof.Machine.execPlanCopy tag source dest s
  | .planCheck tag page => Sys2Proof.Machine.execPlanCheck tag page s
  | .planActivate tag page => Sys2Proof.Machine.execPlanActivate tag page s
  | .planSave tag page => Sys2Proof.Machine.execPlanSave tag page s
  | .headRead tag point index => Sys2Proof.Machine.execHeadRead tag point index s
  | .headWrite tag point index data => Sys2Proof.Machine.execHeadWrite tag point index data s
  | .linkRestart tag => Sys2Proof.Machine.execLinkRestart tag s
  | .headsBind tag => Sys2Proof.Machine.execHeadsBind tag s
  | .outputSet tag line value => Sys2Proof.Machine.execOutputSet tag line value s
  | .alarmSilence tag => Sys2Proof.Machine.execAlarmSilence tag s
  | .genTest tag source value => Sys2Proof.Machine.execGenTest tag source value s
  | .lineByteReceived byte stopHigh => Sys2Proof.Machine.execLineByteReceived byte stopHigh s
  | .replyStart => Sys2Proof.Machine.execReplyStart s

end Sys2Proof.Machine
end

