-- ==== Sys2Proof/Machine/Time.lean ====
section
/-! DEFINITION. The part's own time: which running times have come, and the tick of 1 ms with the sampling of the inputs
(R78, R168; log entries 1 and 2). -/

namespace Sys2Proof.Machine

/-! ### Times that have come -/

/-- A time has come: it is running and its deadline is not after the present tick. -/
def State.isDue (s : State) (d : Option Nat) : Bool :=
  match d with
  | some d => decide (d ≤ s.now)
  | none => false

/-- A command where its time has come. -/
def State.dueIf (s : State) (d : Option Nat) (c : Instr) : List Instr := if s.isDue d then [c] else []

/-- The end of a source's qualification timer. -/
def State.dueSource (s : State) (x : Src) : List Instr :=
  match (s.squ.srcs.get x).timer with
  | some (.pick, d) => s.dueIf (some d) (.pickExpiry x)
  | some (_, d) => s.dueIf (some d) (.dropFastExpiry x)
  | none => []

/-- The times of a channel: pulses, its confirm deadline, and stability counts. -/
def State.dueChan (s : State) (c : Chan) : List Instr :=
  let r := s.bcu.get c
  s.dueIf r.closeEnd (.closePulseEnd c) ++ s.dueIf r.tripEnd (.tripPulseEnd c) ++
  (match r.op with
    | some o => s.dueIf (some o.deadline) (if o.kind = .close then .closeConfirmDeadline c else .tripConfirmDeadline c)
    | none => []) ++
  s.dueIf r.aux.acceptAt (.auxAccepted c r.aux.raw) ++ s.dueIf r.prot.acceptAt (.prtAccepted c r.prot.raw) ++
  s.dueIf r.ready.acceptAt (.rdyRckAccepted c .rdy r.ready.raw) ++
  s.dueIf r.racked.acceptAt (.rdyRckAccepted c .rck r.racked.raw)

/-- The timers of a section. -/
def State.dueSec (s : State) (n : Sec) : List Instr :=
  let c := s.ctx n
  s.dueIf c.tReturn (.tReturnExpiry n) ++ s.dueIf c.tSyncWait (.tSyncWaitExpiry n) ++
  s.dueIf c.tDecayMax (.tDecayMaxExpiry n) ++ s.dueIf c.tDead (.tDeadExpiry n) ++
  s.dueIf c.tOverlap (.tOverlapExpiry n) ++ s.dueIf (s.mdc.settle.get n) (.settleExpiry n)

/-- The timers of an island. -/
def State.dueIsland (s : State) (i : IslandId) : List Instr :=
  match s.island i with
  | some r => s.dueIf r.restoreAt (.restoreTimerExpiry i) ++ s.dueIf r.overloadAt (.overloadTimerExpiry i)
  | none => []

/-- The timers of a run record. -/
def State.dueRun (s : State) (x : Src) : List Instr :=
  let r := s.mdc.runs.get x
  s.dueIf r.coolAt (.coolDownExpiry x) ++ s.dueIf r.startAt (.startTimerExpiry x)

/-- Every event whose time has come. -/
def State.due (s : State) : List Instr :=
  allSrcs.flatMap s.dueSource ++ allChans.flatMap s.dueChan ++ allSecs.flatMap s.dueSec ++
  s.islandIds.flatMap s.dueIsland ++ allSrcs.flatMap s.dueRun ++ s.dueIf s.mdc.alarm .alarmEnd ++
  s.dueIf s.spt.rxGap .frameByteTimeout ++ s.dueIf s.hlc.rstEnd .linkResetRelease ++
  s.dueIf s.mdc.blk.acceptAt (.blknAccepted s.mdc.blk.raw)

/-! ### The tick (R78, R168) -/

/-- An input sampled at a tick with a debounce (R78): a raw change restarts its stability count. -/
def InputPin.sample (p : InputPin) (now debounce : Nat) : InputPin :=
  if p.raw = p.accepted then { p with sampled := p.raw, acceptAt := none }
  else if p.raw = p.sampled then p
  else { p with sampled := p.raw, acceptAt := some (now + debounce) }

/-- A channel's four inputs sampled. -/
def ChanRec.sample (r : ChanRec) (now debounce : Nat) : ChanRec :=
  { r with aux := r.aux.sample now debounce, ready := r.ready.sample now debounce,
           racked := r.racked.sample now debounce, prot := r.prot.sample now debounce }

/-- One tick of 1 ms passes, and every input is sampled (R78, R168). -/
def tick (s : State) : State :=
  let t : State := { s with now := s.now + 1, mdc := { s.mdc with blk := s.mdc.blk.sample (s.now + 1) 5 } }
  allChans.foldl (fun t c => { t with bcu := t.bcu.set c ((t.bcu.get c).sample t.now (t.plan.chan c .debounce)) }) t

/-- The part with no command waiting: an event whose time has come is put in the queue, one of them by a free choice
where several have; with none, a tick passes. In reset nothing happens. -/
def idle (s : State) : State :=
  if s.inReset then s
  else
    match s.due with
    | [] => tick s
    | [c] => { s with pending := [c] }
    | l =>
      match l[Config.race s.freeCount 0 % l.length]? with
      | some c => useFree { s with pending := [c] }
      | none => s

end Sys2Proof.Machine
end

