-- ==== Sys2Proof/WellFormed.lean ====
section
/-! DEFINITION. The well-formed commands: those whose operand codes stand in the lists the manual gives (R1 to R3, R8,
R10, R12, R32, R62, R94, R193). An ill-formed request is a frame a supervisor can send; it is answered BAD_ARGUMENT
(R184). An event carries operands of types that hold no other value. -/

namespace Sys2Proof

/-- A code within a list of consecutive codes. -/
def inRange (lo hi : Nat) (b : Byte) : Bool := decide (lo ≤ b.toNat) && decide (b.toNat ≤ hi)

/-- An item address of section 1.3 (R12): a group, an index of the group's objects and a field of its items. -/
def itemAddress (group index field : Byte) : Bool :=
  match group.toNat with
  | 1 => inRange 1 4 index && inRange 1 18 field
  | 2 => inRange 1 2 index && inRange 1 3 field
  | 3 => inRange 1 2 index && inRange 1 20 field
  | 4 => inRange 1 5 index && inRange 1 6 field
  | 5 => inRange 1 24 index && inRange 1 4 field
  | 6 => inRange 0 0 index && inRange 1 8 field
  | _ => false

/-- The six pairs of R62 by their point codes: an incomer's source with its own section's bus, or the two buses. -/
def pairCodes (incoming bus : Byte) : Bool :=
  match incoming.toNat, bus.toNat with
  | 1, 5 => true
  | 2, 6 => true
  | 3, 5 => true
  | 4, 6 => true
  | 5, 6 => true
  | 6, 5 => true
  | _, _ => false

/-- Every operand of a command is one the manual lists. -/
def Instr.wellFormed : Instr → Bool
  | .resetAssert => true
  | .resetRelease _ _ => true
  | .storeLoadEnd => true
  | .pageWriteEnd _ => true
  | .pointerWriteEnd _ => true
  | .linkMapWriteEnd _ => true
  | .activationTakesEffect => true
  | .linkResetRelease => true
  | .headFrameEnd _ => true
  | .headLost _ => true
  | .recordStale _ => true
  | .headReadComplete _ => true
  | .headReadTimeout => true
  | .headWritePosted => true
  | .discoveryReadyEnd => true
  | .discoveryReadSilent => true
  | .pickExpiry _ => true
  | .dropFastExpiry _ => true
  | .auxAccepted _ _ => true
  | .prtAccepted _ _ => true
  | .rdyRckAccepted _ _ _ => true
  | .closePulseEnd _ => true
  | .tripPulseEnd _ => true
  | .closeConfirmDeadline _ => true
  | .tripConfirmDeadline _ => true
  | .tReturnExpiry _ => true
  | .tSyncWaitExpiry _ => true
  | .tDecayMaxExpiry _ => true
  | .tDeadExpiry _ => true
  | .tOverlapExpiry _ => true
  | .settleExpiry _ => true
  | .blknAccepted _ => true
  | .restoreTimerExpiry _ => true
  | .overloadTimerExpiry _ => true
  | .coolDownExpiry _ => true
  | .startTimerExpiry _ => true
  | .alarmEnd => true
  | .frameReceived _ => true
  | .frameByteTimeout => true
  | .replySent => true
  | .ping _ => true
  | .statusGet _ => true
  | .noticeGet _ => true
  | .pointGet _ p => inRange 1 6 p
  | .pairGetLast _ i b k => pairCodes i b && inRange 0 1 k
  | .pairGetNew _ i b k => pairCodes i b && inRange 0 1 k
  | .breakerGet _ c => inRange 1 5 c
  | .breakerOperateClose _ c => inRange 1 5 c
  | .breakerOperateTrip _ c => inRange 1 5 c
  | .breakerOperateStop _ c => inRange 1 5 c
  | .channelClear _ c => inRange 1 5 c
  | .sectionGet _ n => inRange 1 2 n
  | .modeSetManual _ n => inRange 1 2 n
  | .modeSetAuto _ n => inRange 1 2 n
  | .blockSet _ v => inRange 0 1 v
  | .transferRequest _ n e => inRange 1 2 n && inRange 1 3 e
  | .resume _ n => inRange 1 2 n
  | .feederGet _ f => inRange 0 24 f
  | .feederDemandSet _ f _ => inRange 1 24 f
  | .planSelect _ p => inRange 0 3 p
  | .planRead _ g i f => itemAddress g i f
  | .planWrite _ g i f _ => itemAddress g i f
  | .planCopy _ p q => inRange 0 3 p && inRange 0 3 q
  | .planCheck _ p => inRange 0 3 p
  | .planActivate _ p => inRange 0 3 p
  | .planSave _ p => inRange 0 3 p
  | .headRead _ p i => inRange 1 6 p && inRange 0 31 i
  | .headWrite _ p i _ => inRange 1 6 p && inRange 1 30 i
  | .linkRestart _ => true
  | .headsBind _ => true
  | .outputSet _ l v => inRange 1 4 l && inRange 0 1 v
  | .alarmSilence _ => true
  | .genTest _ x v => inRange 1 4 x && inRange 0 1 v
  | .lineByteReceived _ _ => true
  | .replyStart => true

end Sys2Proof
end

