-- ==== Sys2Proof/Safety.lean ====
section
/-! DEFINITION. The terms claims are stated in: what a safe state of the part is, the conditions under which a command runs
undisturbed, and the request each supervisory command stands for. -/

namespace Sys2Proof.Machine

/-! ### What every step keeps -/

/-- The notice queue holds at most 32 notices (R190). -/
def State.QueueBounded (s : State) : Prop := s.spt.queue.length ≤ 32

/-- The law of the coils (R80): never both pulses of a channel, and none while BLOCKED or in reset. -/
def State.CoilsSafe (s : State) : Prop :=
  ∀ c, ((s.bcu.get c).closeEnd = none ∨ (s.bcu.get c).tripEnd = none) ∧
    (s.blocked = true ∨ s.inReset = true → (s.bcu.get c).closeEnd = none ∧ (s.bcu.get c).tripEnd = none)

/-- A channel record's law (R79): the operation is set in CLOSING and OPENING alone, OPEN and CLOSED follow AUX, and AUX is
open in CLOSING, which its closing confirms (R81, R84). -/
def ChanRec.Sound (r : ChanRec) : Prop :=
  match r.position with
  | .closing => r.aux.accepted = false ∧ ∃ o, r.op = some o ∧ o.kind = .close
  | .opening => ∃ o, r.op = some o ∧ o.kind = .trip
  | .isOpen => r.op = none ∧ r.aux.accepted = false
  | .isClosed => r.op = none ∧ r.aux.accepted = true
  | .faulted | .locked => r.op = none

/-- Every channel record keeps R79. -/
def State.ChansSound (s : State) : Prop := ∀ c, (s.bcu.get c).Sound

/-- The active page and the pending page are VALID (R11, R14, R15). -/
def State.PagesInUseValid (s : State) : Prop :=
  ∀ p, s.pst.active = some p ∨ s.pst.pendingPage = some p → (s.pst.pages.get p).status = .valid

/-- A stack is right (R147): it holds each SHED feeder of its section once, and nothing else. -/
def State.StackRight (s : State) (n : Sec) : Prop :=
  (s.lmg.shedStack.get n).Nodup ∧ ∀ f, f ∈ s.lmg.shedStack.get n ↔ feederSec f = n ∧ (s.feeder f).shed = true

/-- Both shed stacks are right. -/
def State.StacksRight (s : State) : Prop := ∀ n, s.StackRight n

/-- The law of the tie owner (R128): with BKT open it names a section only while that section's close of BKT is in
flight. -/
def State.OwnerLaw (s : State) : Prop :=
  s.closed .bkt = false → ∀ n, s.owner = some n →
    ∃ o, (s.bcu.get .bkt).op = some o ∧ o.kind = .close ∧ o.requester = .seq n

/-- The roles and the owner agree with the board once it is adopted (R7): both SOLE with BKT open; with BKT closed and one
source path the section holding it SUPPLYING, the other DEPENDENT and the owner. -/
def State.TieRoles (s : State) : Prop :=
  s.adopted = true →
    (s.closed .bkt = false → ∀ n, (s.ctx n).role = .sole) ∧
    ∀ x, s.closed .bkt = true → s.closedPaths allSecs = [x] →
      (s.ctx (srcSec x)).role = .supplying ∧ (s.ctx (srcSec x).other).role = .dependent ∧
      s.owner = some (srcSec x).other

/-- Until adoption no section is in AUTO and the tie has no owner (R128, R175). -/
def State.UnadoptedRests (s : State) : Prop :=
  s.adopted = false → s.owner = none ∧ ∀ n, s.mode n = .manual

/-! ### When a command runs undisturbed -/

/-- Out of reset, and between events: no report waits. -/
def State.Calm (s : State) : Prop := s.inReset = false ∧ s.agenda = []

/-- Both sections are in MANUAL (R163). -/
def State.BothManual (s : State) : Prop := ∀ n, s.mode n = .manual

/-- No source of the item set in use is a generator, so no run request is formed (R9, R171). -/
def State.NoGenerator (s : State) : Prop := ∀ x, s.plan.kind x ≠ .generator

/-- A state in which an event brings about its own effect and nothing else: calm, both sections in MANUAL, no generator
and no activation pending. -/
def State.Still (s : State) : Prop :=
  s.Calm ∧ s.BothManual ∧ s.NoGenerator ∧ s.pst.pendingPage = none

/-- One section is in AUTO and the other in MANUAL, on an adopted board where nothing else acts: calm, no generator, no
activation pending. -/
def State.AutoAlone (s : State) (n : Sec) : Prop :=
  s.Calm ∧ s.NoGenerator ∧ s.pst.pendingPage = none ∧ s.adopted = true ∧ s.mode n = .auto ∧ s.mode n.other = .manual

/-- A channel's record after a close trigger that was accepted (R81). -/
def State.closeBegun (s : State) (c : Chan) (q : Requester) (now : Nat) : ChanRec :=
  { s.bcu.get c with
    closeEnd := some (now + s.plan.chan c .closeWidth), cmdClosed := true, position := .closing
    op := some ⟨.close, q, now, now + s.plan.chan c .closeConfirm, false⟩ }

/-- The record of a channel in OPEN, CLOSED or CLOSING after a trip trigger that was accepted (R80, R82). -/
def State.tripBegun (s : State) (c : Chan) (q : Requester) (now : Nat) : ChanRec :=
  { s.bcu.get c with
    closeEnd := none, tripEnd := some (now + s.plan.chan c .tripWidth), cmdClosed := false, position := .opening
    op := some ⟨.trip, q, now, now + s.plan.chan c .tripConfirm, false⟩ }

/-- A notice is in the queue, unless the queue has dropped one (R190). -/
def State.Noted (s : State) (n : Note) : Prop := s.spt.overflow = false → n ∈ s.spt.queue.map (·.note)

/-- BKT is open, nobody owns it, and both sections are SOLE (R7, R128). -/
def State.TieOpen (s : State) : Prop := s.closed .bkt = false ∧ s.owner = none ∧ ∀ n, (s.ctx n).role = .sole

/-- What an act of one section's sequencer leaves: the other section's context, the tie owner, the head link, the plan store
and the modes. -/
def State.RestKept (s : State) (n : Sec) (t : State) : Prop :=
  t.ctx n.other = s.ctx n.other ∧ t.owner = s.owner ∧ t.hlc = s.hlc ∧ t.pst = s.pst ∧ t.mdc.modes = s.mdc.modes

/-- A section is FED by an entry, with no transfer left over (R102, R104, R107, R150). -/
def State.FedOn (t : State) (n : Sec) (feed : Option Entry) : Prop :=
  let c := t.ctx n
  c.state = .fed ∧ c.feed = feed ∧ c.target = none ∧ c.lost = none ∧ c.outgoing = none ∧ c.tReturn = none ∧
  c.tSyncWait = none ∧ c.tDecayMax = none ∧ c.tDead = none ∧ c.tOverlap = none ∧ t.ccu.watches.get n = none ∧
  t.lmg.anns.get n = none

/-- A section waits for a source (R105, R113). -/
def State.Waits (t : State) (n : Sec) : Prop :=
  let c := t.ctx n
  c.state = .waitSource ∧ c.feed = none ∧ c.target = none ∧ c.tDecayMax = none ∧ c.tDead = none ∧
  t.ccu.watches.get n = none ∧ t.lmg.anns.get n = none

/-- A section has just entered DECAY with a target (R115). -/
def State.DecayBegun (t : State) (n : Sec) (e : SecEntry) : Prop :=
  let c := t.ctx n
  let it := t.plan
  c.state = .decay ∧ c.target = some e ∧ c.feed = none ∧ c.decayOver = false ∧ c.deadOver = false ∧
  c.tDecayMax = some (t.now + it.sec n .tDecayMax) ∧
  c.tDead = (if it.sec n .openMethod = 2 then some (t.now + it.sec n .tDead) else none) ∧
  t.ccu.watches.get n = if it.sec n .openMethod = 0 then some ⟨targetPair e, .openItems, n⟩ else none

/-- A section's bus is DEAD under an open method that closes on it (R116, row 2): an entry into DECAY closes its target at once. -/
def State.ResidualNow (s : State) (n : Sec) : Prop := (s.squ.buses.get n).state = .dead ∧ s.plan.sec n .openMethod ≤ 1

/-- A section has entered DECAY and closed its target by RESIDUAL, all at this tick and with no result of its watch (R115,
R116). -/
def State.ResidualBegun (t : State) (n : Sec) (e : SecEntry) : Prop :=
  let c := t.ctx n
  c.state = .closing ∧ c.target = some e ∧ c.feed = none ∧ c.closedTrans = false ∧ c.method = .residual ∧
  c.closeStop = false ∧ c.closeRec = ⟨none, t.now⟩ ∧ c.tDecayMax = none ∧ c.tDead = none ∧ t.ccu.watches.get n = none

/-- A section has just halted: no timer and no watch, its cause and channel, no target and nothing outgoing, its feed as the
contacts lie, the ALARM and the notice (R97, R124). -/
def State.HaltedWith (t : State) (n : Sec) (left : SeqState) (cause : HaltCause) (ch : Option Chan) : Prop :=
  let c := t.ctx n
  c.state = .halted ∧ c.haltCause = cause ∧ c.haltChan = ch ∧ c.target = none ∧ c.outgoing = none ∧
  c.tReturn = none ∧ c.tSyncWait = none ∧ c.tDecayMax = none ∧ c.tDead = none ∧ c.tOverlap = none ∧
  c.feed = t.adoptedFeed n ∧ t.ccu.watches.get n = none ∧ t.mdc.alarm = some (t.now + t.plan.glob .alarmTime * 1000) ∧
  t.Noted (.sectionHalted n cause ch left c.feed)

/-- No entry of a section has a HEALTHY source. -/
def State.NoneHealthy (s : State) (n : Sec) : Prop := ∀ g : Entry, s.healthy? (s.entrySource ⟨n, g⟩) = false

/-- A line answers the read of index 0 from an address with an identity (R38). -/
def Heard (lines : BySix InLine) (a i : Six) (d : Half) : Prop :=
  (lines.get i).good a = true ∧ (lines.get i).echo = some (0, d)

/-- What the lines of a frame make of the address whose read it ends (R38, R39): the lines that answer, each with its
identity, or silence. -/
def HeardAs (lines : BySix InLine) (a : Six) : HeadEntry → Prop
  | .answered l => l ≠ [] ∧ ∀ i d, ⟨i, d⟩ ∈ l ↔ Heard lines a i d
  | .silent => ∀ i d, ¬Heard lines a i d
  | .unread => False

/-- The read of the last address is outstanding, with no point bound, at a frame that ends it (R37, R38): a line answers, or
the frame is the 64th after the one that carried the read. -/
def State.LastReadEnds (s : State) (lines : BySix InLine) : Prop :=
  s.hlc.running = true ∧ (∀ p, (s.hlc.points.get p).bound = none) ∧
  ∃ sent, s.hlc.slot = some ⟨false, none, ⟨.n5, .n0⟩, 0, 0, some sent⟩ ∧ 0 < frameAge s.hlc.frameNo sent ∧
    ((∃ i d, Heard lines .n5 i d) ∨ 64 ≤ frameAge s.hlc.frameNo sent)

/-- The state in which discovery has heard what it can of the last address (R39). -/
def State.discovered (s : State) (e : HeadEntry) : State :=
  { s with hlc := { s.hlc with heads := s.hlc.heads.set .n5 e, slot := none, discovery := .idle } }

/-- The part takes a request (R181, R185): out of reset, the store loaded, no request in service. -/
def State.Ready (s : State) : Prop := s.Calm ∧ s.loaded = true ∧ s.spt.service = none

/-- The state with a request in service and its reply formed (R181). -/
def State.replied (s : State) (kind tag : Byte) (st : Status) (b : Body) : State := setService kind tag (.formed ⟨st, b⟩) s

/-- The state with a request in service whose reply waits for its owner (R181). -/
def State.awaiting (s : State) (kind tag : Byte) : State := setService kind tag .deferred s

/-- Every shed line is at the level its feeder's state asks for, outside reset and the block (R159, R160). -/
def State.LinesFollow (s : State) : Prop :=
  s.inReset = false → s.blocked = false → ∀ f, s.lmg.lines.get f = (s.feeder f).shed

/-! ### Frames as commands -/

/-- The frame of a request as a supervisor sends it (R180, R194): SYNC, LEN, KIND, TAG, the payload, and the CRC-16 of
LEN to the end of the payload. -/
def Request.frame (r : Request) (tag : Byte) : List Byte :=
  let inner := [byteOf r.payload.length, r.kind, tag] ++ r.payload
  [0xC3] ++ inner ++ be16 (crc16 inner).toNat

/-- The bytes of a frame as commands: each a byte received with its stop bit high, the last the one that ends the frame. -/
def lineCommands : List Byte → List Instr
  | [] => []
  | [b] => [.frameReceived b]
  | b :: c :: l => .lineByteReceived b true :: lineCommands (c :: l)

/-- Commands one after another, as long as each answers a next state. -/
def execAll : List Instr → State → Result
  | [], s => .next s
  | c :: l, s =>
    match exec c s with
    | .next t => execAll l t
    | o => o

end Sys2Proof.Machine

namespace Sys2Proof

/-- The TAG and the request that a supervisory command stands for (R182); none for an event. -/
def Instr.request : Instr → Option (Byte × Machine.Request)
  | .ping t => some (t, .ping)
  | .statusGet t => some (t, .statusGet)
  | .noticeGet t => some (t, .noticeGet)
  | .pointGet t p => some (t, .pointGet p)
  | .pairGetLast t i b k => some (t, .pairGet i b 0 k)
  | .pairGetNew t i b k => some (t, .pairGet i b 1 k)
  | .breakerGet t c => some (t, .breakerGet c)
  | .breakerOperateClose t c => some (t, .breakerOperate c 1)
  | .breakerOperateTrip t c => some (t, .breakerOperate c 2)
  | .breakerOperateStop t c => some (t, .breakerOperate c 3)
  | .channelClear t c => some (t, .channelClear c)
  | .sectionGet t n => some (t, .sectionGet n)
  | .modeSetManual t n => some (t, .modeSet n 0)
  | .modeSetAuto t n => some (t, .modeSet n 1)
  | .blockSet t v => some (t, .blockSet v)
  | .transferRequest t n e => some (t, .transferRequest n e)
  | .resume t n => some (t, .resume n)
  | .feederGet t f => some (t, .feederGet f)
  | .feederDemandSet t f d => some (t, .feederDemandSet f d)
  | .planSelect t p => some (t, .planSelect p)
  | .planRead t g i f => some (t, .planRead g i f)
  | .planWrite t g i f v => some (t, .planWrite g i f v)
  | .planCopy t p q => some (t, .planCopy p q)
  | .planCheck t p => some (t, .planCheck p)
  | .planActivate t p => some (t, .planActivate p)
  | .planSave t p => some (t, .planSave p)
  | .headRead t p i => some (t, .headRead p i)
  | .headWrite t p i d => some (t, .headWrite p i d)
  | .linkRestart t => some (t, .linkRestart)
  | .headsBind t => some (t, .headsBind)
  | .outputSet t l v => some (t, .outputSet l v)
  | .alarmSilence t => some (t, .alarmSilence)
  | .genTest t x v => some (t, .genTest x v)
  | .resetAssert | .resetRelease .. | .storeLoadEnd | .pageWriteEnd _ | .pointerWriteEnd _ | .linkMapWriteEnd _ => none
  | .activationTakesEffect | .linkResetRelease | .headFrameEnd _ | .headLost _ | .recordStale _ => none
  | .headReadComplete _ | .headReadTimeout | .headWritePosted | .discoveryReadyEnd | .discoveryReadSilent => none
  | .pickExpiry _ | .dropFastExpiry _ | .auxAccepted .. | .prtAccepted .. | .rdyRckAccepted .. => none
  | .closePulseEnd _ | .tripPulseEnd _ | .closeConfirmDeadline _ | .tripConfirmDeadline _ => none
  | .tReturnExpiry _ | .tSyncWaitExpiry _ | .tDecayMaxExpiry _ | .tDeadExpiry _ | .tOverlapExpiry _ => none
  | .settleExpiry _ | .blknAccepted _ | .restoreTimerExpiry _ | .overloadTimerExpiry _ | .coolDownExpiry _ => none
  | .startTimerExpiry _ | .alarmEnd | .frameReceived _ | .frameByteTimeout | .replySent => none
  | .lineByteReceived .. | .replyStart => none

end Sys2Proof
end

