-- ==== Sys2Proof/Certificates/Slice0/Obligations.lean ====
section
/-! DEFINITION. The statements for the provers, from the numbered rules of the spec, rule by rule in the order of its
chapters after the laws of the whole machine. -/

open Sys2Proof Sys2Proof.Machine

/-! ### The step, the queue and the machine's laws -/

/-- A step with a command waiting takes the command at the front of the queue: it is exec of that command on the state
with the queue's rest. -/
def Obligations.StepTakesFront : Prop :=
  ∀ (c : Instr) (rest : List Instr) (s : State),
    step { s with pending := c :: rest } = exec c { s with pending := rest }

/-- The model's own choice (log entry 1): with no command waiting the part's own time runs. In reset nothing happens;
an event whose time has come is put in the queue; with none, one tick passes, which moves the tick count and the
sampling of the inputs and changes no accepted level. -/
def Obligations.IdleStep : Prop :=
  ∀ s : State, s.pending = [] →
    (s.inReset = true → step s = .next s) ∧
    (∀ c, s.inReset = false → s.due = [c] → step s = .next { s with pending := [c] }) ∧
    (s.inReset = false → s.due = [] →
      ∃ t : State, step s = .next t ∧
        t = { s with now := s.now + 1, bcu := t.bcu, mdc := { s.mdc with blk := t.mdc.blk } } ∧
        t.blocked = s.blocked ∧
        ∀ c, (t.bcu.get c).aux.accepted = (s.bcu.get c).aux.accepted ∧
          (t.bcu.get c).ready.accepted = (s.bcu.get c).ready.accepted ∧
          (t.bcu.get c).racked.accepted = (s.bcu.get c).racked.accepted ∧
          (t.bcu.get c).prot.accepted = (s.bcu.get c).prot.accepted ∧
          (t.bcu.get c).position = (s.bcu.get c).position ∧ (t.bcu.get c).op = (s.bcu.get c).op ∧
          (t.bcu.get c).closeEnd = (s.bcu.get c).closeEnd ∧ (t.bcu.get c).tripEnd = (s.bcu.get c).tripEnd)

/-- Every command answers a next state, in every state, and leaves the queue of waiting commands as it was: that no
command stops, in reset either, is the model's reading (log entries 6 and 9). It states no command's effect. -/
def Obligations.ExecKeepsQueue : Prop :=
  ∀ (c : Instr) (s : State), ∃ t, exec c s = .next t ∧ t.pending = s.pending

/-- No step leaves more than 32 notices in the notice queue (R190). -/
def Obligations.StepKeepsQueueBounded : Prop :=
  ∀ s t : State, s.QueueBounded → step s = .next t → t.QueueBounded

/-- No step makes both pulses of a channel active together, nor any pulse while BLOCKED or in reset (R80). -/
def Obligations.StepKeepsCoilsSafe : Prop :=
  ∀ s t : State, s.CoilsSafe → step s = .next t → t.CoilsSafe

/-- Every step keeps the channel records lawful: the operation is set in CLOSING and OPENING and none elsewhere, and
OPEN and CLOSED agree with AUX (R79). -/
def Obligations.StepKeepsChansSound : Prop :=
  ∀ s t : State, s.ChansSound → step s = .next t → t.ChansSound

/-- Every step keeps the active page and the pending page VALID (R11, R14, R15). -/
def Obligations.StepKeepsPagesInUseValid : Prop :=
  ∀ s t : State, s.PagesInUseValid → step s = .next t → t.PagesInUseValid

/-- Every step keeps the shed records right: each stack holds the SHED feeders of its section, each once (R147), and each
shed line is at the level of its feeder's state, outside reset and the block (R159). -/
def Obligations.StepKeepsShedRecords : Prop :=
  ∀ s t : State, step s = .next t → (s.StacksRight → t.StacksRight) ∧ (s.LinesFollow → t.LinesFollow)

/-- Every step keeps the laws of the tie. With BKT open the owner names a section only while that section's close of BKT
is in flight (R128), and both sections are SOLE; with BKT closed and one source path the section that holds it is
SUPPLYING, the other DEPENDENT and the owner (R7). The channel records and the state before adoption are kept with it. -/
def Obligations.StepKeepsTieLaws : Prop :=
  ∀ s t : State, s.ChansSound ∧ s.UnadoptedRests ∧ s.OwnerLaw ∧ s.TieRoles → step s = .next t →
    t.ChansSound ∧ t.UnadoptedRests ∧ t.OwnerLaw ∧ t.TieRoles

/-- The state right after reset meets every one of these laws. -/
def Obligations.ResetMeetsLaws : Prop :=
  State.reset.QueueBounded ∧ State.reset.CoilsSafe ∧ State.reset.ChansSound ∧ State.reset.PagesInUseValid ∧
  State.reset.StacksRight ∧ State.reset.LinesFollow ∧ State.reset.UnadoptedRests ∧ State.reset.OwnerLaw ∧
  State.reset.TieRoles

/-! ### Encodings (chapters 10 and 11, R20, R22) -/

/-- Each request's KIND and payload spell that request and no other (R182, section 11.2). -/
def Obligations.PayloadSpellsRequest : Prop :=
  ∀ r : Request, parseRequest r.kind r.payload = .ok r

/-- The code of each section, source, point, channel, page, feeder and entry names it, and no other byte does (R1, R2,
R3, R8, R10). The addresses of section 1.3, and no others, name a place among the 252 of a page, no two name one place,
and the value written at a place is the value read there (R12, R20). -/
def Obligations.CodesNameOneThing : Prop :=
  ((∀ b n, secOf b = some n ↔ b = secCode n) ∧ (∀ b x, srcOf b = some x ↔ b = srcCode x) ∧
    (∀ b p, pointOfCode b = some p ↔ b = pointCode p) ∧ (∀ b c, chanOfCode b = some c ↔ b = chanCode c) ∧
    (∀ b p, pageOf b = some p ↔ b = pageCode p) ∧ (∀ b f, feederOf b = some f ↔ b = feederCode f) ∧
    (∀ (b : Byte) e, entryOfCode b.toNat = some e ↔ b = entryCode e)) ∧
  (∀ g i f : Byte, itemAddress g i f = true ↔ (itemAt g.toNat i.toNat f.toNat).isSome = true) ∧
  (∀ g i f k d, itemAt g i f = some (k, d) → k < 252) ∧
  (∀ g i f g' i' f' k d d', itemAt g i f = some (k, d) → itemAt g' i' f' = some (k, d') → g = g' ∧ i = i' ∧ f = f') ∧
  (∀ (it : Items) (j k : Nat) (v : Word), k < 252 → (it.put k v).val j = if j = k then v.toNat else it.val j)

/-- A good frame received byte by byte, with the receiver hunting and no reply being sent, does what the command of its
request does: that every supervisory command is the completion of its frame is the model's reading (log entry 11) of
R180, R181, R182 and R194. -/
def Obligations.FrameIsItsCommand : Prop :=
  ∀ (c : Instr) (tag : Byte) (r : Request) (s : State), c.request = some (tag, r) →
    s.inReset = false → s.spt.hmDe = false → s.spt.rx = .hunting →
    execAll (lineCommands (r.frame tag)) s = exec c { s with spt := { s.spt with rx := .hunting, rxGap := none } }

/-- The CRC-16 of the nine ASCII characters 123456789 is 0x29B1. The image a page is saved as has 1012 bytes, and it loads
as the same items and status with saved set: no bit of a page is lost by a save and a load (R20, R22, R194). -/
def Obligations.SavedPageLoadsBack : Prop :=
  crc16 [0x31, 0x32, 0x33, 0x34, 0x35, 0x36, 0x37, 0x38, 0x39] = 0x29B1 ∧
  ∀ p : Page, (pageImage p).length = 1012 ∧ imagePage (pageImage p) = some ⟨p.items, p.status, true⟩

/-! ### Item addresses, PLAN_CHECK and the arithmetic (chapters 1, 3 and 4) -/

/-- What PLAN_CHECK finds in a page it passes (R16): nested bands for every present source; each preference list without a
gap, without an entry twice, and without an entry of an ABSENT source; an own entry on the other side of every TIE; the
closed window within the open one; and a list for some section. So a summary inside a present source's pickup band is
inside its dropout band (R46). -/
def Obligations.PlanCheckFinds : Prop :=
  ∀ it : Items, planCheck it = none →
    (∀ x, it.kind x ≠ .absent →
      it.src x .vDropLo ≤ it.src x .vPickLo ∧ it.src x .vPickHi ≤ it.src x .vDropHi ∧
      it.src x .fPickDev ≤ it.src x .fDropDev ∧
      ∀ m, it.causeIn x (it.pickupBand x) m = .none → it.causeIn x (it.dropoutBand x) m = .none) ∧
    (∀ n, (it.sec n .pref1 = 0 → it.sec n .pref2 = 0) ∧ (it.sec n .pref2 = 0 → it.sec n .pref3 = 0) ∧
      (it.prefs n).Nodup ∧ ∀ e x, e ∈ it.prefs n → ownSource n e = some x → it.kind x ≠ .absent) ∧
    (∀ n, it.sec n .closedWindow ≤ it.sec n .openWindow) ∧
    (it.prefs .sec1 ≠ [] ∨ it.prefs .sec2 ≠ []) ∧
    (∀ n, Entry.tie ∈ it.prefs n → ∃ e ∈ it.prefs n.other, e ≠ .tie)

/-- What a coincidence result holds (R66 to R71). It is available exactly where both records are valid with a frequency
and an age of at most 200 frames. The angle of the earlier summary is advanced to the later one's frame; slip, close time
and horizon are the rules'; both angles are wrapped; the predicted angle is the angle carried over the horizon; and it
carries the permit exactly where the four tests of R71 pass. The rounded quotient is a nearest whole number, a half goes
away from zero, and the sign is kept (R68, R70). -/
def Obligations.CoincidenceResult : Prop :=
  (∀ (n : Int) (d : Nat), 0 < d →
    2 * (n - roundDiv n d * d).natAbs ≤ d ∧
    (2 * (n - roundDiv n d * d).natAbs = d → n.natAbs < (roundDiv n d * d).natAbs) ∧
    roundDiv (-n) d = -roundDiv n d) ∧
  ∀ (s : State) (p : Pair) (set : ItemSet) (n : Sec) (nd : Word),
    let r := s.coincidence p set n nd
    r.nd = nd ∧ r.set = set ∧ r.judging = n ∧
    (∀ e, r.formed = .notAvailable e → r.permit = false) ∧
    (∀ i b, s.pointValid p.incoming = true → s.pointValid (.bus p.busSec) = true →
      (s.hlc.points.get p.incoming).last = some i → (s.hlc.points.get (.bus p.busSec)).last = some b →
      0 < i.freq → 0 < b.freq → frameAge nd i.arrival ≤ 200 → frameAge nd b.arrival ≤ 200 →
      ∃ v, r.formed = .available v) ∧
    ∀ v, r.formed = .available v →
      s.pointValid p.incoming = true ∧ s.pointValid (.bus p.busSec) = true ∧
      ∃ i b, (s.hlc.points.get p.incoming).last = some i ∧ (s.hlc.points.get (.bus p.busSec)).last = some b ∧
        0 < i.freq ∧ 0 < b.freq ∧ frameAge nd i.arrival ≤ 200 ∧ frameAge nd b.arrival ≤ 200 ∧
        v.ni = i.arrival ∧ v.nb = b.arrival ∧ v.slip = (i.freq : Int) - b.freq ∧ v.tc = (s.bcu.get p.chan).tc ∧
        v.hor = min (frameAge nd i.arrival) (frameAge nd b.arrival) * 250 + v.tc * 1000 ∧
        (-1800 < v.d0 ∧ v.d0 ≤ 1800) ∧ (-1800 < v.dp ∧ v.dp ≤ 1800) ∧
        (let gap := ((frameAge nd i.arrival : Int) - frameAge nd b.arrival).natAbs
          let turn (f : Nat) : Int := roundDiv ((f * gap * 9 : Nat) : Int) 10000
          let angI : Int := if frameAge nd b.arrival < frameAge nd i.arrival then i.angle + turn i.freq else i.angle
          let angB : Int := if frameAge nd i.arrival < frameAge nd b.arrival then b.angle + turn b.freq else b.angle
          (v.d0 - (angI - angB)) % 3600 = 0) ∧
        (v.dp - (v.d0 + roundDiv (v.slip * v.hor * 36) 10000000)) % 3600 = 0 ∧
        (r.permit = true ↔
          v.dp.natAbs ≤ s.plan.window n set ∧ v.slip.natAbs ≤ s.plan.slipLimit n set ∧
          s.plan.bus p.busSec .vNom * s.plan.sec n .vInphaseMin ≤ (s.squ.buses.get p.busSec).vmax * 1000 ∧
          (set = .closedItems → s.incomingFit p.incoming = true))

/-! ### Requests that read -/

/-- STATUS_GET, POINT_GET, BREAKER_GET, SECTION_GET, FEEDER_GET and PLAN_READ answer from the state and change nothing
but the request in service (R187, R61, R189, R93, R188, R162, R13). PAIR_GET answers with the pair's last result, or makes
a new computation at the last frame that ended, keeps it and answers with it (R72). NOTICE_GET answers with the oldest
notice and takes it off the queue; the overflow flag it answers with is cleared where the queue is then empty; with an
empty queue it answers that there is none (R191). PLAN_SELECT selects the edit page (R13). -/
def Obligations.ReadsAnswer : Prop :=
  ∀ (s : State) (tag : Byte), s.Ready →
    exec (.statusGet tag) s = .next (s.replied 0x02 tag .ok (.status s.statusAns)) ∧
    (∀ p, exec (.pointGet tag (pointCode p)) s = .next (s.replied 0x10 tag .ok (.point (s.pointAns p)))) ∧
    (∀ c, exec (.breakerGet tag (chanCode c)) s = .next (s.replied 0x20 tag .ok (.breaker (s.breakerAns c)))) ∧
    (∀ n, s.adopted = true →
      exec (.sectionGet tag (secCode n)) s = .next (s.replied 0x30 tag .ok (.sectionView (s.sectionAns n)))) ∧
    exec (.feederGet tag 0) s = .next (s.replied 0x40 tag .ok (.summary s.summaryAns)) ∧
    (∀ f, exec (.feederGet tag (feederCode f)) s = .next (s.replied 0x40 tag .ok (.feeder (s.feederAns f)))) ∧
    (∀ g i f k d, itemAt g.toNat i.toNat f.toNat = some (k, d) →
      exec (.planRead tag g i f) s =
        let q := s.pst.pages.get s.pst.edit
        .next (s.replied 0x51 tag .ok (.item (BitVec.ofNat 32 (q.items.val k)) s.pst.edit q.status q.saved))) ∧
    (∀ i b k p set, pairOf i b = some p → itemSetOf k = some set →
      exec (.pairGetLast tag i b k) s =
        .next (s.replied 0x11 tag .ok (.pair (s.kept p) (s.watches .sec1 p) (s.watches .sec2 p))) ∧
      exec (.pairGetNew tag i b k) s =
        let r := s.coincidence p set p.busSec s.lastFrame
        .next ((keep p r s).replied 0x11 tag .ok (.pair (some r) (s.watches .sec1 p) (s.watches .sec2 p)))) ∧
    (s.spt.queue = [] →
      exec (.noticeGet tag) s = .next (s.replied 0x03 tag .ok (.notice none 0 s.spt.overflow))) ∧
    (∀ n rest, s.spt.queue = n :: rest →
      exec (.noticeGet tag) s =
        .next ({ s with spt := { s.spt with queue := rest, overflow := s.spt.overflow && !rest.isEmpty } }.replied
          0x03 tag .ok (.notice (some n) rest.length s.spt.overflow))) ∧
    (∀ p, exec (.planSelect tag (pageCode p)) s =
      .next ({ s with pst := { s.pst with edit := p } }.replied 0x50 tag .ok .empty))

/-- PING answers with the identity of the part: vendor code 4A, part code 0350, revision letter 42 and plan format 1,
after STATUS, in a frame with the request's KIND and 0x80, its TAG and the CRC-16 (R186). It changes nothing but the
request in service, in either mode, during the power-up sequence and while BLOCKED: there is no further hypothesis. -/
def Obligations.PingAnswers : Prop :=
  ∀ (s : State) (tag : Byte), s.inReset = false → s.spt.service = none →
    exec (.ping tag) s = .next (s.replied 0x01 tag .ok .identity) ∧
    (⟨.ok, .identity⟩ : Reply).frame 0x01 tag =
      [0xC3, 6, 0x81, tag, 0, 0x4A, 0x03, 0x50, 0x42, 1] ++
        be16 (crc16 [6, 0x81, tag, 0, 0x4A, 0x03, 0x50, 0x42, 1]).toNat

/-! ### Plan requests (chapter 1) -/

/-- PLAN_WRITE (R14). Its tests in their order: BAD_ARGUMENT for an address R12 refuses, PAGE_ACTIVE on the active or the
pending page, BAD_ARGUMENT out of range. Otherwise the item of the edit page takes the value, the page is DRAFT whatever
it was, and its saved flag is clear. A refused write changes nothing but the request in service. -/
def Obligations.PlanWriteStores : Prop :=
  ∀ (s : State) (tag g i f : Byte) (v : Word), s.Ready →
    let e := s.pst.edit
    let inUse := s.pst.active = some e ∨ s.pst.pendingPage = some e
    (itemAt g.toNat i.toNat f.toNat = none →
      exec (.planWrite tag g i f v) s = .next (s.replied 0x52 tag .badArgument .empty)) ∧
    ∀ k d, itemAt g.toNat i.toNat f.toNat = some (k, d) →
      let ok := itemInRange g.toNat f.toNat d v.toNat
      (inUse → exec (.planWrite tag g i f v) s = .next (s.replied 0x52 tag .pageActive .empty)) ∧
      (¬inUse → ok = false → exec (.planWrite tag g i f v) s = .next (s.replied 0x52 tag .badArgument .empty)) ∧
      (¬inUse → ok = true → exec (.planWrite tag g i f v) s =
        .next ({ s with pst := { s.pst with
          pages := s.pst.pages.set e ⟨(s.pst.pages.get e).items.put k v, .draft, false⟩ } }.replied 0x52 tag .ok .empty))

/-- PLAN_COPY (R15). BAD_ARGUMENT where a number is not one of 0 to 3; equal pages are answered OK and change nothing; the
active and the pending page are refused PAGE_ACTIVE as a destination. Otherwise the destination takes every item and the
status of the source, with its saved flag clear, and every other page is as it was. -/
def Obligations.PlanCopyCopies : Prop :=
  ∀ (s : State) (tag : Byte), s.Ready →
    (∀ a b : Byte, 3 < a.toNat ∨ 3 < b.toNat →
      exec (.planCopy tag a b) s = .next (s.replied 0x53 tag .badArgument .empty)) ∧
    ∀ p q : PageNo,
      let inUse := s.pst.active = some q ∨ s.pst.pendingPage = some q
      (p = q → exec (.planCopy tag (pageCode p) (pageCode q)) s = .next (s.replied 0x53 tag .ok .empty)) ∧
      (p ≠ q → inUse →
        exec (.planCopy tag (pageCode p) (pageCode q)) s = .next (s.replied 0x53 tag .pageActive .empty)) ∧
      (p ≠ q → ¬inUse → exec (.planCopy tag (pageCode p) (pageCode q)) s =
        .next ({ s with pst := { s.pst with
          pages := s.pst.pages.set q ⟨(s.pst.pages.get p).items, (s.pst.pages.get p).status, false⟩ } }.replied
            0x53 tag .ok .empty))

/-- PLAN_CHECK (R16): a VALID page stays as it is; a page that passes becomes VALID with saved clear; one that fails is
answered CHECK_FAILED with the code and the item's address, and stays as it is. PLAN_ACTIVATE where no page takes effect
(R17, R18): PAGE_NOT_VALID; the active page's own activation withdraws a pending one; the pending page stays pending; and
while a sequencer is not at rest the page becomes pending. -/
def Obligations.PlanChecksAndWaits : Prop :=
  ∀ (s : State) (tag : Byte) (p : PageNo), s.Ready →
    let q := s.pst.pages.get p
    (q.status = .valid → exec (.planCheck tag (pageCode p)) s = .next (s.replied 0x54 tag .ok .empty)) ∧
    (q.status ≠ .valid → planCheck q.items = none → exec (.planCheck tag (pageCode p)) s =
      .next ({ s with pst := { s.pst with
        pages := s.pst.pages.set p ⟨q.items, .valid, false⟩ } }.replied 0x54 tag .ok .empty)) ∧
    (∀ e, q.status ≠ .valid → planCheck q.items = some e → exec (.planCheck tag (pageCode p)) s =
      .next (s.replied 0x54 tag .checkFailed (.check e.code e.group e.index e.field))) ∧
    (s.adopted = true →
      let c := Instr.planActivate tag (pageCode p)
      let valid := (s.pst.pages.get p).status = .valid
      (¬valid → exec c s = .next (s.replied 0x55 tag .pageNotValid .empty)) ∧
      (valid → s.pst.active = some p →
        exec c s = .next ({ s with pst := { s.pst with pendingPage := none } }.replied 0x55 tag .ok (.outcome true))) ∧
      (valid → s.pst.active ≠ some p → s.pst.pendingPage = some p →
        exec c s = .next (s.replied 0x55 tag .ok (.outcome false))) ∧
      (valid → s.pst.active ≠ some p → s.pst.pendingPage ≠ some p → s.bothAtRest = false →
        exec c s = .next ({ s with pst := { s.pst with pendingPage := some p } }.replied 0x55 tag .ok (.outcome false))))

/-- An activation taking effect with both sections in MANUAL (R17 to R19, R59, R75, R146, R174), by PLAN_ACTIVATE at rest
and by ACTIVATION_TAKES_EFFECT for the pending page: the page is active, none is pending, its pointer write is queued and
PLAN_ACTIVATED posted. A source of kind ABSENT on it is ABSENT, and one that leaves ABSENT is UNKNOWN; a source that is no
longer a GENERATOR has its run record as after power-up. A learned close time is reloaded where its item changed and kept
elsewhere. A feeder that becomes unfitted takes the page's demand; a SHED one that is unfitted or of class 1 is CONNECTED,
and any other stays SHED. The pages, the head link, the sequencers, the tie owner and the modes stay. That the row
activates the page by itself, at rest, is log entry 7. -/
def Obligations.ActivationTakesEffect : Prop :=
  ∀ (s : State) (tag : Byte) (p : PageNo), s.BothManual → s.bothAtRest = true → s.adopted = true →
    let it := (s.pst.pages.get p).items
    let Done (t : State) : Prop :=
      t.pst = { s.pst with active := some p, pendingPage := none, writes := enqueueWrite (.pointer p) s.pst.writes } ∧
      (∀ x, it.kind x = .absent → t.srcState x = .absent) ∧
      (∀ x, it.kind x ≠ .absent → s.plan.kind x ≠ .absent → t.squ.srcs.get x = s.squ.srcs.get x) ∧
      (∀ x, it.kind x ≠ .absent → s.plan.kind x = .absent → t.squ.srcs.get x = ⟨.unknown, .meas, none, s.now⟩) ∧
      (∀ x, s.plan.kind x = .generator → it.kind x ≠ .generator → t.mdc.runs.get x = .start) ∧
      (∀ f, (t.feeder f).demand =
          (if s.plan.fitted f = true ∧ it.fitted f = false then it.feeder f .demand else (s.feeder f).demand) ∧
        ((s.feeder f).shed = true → (t.feeder f).shed = (it.fitted f && it.feeder f .cls != 1))) ∧
      t.Noted (.planActivated p s.pst.active) ∧
      (∀ c, t.bcu.get c =
        if s.plan.chan c .closeTimeInit = it.chan c .closeTimeInit then s.bcu.get c
        else { s.bcu.get c with tc := it.chan c .closeTimeInit }) ∧
      t.hlc = s.hlc ∧ t.seqs = s.seqs ∧ t.owner = s.owner ∧ t.mdc.modes = s.mdc.modes
    (s.Ready → (s.pst.pages.get p).status = .valid → s.pst.active ≠ some p → s.pst.pendingPage ≠ some p →
      ∃ t, exec (.planActivate tag (pageCode p)) s = .next t ∧ Done t ∧
        t.spt.service = some ⟨0x55, tag, .formed ⟨.ok, .outcome true⟩⟩) ∧
    (s.Calm → s.pst.pendingPage = some p → ∃ t, exec .activationTakesEffect s = .next t ∧ Done t)

/-- Forming the run requests changes the run records of the generators alone, each by its own request (R171, R172). The
request of a generator holds while a section waits for it, while the source of a section's feed is in DROPOUT and the
section's list holds it, while its incomer is closed, and while its test flag is set (R171). The moves of a record outside
a block and within one (R172, R174): OFF to RUN with the start timer unless HEALTHY, RUN to COOL or with t_cool 0 to OFF,
COOL back to RUN, a noted COOL to OFF; while BLOCKED only COOL to RUN. That a start timer is cancelled with the line, with
t_cool 0 and at a noted end too, is log entry 59. -/
def Obligations.RunRequestsMoveRecords : Prop :=
  (∀ (s : State) (x : Src), s.runRequest x = true ↔ s.plan.kind x = .generator ∧
    ((s.healthy x = false ∧ ∃ n, ((s.ctx n).state = .waitSource ∨ (s.ctx n).state = .decay ∨ (s.ctx n).state = .closing) ∧
        ∃ e ∈ s.selEntries n, ownSource e.sec e.entry = some x) ∨
      (∃ n y, s.feedSource n = some y ∧ s.srcState y = .dropout ∧ ∃ e ∈ s.plan.prefs n, ownSource n e = some x) ∨
      s.closed (srcChan x) = true ∨ (s.mdc.runs.get x).test = true)) ∧
  (∀ (r : RunRec) (healthy : Bool) (now tGen tCool : Nat),
    let move (req blk : Bool) : RunRec := r.move req blk healthy now tGen tCool
    (r.state = .off →
      move true false = (if healthy then { r with state := .run }
        else { r with state := .run, startAt := some (now + tGen * 1000), startUsed := tGen }) ∧
      move false false = r ∧ (∀ q, move q true = r)) ∧
    (r.state = .run →
      move false false = (if tCool = 0 then { r with state := .off, startAt := none }
        else { r with state := .cool, coolAt := some (now + tCool * 1000) }) ∧
      (∀ b, move true b = r) ∧ move false true = r) ∧
    (r.state = .cool →
      (∀ b, move true b = { r with state := .run, coolAt := none, noted := false }) ∧
      move false false =
        (if r.noted then { r with state := .off, coolAt := none, startAt := none, noted := false } else r) ∧
      move false true = r)) ∧
  ∀ s : State, s.adopted = true →
    runAll s = { s with mdc := { s.mdc with runs := (runAll s).mdc.runs } } ∧
    ∀ x, (runAll s).mdc.runs.get x =
      if s.plan.kind x = .generator then
        (s.mdc.runs.get x).move (s.runRequest x) s.blocked (s.healthy x) s.now (s.plan.src x .tGenStart) (s.plan.src x .tCool)
      else s.mdc.runs.get x

/-- PLAN_SAVE clears saved and queues the page's write behind those waiting, and its reply waits (R20, R21). A good page
write stores the page's image and sets saved, and PLAN_SAVE is answered OK; a failed one leaves an open image and is
answered STORE_FAULT. A pointer write sets the stored active pointer, or leaves it unreadable; a link map write stores the
record (R21, R41). The next write then begins. That the image is formed at the write's end and what a failed write leaves
are the model's (log entries 17 and 42). -/
def Obligations.PagesAreSaved : Prop :=
  ∀ (s : State) (tag : Byte) (w : List StoreWrite),
    (∀ p, s.Ready → exec (.planSave tag (pageCode p)) s = .next (runAll ({ s with pst := { s.pst with
      pages := s.pst.pages.set p { s.pst.pages.get p with saved := false },
      writes := s.pst.writes ++ [StoreWrite.page p] } }.awaiting 0x56 tag))) ∧
    (∀ p, s.inReset = false → s.pst.writes = .page p :: w → s.spt.service = some ⟨0x56, tag, .deferred⟩ →
      let q := s.pst.pages.get p
      exec (.pageWriteEnd true) s = .next ({ s with pst := { s.pst with
        pages := s.pst.pages.set p { q with saved := true },
        store := { s.pst.store with images := s.pst.store.images.set p (pageImage q) },
        writes := w } }.replied 0x56 tag .ok .empty) ∧
      exec (.pageWriteEnd false) s = .next ({ s with
        pst := { s.pst with
          store := { s.pst.store with images := s.pst.store.images.set p (Config.tornImage s.freeCount) }, writes := w }
        freeCount := s.freeCount + 1 }.replied 0x56 tag .storeFault .empty)) ∧
    (∀ p good, s.inReset = false → s.pst.writes = StoreWrite.pointer p :: w →
      let v : StoredPtr := if good then StoredPtr.page p else .unreadable
      exec (.pointerWriteEnd good) s = .next { s with pst := { s.pst with
        storedActive := v, store := { s.pst.store with pointer := v }, writes := w } }) ∧
    (∀ m, s.inReset = false → s.pst.writes = .linkMap m :: w → s.spt.service = some ⟨0x63, tag, .deferred⟩ →
      exec (.linkMapWriteEnd true) s = .next ({ s with pst := { s.pst with
        store := { s.pst.store with linkMap := some m }, writes := w } }.replied 0x63 tag .ok .empty) ∧
      exec (.linkMapWriteEnd false) s = .next ({ s with
        pst := { s.pst with
          store := { s.pst.store with linkMap := Config.tornMap s.freeCount }, writes := w }
        freeCount := s.freeCount + 1 }.replied 0x63 tag .storeFault .empty))

/-! ### Head requests (chapter 2) -/

/-- HEAD_READ and HEAD_WRITE (R32, R33, R34, R36): BUSY in a link start, HEADS_UNBOUND for an unbound point; a read of
index 31 is answered at once from the last input word; any other takes the command slot, a write of index 30 also sets the
output word of its address; its reply waits. An outstanding read is answered with the head's data, or HEAD_TIMEOUT; a
posted write is answered OK; the slot is free after each. That the rows of the read's end and of the write's act on any
outstanding command at any frame is the model's (log entry 7); R33's frames c + 1 to c + 64 are FramesAreHeard's. -/
def Obligations.HeadCommandsServed : Prop :=
  (∀ (s : State) (tag : Byte) (p : Point) (d : Half), s.Ready →
    (s.hlc.link = .starting → ∀ i : Byte, i.toNat ≤ 31 →
      exec (.headRead tag (pointCode p) i) s = .next (s.replied 0x60 tag .busy .empty) ∧
      (1 ≤ i.toNat → i.toNat ≤ 30 → exec (.headWrite tag (pointCode p) i d) s = .next (s.replied 0x61 tag .busy .empty))) ∧
    (s.hlc.link ≠ .starting → (s.hlc.points.get p).bound = none → ∀ i : Byte, i.toNat ≤ 31 →
      exec (.headRead tag (pointCode p) i) s = .next (s.replied 0x60 tag .headsUnbound .empty) ∧
      (1 ≤ i.toNat → i.toNat ≤ 30 →
        exec (.headWrite tag (pointCode p) i d) s = .next (s.replied 0x61 tag .headsUnbound .empty))) ∧
    (∀ h, s.hlc.link ≠ .starting → (s.hlc.points.get p).bound = some h →
      exec (.headRead tag (pointCode p) 31) s =
        .next (s.replied 0x60 tag .ok (.headData 31 (s.hlc.points.get p).input)) ∧
      ∀ i : Byte, i.toNat ≤ 30 →
        exec (.headRead tag (pointCode p) i) s = .next (runAll ({ s with hlc := { s.hlc with
          slot := some ⟨false, some p, h, BitVec.ofNat 5 i.toNat, 0, none⟩ } }.awaiting 0x60 tag)) ∧
        (1 ≤ i.toNat → exec (.headWrite tag (pointCode p) i d) s = .next (runAll ({ s with hlc := { s.hlc with
          slot := some ⟨true, some p, h, BitVec.ofNat 5 i.toNat, d, none⟩
          words := if i = 30 then s.hlc.words.set h.addr ⟨d, true⟩ else s.hlc.words } }.awaiting 0x61 tag))))) ∧
  ∀ (s : State) (tag : Byte) (c : HeadCmd) (d : Half), s.inReset = false → s.hlc.slot = some c → c.sentIn.isSome = true →
    let free : State := { s with hlc := { s.hlc with slot := none } }
    (c.write = false → c.point.isSome = true → s.spt.service = some ⟨0x60, tag, .deferred⟩ →
      exec (.headReadComplete d) s = .next (free.replied 0x60 tag .ok (.headData c.index.toNat d)) ∧
      exec .headReadTimeout s = .next (free.replied 0x60 tag .headTimeout .empty)) ∧
    (c.write = true → s.spt.service = some ⟨0x61, tag, .deferred⟩ →
      exec .headWritePosted s = .next (free.replied 0x61 tag .ok .empty))

/-- LINK_RESTART (R37, R42): refused BUSY in a link start; otherwise HL_RSTn goes low for 1 ms, every point is unbound
with its record reset, no command waits and no output word is written; the reply waits for the end of the link start.
HEADS_BIND (R41): BUSY in a link start, DUPLICATE_POINT with a conflict in the discovered map; otherwise the link is
BOUND, each point holds its discovered head (one that held it keeps its record), the map becomes the record, its write is
queued, and the reply waits. HEADS_BIND is stated with both sections in MANUAL, so that nothing else follows. -/
def Obligations.LinkRequestsServed : Prop :=
  ∀ (s : State) (tag : Byte), s.Ready →
    (s.hlc.link = .starting → exec (.linkRestart tag) s = .next (s.replied 0x62 tag .busy .empty)) ∧
    (s.hlc.link ≠ .starting → ∃ t, exec (.linkRestart tag) s = .next t ∧
      t.hlc = { link := .starting, rstLow := true, rstEnd := some (s.now + 1), running := false, frameNo := 0,
                lastEnded := none, outTurn := .n0, slot := none, outFrame := ⟨0, 0, 0, 0⟩, words := .all ⟨0, false⟩,
                discovery := .idle, heads := .all .unread, points := .all .unbound } ∧
      t.spt.service = some ⟨0x62, tag, .deferred⟩ ∧ t.pst.linkMap = s.pst.linkMap) ∧
    (s.BothManual → s.pst.pendingPage = none →
      (s.hlc.link = .starting → exec (.headsBind tag) s = .next (s.replied 0x63 tag .busy .empty)) ∧
      (s.hlc.link ≠ .starting → (s.hlc.duplicate || s.hlc.lineConflict) = true →
        exec (.headsBind tag) s = .next (s.replied 0x63 tag .duplicatePoint .empty)) ∧
      (s.hlc.link ≠ .starting → (s.hlc.duplicate || s.hlc.lineConflict) = false →
        ∃ t, exec (.headsBind tag) s = .next t ∧ t.hlc.link = .bound ∧
          (∀ p, t.hlc.points.get p =
            if (s.hlc.points.get p).bound = s.hlc.discovered p then s.hlc.points.get p
            else match s.hlc.discovered p with
              | some h => { PointRec.unbound with bound := some h, status := .present }
              | none => .unbound) ∧
          t.pst = { s.pst with linkMap := s.hlc.discoveredMap, writes := s.pst.writes ++ [.linkMap s.hlc.discoveredMap] } ∧
          t.spt.service = some ⟨0x63, tag, .deferred⟩))

/-! ### The head link's own events (chapter 2) -/

/-- The end of a frame outside discovery (R24 to R31, R36, R195). The next frame begins with the next output address: its
TAG has FRAME_VALID, that address with OUT_VALID where a word was written for it, and slot 3 the word; where a command
waits it goes out with CMD_VALID, WRITE and its head's address in the TAG, its index in slot 1 and a write's data in slot
2; with no command in the slot, or with one that has gone out and is outstanding or ends, CMD_VALID and these are 0 (of
WRITE and CMD_ADDR, log entry 55). A bound point whose line brought a good frame is PRESENT with no loss, and HEAD_BACK is
posted if it was LOST; it takes the summary and the input word where the frame has them, and keeps them where not. One
whose line did not has one more loss, and at the 32nd is LOST with HEAD_LOST posted; LOST already, it stays so at 32. With
no summary accepted a record that is fresh stays fresh while its last one is under 240 frames old, and is stale at the end
of the 240th. -/
def Obligations.FrameEnds : Prop :=
  ∀ (s : State) (lines : BySix InLine), s.inReset = false → s.hlc.running = true → s.hlc.discovery = .idle →
    ∃ t, exec (.headFrameEnd lines) s = .next t ∧
      t.hlc.frameNo = s.hlc.frameNo + 1 ∧ t.hlc.lastEnded = some s.hlc.frameNo ∧ t.hlc.outTurn = sixNext s.hlc.outTurn ∧
      t.hlc.running = true ∧ t.hlc.link = s.hlc.link ∧ t.hlc.discovery = .idle ∧
      (let a := sixNext s.hlc.outTurn
       let w := s.hlc.words.get a
       let o := t.hlc.outFrame
       let out := 2 ^ 23 + (if w.written then 2 ^ 20 else 0) + sixNo a * 2 ^ 14
       o.s3.toNat = (if w.written then w.word.toNat else 0) ∧
       ((∀ c, s.hlc.slot = some c → ∃ k, c.sentIn = some k ∧ k ≠ s.hlc.frameNo + 1) →
         o.tag.toNat = out ∧ o.s1 = 0 ∧ o.s2 = 0) ∧
       ∀ c, s.hlc.slot = some c → c.sentIn = none →
         o.tag.toNat = out + 2 ^ 22 + (if c.write then 2 ^ 21 else 0) + sixNo c.place.addr * 2 ^ 17 ∧
         o.s1.toNat = c.index.toNat ∧ o.s2.toNat = if c.write then c.data.toNat else 0) ∧
      ∀ p, let r := s.hlc.points.get p
        let u := t.hlc.points.get p
        match r.bound with
        | none => u = r
        | some h =>
          let l := lines.get h.line
          u.bound = some h ∧
          (u.input = if l.good h.addr = true ∧ l.slotValid 8 = true then l.s8.extractLsb' 0 16 else r.input) ∧
          (match if l.good h.addr then l.summary s.hlc.frameNo else none with
            | some m => u.last = some m ∧ u.fresh = true
            | none => u.last = r.last ∧ (r.fresh = false → u.fresh = false) ∧
              ∀ m, r.fresh = true → r.last = some m → u.fresh = decide (frameAge s.hlc.frameNo m.arrival < 240)) ∧
          if l.good h.addr then u.status = .present ∧ u.loss = 0 ∧ (r.status = .lost → t.Noted (.headBack p h))
          else
            (r.status = .present → 31 ≤ r.loss → u.status = .lost ∧ u.loss = 32 ∧ t.Noted (.headLost p h)) ∧
            (r.status = .lost → r.loss = 32 → u.status = .lost ∧ u.loss = 32) ∧
            (r.loss < 31 → u.status = r.status ∧ u.loss = r.loss + 1)

/-- What a frame brings to commands and discovery (R32 to R34, R38, R39). A command that waits goes out in the next frame.
An outstanding read is answered by an echo of its index on its head's line, and times out at 64 frames without one; a
write is posted at the end of its frame. In the first phase of discovery each line that shows READY is noted, and the
phase ends with every line noted or with frame 799. An address's read is answered by the lines that echo index 0, each
with its identity, and the next address is read; without an answer for 64 frames the address is silent. -/
def Obligations.FramesAreHeard : Prop :=
  ∀ (s : State) (lines : BySix InLine), s.inReset = false → s.hlc.running = true →
    let n := s.hlc.frameNo
    ∃ t, exec (.headFrameEnd lines) s = .next t ∧
      (∀ c, s.hlc.discovery = .idle → s.hlc.slot = some c → c.sentIn = none →
        t.hlc.slot = some { c with sentIn := some (n + 1) } ∧ t.hlc.carried = t.hlc.slot) ∧
      (∀ c sent tag, s.hlc.discovery = .idle → s.hlc.slot = some c → c.sentIn = some sent → c.write = false →
        c.point.isSome = true → s.spt.service = some ⟨0x60, tag, .deferred⟩ → 0 < frameAge n sent →
        let l := lines.get c.place.line
        let heard (d : Half) : Prop := l.good c.place.addr = true ∧ l.echo = some (c.index.toNat, d)
        (∀ d, heard d → t.hlc.slot = none ∧
          t.spt.service = some ⟨0x60, tag, .formed ⟨.ok, .headData c.index.toNat d⟩⟩) ∧
        ((∀ d, ¬heard d) → 64 ≤ frameAge n sent → t.hlc.slot = none ∧
          t.spt.service = some ⟨0x60, tag, .formed ⟨.headTimeout, .empty⟩⟩) ∧
        ((∀ d, ¬heard d) → frameAge n sent < 64 → t.hlc.slot = some c ∧ t.spt.service = s.spt.service)) ∧
      (∀ c tag, s.hlc.discovery = .idle → s.hlc.slot = some c → c.sentIn.isSome = true → c.write = true →
        s.spt.service = some ⟨0x61, tag, .deferred⟩ →
        t.hlc.slot = none ∧ t.spt.service = some ⟨0x61, tag, .formed ⟨.ok, .empty⟩⟩) ∧
      (∀ seen, s.hlc.discovery = .ready seen → s.hlc.slot = none →
        let noted (i : Six) : Bool := seen.get i || (lines.get i).ready
        ((∀ i, noted i = true) ∨ 799 ≤ n.toNat → t.hlc.discovery = .reading .n0 ∧
          t.hlc.slot = some ⟨false, none, ⟨.n0, .n0⟩, 0, 0, some (n + 1)⟩) ∧
        ((∃ i, noted i = false) → n.toNat < 799 →
          ∃ seen', t.hlc.discovery = .ready seen' ∧ (∀ i, seen'.get i = noted i) ∧ t.hlc.slot = none)) ∧
      (∀ a b sent, s.hlc.discovery = .reading a → nextAddress a = some b →
        s.hlc.slot = some ⟨false, none, ⟨a, .n0⟩, 0, 0, some sent⟩ → 0 < frameAge n sent →
        let heard (i : Six) (d : Half) : Prop := (lines.get i).good a = true ∧ (lines.get i).echo = some (0, d)
        let next : Prop := t.hlc.discovery = .reading b ∧ t.hlc.slot = some ⟨false, none, ⟨b, .n0⟩, 0, 0, some (n + 1)⟩
        ((∃ i d, heard i d) → next ∧
          ∃ l, t.hlc.heads = s.hlc.heads.set a (.answered l) ∧ ∀ i d, ⟨i, d⟩ ∈ l ↔ heard i d) ∧
        ((∀ i d, ¬heard i d) → 64 ≤ frameAge n sent → next ∧ t.hlc.heads = s.hlc.heads.set a .silent) ∧
        ((∀ i d, ¬heard i d) → frameAge n sent < 64 →
          t.hlc.discovery = .reading a ∧ t.hlc.slot = s.hlc.slot ∧ t.hlc.heads = s.hlc.heads))

/-- A bound head is LOST, or a point's record has gone stale, with both sections in MANUAL (R29 to R31, R53, R58): the
record says so; where the point was valid, a source is UNKNOWN with cause MEAS, and a bus is UNKNOWN with its stored
voltage kept. That the two rows act at any loss count and at any age is the model's (log entry 7). The ends of the
qualification timers (R50, R52, R56, R173), with both sections in MANUAL: a PICK timer ends in HEALTHY, which cancels the
source's start timer; a DROP or FAST timer ends in DOWN with the cause held; SOURCE_STATE is posted, and the tick moves to
the deadline (log entry 6). -/
def Obligations.SourcesLoseAndQualify : Prop :=
  (∀ (s : State) (p : Point), s.Calm → s.BothManual →
    let r := s.hlc.points.get p
    let After (t : State) (r' : PointRec) : Prop :=
      t.hlc = { s.hlc with points := s.hlc.points.set p r' } ∧ t.bcu = s.bcu ∧ t.seqs = s.seqs ∧
      (∀ x, p = .src x → r.valid = true → s.srcState x ≠ .absent → s.srcState x ≠ .unknown →
        t.squ = { s.squ with srcs := s.squ.srcs.set x ⟨.unknown, .meas, none, s.now⟩ }) ∧
      (∀ b, p = .bus b → r.valid = true →
        let q := s.squ.buses.get b
        let q' : BusRec := ⟨.unknown, q.vmax, if q.state = .unknown then q.entered else s.now⟩
        t.squ = { s.squ with buses := s.squ.buses.set b q' }) ∧
      (r.valid = false → t.squ = s.squ)
    (r.bound.isSome = true → r.status = .present →
      ∃ t, exec (.headLost p) s = .next t ∧ After t { r with status := .lost, loss := 32 }) ∧
    (r.fresh = true → ∃ t, exec (.recordStale p) s = .next t ∧ After t { r with fresh := false })) ∧
  ∀ (s : State) (x : Src) (d : Nat), s.Still →
    let q := s.squ.srcs.get x
    let now := max s.now d
    let put (st : SrcState) (cause : Cause) : State := post (.sourceState x st q.state cause)
      { s with now := now, squ := { s.squ with srcs := s.squ.srcs.set x ⟨st, cause, none, now⟩ } }
    (q.timer = some (.pick, d) → exec (.pickExpiry x) s = .next { put .healthy .none with
      mdc := { s.mdc with runs := s.mdc.runs.set x { s.mdc.runs.get x with startAt := none } } }) ∧
    (q.timer = some (.drop, d) ∨ q.timer = some (.fast, d) →
      exec (.dropFastExpiry x) s = .next (put .down q.cause))

/-- A link start's own events (R24, R25, R37, R38). HL_RSTn is released: frames run from frame 0, whose TAG carries no
command and no written output word, and discovery waits for READY on every line. The first phase ends with the read of
address 0. An address that does not answer is silent and the next is read. The tick moves to the deadline (log entry 6).
That the rows of discovery act at any frame, with any lines seen, and with no read sent yet is the model's (log entry 7);
R38's frames are FramesAreHeard's. -/
def Obligations.LinkStartGoesOn : Prop :=
  ∀ s : State, s.Calm →
    (∀ d, s.hlc.rstEnd = some d → s.hlc.slot = none → s.hlc.words.get .n0 = ⟨0, false⟩ →
      exec .linkResetRelease s = .next { s with
        now := max s.now d
        hlc := { s.hlc with
          rstLow := false, rstEnd := none, running := true, frameNo := 0, outTurn := .n0
          outFrame := ⟨0x800000, 0, 0, 0⟩, discovery := .ready (.all false) } }) ∧
    (∀ seen, s.hlc.discovery = .ready seen →
      exec .discoveryReadyEnd s = .next { s with hlc := { s.hlc with
        discovery := .reading .n0, slot := some ⟨false, none, ⟨.n0, .n0⟩, 0, 0, none⟩ } }) ∧
    (∀ a b, s.hlc.discovery = .reading a → nextAddress a = some b →
      exec .discoveryReadSilent s = .next (runAll { s with hlc := { s.hlc with
        heads := s.hlc.heads.set a .silent, discovery := .reading b
        slot := some ⟨false, none, ⟨b, .n0⟩, 0, 0, none⟩ } }))

/-- The end of a link start after power-up (R38 to R40, R42), at a frame in which the last address answers or falls
silent, or by the silent row alone: with a map that agrees with the record the link is BOUND, every point holds its head
and no notice is posted; otherwise it is UNBOUND, no point is bound anew, and MAP_MISMATCH is posted with the differing
points and the conflicts. LINK_RESTART is answered. The end of the power-up link start is AdoptionFollowsTheBoard's. That
the silent row ends the read at any frame is the model's (log entry 7). -/
def Obligations.LinkStartEnds : Prop :=
  ∀ (s : State) (tag : Byte), s.Calm → s.adopted = true → s.hlc.discovery = .reading .n5 →
    s.spt.service = some ⟨0x62, tag, .deferred⟩ →
    let Ends (e : HeadEntry) (t : State) : Prop :=
      let u := s.discovered e
      (u.mapAgrees = true → t.hlc.link = .bound ∧
        ∀ p, t.hlc.points.get p = match u.hlc.discovered p with
          | some h => { PointRec.unbound with bound := some h, status := .present }
          | none => s.hlc.points.get p) ∧
      (u.mapAgrees = true → t.spt.queue = s.spt.queue ∧ t.spt.overflow = s.spt.overflow) ∧
      (u.mapAgrees = false → t.hlc.link = .unbound ∧ t.hlc.points = s.hlc.points ∧
        let v := post (.mapMismatch u.differing u.hlc.duplicate u.hlc.lineConflict u.hlc.unrecognised) s
        t.spt.queue = v.spt.queue ∧ t.spt.overflow = v.spt.overflow) ∧
      t.hlc.heads = u.hlc.heads ∧ t.hlc.discovery = .idle ∧
      t.spt.service = some ⟨0x62, tag, .formed ⟨.ok, .restart t.hlc.link u.hlc.duplicate u.hlc.lineConflict
        u.hlc.unrecognised u.differing⟩⟩
    (∃ t, exec .discoveryReadSilent s = .next t ∧ Ends .silent t) ∧
    ∀ lines, s.LastReadEnds lines →
      ∃ t e, exec (.headFrameEnd lines) s = .next t ∧ HeardAs lines .n5 e ∧ Ends e t

/-! ### Outputs, the alarm and the generators (chapters 5 and 9) -/

/-- OUTPUT_SET (R96). A line number outside 1 to 4 or a value other than 0 or 1 is refused BAD_ARGUMENT. Otherwise the
latch of the line takes the value and no other latch moves; in LEVEL use the line is at the value at once, and in TRACK
use it stays where its signal has it; the reply has the latch and the line's level. There is no hypothesis on modes or
the block. -/
def Obligations.OutputSetWrites : Prop :=
  ∀ (s : State) (tag l v : Byte), s.Ready →
    (l.toNat < 1 ∨ 4 < l.toNat ∨ 1 < v.toNat →
      exec (.outputSet tag l v) s = .next (s.replied 0x70 tag .badArgument .empty)) ∧
    ∀ k : Fin 4, l.toNat = k.val + 1 → v.toNat ≤ 1 →
      let b := decide (v.toNat = 1)
      ∃ t : State, exec (.outputSet tag l v) s = .next (t.replied 0x70 tag .ok (.output b (t.anLine k))) ∧
        t = { s with mdc := { s.mdc with latches := t.mdc.latches } } ∧
        (∀ j : Fin 4, t.mdc.latches.getLsbD j.val = if j = k then b else s.mdc.latches.getLsbD j.val) ∧
        (s.plan.glob (useItem k) = 0 → t.anLine k = b) ∧
        (s.plan.glob (useItem k) ≠ 0 → t.anLine k = s.signal (s.plan.glob (useItem k)))

/-- The ALARM one-shot ends by ALARM_SILENCE and at its end time (R97, R98). GEN_TEST is NOT_AVAILABLE for a source that
is no generator; otherwise the test flag takes the value and the run requests are formed again (R173). A cool-down ends in
OFF, or is noted while BLOCKED (R172, R174); a start timer that ends is idle and GEN_START_FAIL is posted (R173). The tick
moves to the deadline (log entry 6). -/
def Obligations.OutputsFollow : Prop :=
  ∀ (s : State) (tag v : Byte) (b : Bool),
    (s.Ready → exec (.alarmSilence tag) s =
      .next ({ s with mdc := { s.mdc with alarm := none } }.replied 0x71 tag .ok .empty)) ∧
    (∀ d, s.inReset = false → s.mdc.alarm = some d →
      exec .alarmEnd s = .next { s with now := max s.now d, mdc := { s.mdc with alarm := none } }) ∧
    (∀ x, s.Ready → s.adopted = true → bitOf v = some b →
      (s.plan.kind x ≠ .generator →
        exec (.genTest tag (srcCode x) v) s = .next (s.replied 0x72 tag .notAvailable .empty)) ∧
      (s.plan.kind x = .generator →
        let t := runAll ({ s with mdc := { s.mdc with
          runs := s.mdc.runs.set x { s.mdc.runs.get x with test := b } } }.awaiting 0x72 tag)
        exec (.genTest tag (srcCode x) v) s =
          .next (t.replied 0x72 tag .ok (.gen b (t.mdc.runs.get x).state (t.runLine x))))) ∧
    (∀ x d, s.inReset = false →
      let r := s.mdc.runs.get x
      let put (r' : RunRec) : State := { s with now := max s.now d, mdc := { s.mdc with runs := s.mdc.runs.set x r' } }
      (r.coolAt = some d → s.blocked = false →
        exec (.coolDownExpiry x) s =
          .next (put { r with state := .off, coolAt := none, startAt := none, noted := false })) ∧
      (r.coolAt = some d → s.blocked = true →
        exec (.coolDownExpiry x) s = .next (put { r with coolAt := none, noted := true })) ∧
      (r.startAt = some d →
        exec (.startTimerExpiry x) s = .next (post (.genStartFail x r.startUsed (s.squ.srcs.get x).state
          (s.squ.srcs.get x).cause) (put { r with startAt := none }))))

/-! ### Breaker channels (chapter 5) -/

/-- A manual close (R81, R166, R167). Of a channel of a section in AUTO every manual operation is refused WRONG_MODE. A
close that would make a second source path is computed on first, and the result is kept: without the permit it is refused
INTERLOCK with the result. Otherwise it is refused, in this order, BLOCKED, INTERLOCK while the trip pulse runs, BUSY
while the close pulse runs, NOT_AVAILABLE; or accepted: the close pulse runs for close_width, the channel is CLOSING and
commanded closed, and the operation is set with its confirm deadline. Nothing else changes. -/
def Obligations.ManualCloses : Prop :=
  ∀ (s : State) (tag : Byte) (c : Chan), s.Ready → s.adopted = true →
    let cmd := Instr.breakerOperateClose tag (chanCode c)
    (∀ n, chanOf c n = true → s.mode n = .auto →
      exec cmd s = .next (s.replied 0x21 tag .wrongMode .empty) ∧
      exec (.breakerOperateTrip tag (chanCode c)) s = .next (s.replied 0x21 tag .wrongMode .empty) ∧
      exec (.breakerOperateStop tag (chanCode c)) s = .next (s.replied 0x21 tag .wrongMode .empty)) ∧
    (s.manualChan c = true → s.secondPath c = true →
      let p := manualPair c
      let q := s.coincidence p .closedItems p.busSec s.lastFrame
      q.permit = false → exec cmd s = .next ((keep p q s).replied 0x21 tag .interlock (.coincidence q))) ∧
    (s.Still →
      let p := manualPair c
      let q := s.coincidence p .closedItems p.busSec s.lastFrame
      let u := if s.secondPath c then keep p q s else s
      let r := s.bcu.get c
      (s.secondPath c = true → q.permit = true) →
      (s.blocked = true → exec cmd s = .next (u.replied 0x21 tag .blocked .empty)) ∧
      (s.blocked = false → r.tripEnd.isSome = true → exec cmd s = .next (u.replied 0x21 tag .interlock .empty)) ∧
      (s.blocked = false → r.tripEnd = none → r.closeEnd.isSome = true →
        exec cmd s = .next (u.replied 0x21 tag .busy .empty)) ∧
      (s.blocked = false → r.tripEnd = none → r.closeEnd = none → r.available = false →
        exec cmd s = .next (u.replied 0x21 tag .notAvailable .empty)) ∧
      (s.blocked = false → r.tripEnd = none → r.closeEnd = none → r.available = true →
        exec cmd s = .next ({ u with bcu := s.bcu.set c (s.closeBegun c .mdc s.now) }.replied
          0x21 tag .ok (.position .closing))))

/-- A manual trip (R80, R82, R132) is accepted unless BLOCKED: the close pulse ends, the trip pulse runs for trip_width
and the channel is commanded open; from OPEN, CLOSED and CLOSING it becomes OPENING with its operation, from the others
the position stays; a close of BKT that is withdrawn releases the tie. A stop ends the running pulses and no more
(R83). -/
def Obligations.ManualTripAndStop : Prop :=
  ∀ (s : State) (tag : Byte) (c : Chan), s.Ready → s.Still → s.adopted = true →
    let r := s.bcu.get c
    let go : Bool := r.position == .isOpen || r.position == .isClosed || r.position == .closing
    let r' : ChanRec := { r with
      closeEnd := none, tripEnd := some (s.now + s.plan.chan c .tripWidth), cmdClosed := false
      position := if go then .opening else r.position
      op := if go then some ⟨.trip, .mdc, s.now, s.now + s.plan.chan c .tripConfirm, false⟩ else r.op }
    let r'' : ChanRec := { r with
      closeEnd := none, tripEnd := none
      op := r.op.map fun o => { o with stopped := o.stopped || r.closeEnd.isSome } }
    (s.blocked = true → exec (.breakerOperateTrip tag (chanCode c)) s = .next (s.replied 0x21 tag .blocked .empty)) ∧
    (s.blocked = false → exec (.breakerOperateTrip tag (chanCode c)) s = .next ({ s with
      bcu := s.bcu.set c r'
      owner := if c = Chan.bkt ∧ r.position = Position.closing ∧ r.op.isSome then none else s.owner }.replied
        0x21 tag .ok (.position r'.position))) ∧
    exec (.breakerOperateStop tag (chanCode c)) s =
      .next ({ s with bcu := s.bcu.set c r'' }.replied 0x21 tag .ok (.position r.position))

/-- PRT is asserted (R90, R97), with both sections in MANUAL: the channel is LOCKED with no operation and no close pulse,
a running trip pulse goes on, a claim of the tie by a close in flight is released, LOCKOUT is posted and the ALARM
triggered; a channel that is LOCKED already stays so and nothing is posted. A release of PRT leaves the channel LOCKED.
The row's raw and sampled levels are the model's (log entry 10). CHANNEL_CLEAR (R91): a FAULTED channel, or a LOCKED one
with PRT released, returns to CLOSED or OPEN by aux with its pulses ended and its fault cause cleared; with PRT asserted
it is refused INTERLOCK; any other channel stays. -/
def Obligations.LockoutLocksAndClears : Prop :=
  (∀ (s : State) (c : Chan), s.Still → s.adopted = true →
    let r := s.bcu.get c
    (r.prot.accepted = false → r.position ≠ .locked → exec (.prtAccepted c true) s =
      .next (post (.lockout c r.position r.aux.accepted) { s with
        bcu := s.bcu.set c { r with
          prot := ⟨true, true, true, none⟩, position := .locked, closeEnd := none, op := none }
        owner := if c = .bkt ∧ r.op.any (·.kind == .close) then none else s.owner
        mdc := { s.mdc with alarm := some (s.now + s.plan.glob .alarmTime * 1000) } })) ∧
    (r.position = .locked → exec (.prtAccepted c true) s =
      .next { s with bcu := s.bcu.set c { r with prot := ⟨true, true, true, none⟩ } }) ∧
    (exec (.prtAccepted c false) s =
      .next { s with bcu := s.bcu.set c { r with prot := ⟨false, false, false, none⟩ } })) ∧
  ∀ (s : State) (tag : Byte) (c : Chan), s.Ready → s.Still →
    let r := s.bcu.get c
    let cmd := Instr.channelClear tag (chanCode c)
    let st : Position := if r.aux.accepted then .isClosed else .isOpen
    (r.position = .faulted ∨ (r.position = .locked ∧ r.prot.accepted = false) →
      exec cmd s = .next ({ s with bcu := s.bcu.set c { r with
        closeEnd := none, tripEnd := none, position := st, fault := .none } }.replied 0x22 tag .ok (.position st))) ∧
    (r.position = .locked → r.prot.accepted = true → exec cmd s = .next (s.replied 0x22 tag .interlock .empty)) ∧
    (r.position ≠ .faulted → r.position ≠ .locked → exec cmd s = .next (s.replied 0x22 tag .ok (.position r.position)))

/-- A pulse that reaches the end of its width ends, and nothing else changes (R83). A new RDY or RCK level is the
channel's, and nothing else of it changes (R78, R92); a settle timer that ends is idle (R177): these two are stated with
both sections in MANUAL, where no selection waits for them. The tick moves to a deadline that is reached (log entry 6); a
level's row sets the raw and the sampled level too (log entry 10). -/
def Obligations.PulsesAndLevels : Prop :=
  ∀ (s : State) (c : Chan) (d : Nat),
    (s.inReset = false → (s.bcu.get c).closeEnd = some d → exec (.closePulseEnd c) s =
      .next { s with now := max s.now d, bcu := s.bcu.set c { s.bcu.get c with closeEnd := none } }) ∧
    (s.inReset = false → (s.bcu.get c).tripEnd = some d → exec (.tripPulseEnd c) s =
      .next { s with now := max s.now d, bcu := s.bcu.set c { s.bcu.get c with tripEnd := none } }) ∧
    (s.Still → ∀ level, exec (.rdyRckAccepted c .rdy level) s =
        .next { s with bcu := s.bcu.set c { s.bcu.get c with ready := ⟨level, level, level, none⟩ } } ∧
      exec (.rdyRckAccepted c .rck level) s =
        .next { s with bcu := s.bcu.set c { s.bcu.get c with racked := ⟨level, level, level, none⟩ } }) ∧
    (s.Still → ∀ n, s.mdc.settle.get n = some d → exec (.settleExpiry n) s =
      .next { s with now := max s.now d, mdc := { s.mdc with settle := s.mdc.settle.set n none } })

/-- Confirm deadlines (R84, R85, R97, R132), with both sections in MANUAL. A close not confirmed: the channel is FAULTED
with FAIL_TO_CLOSE, its pulses ended, a claim of the tie released. A trip at its deadline: OPEN with aux open, FAULTED
with FAIL_TO_OPEN with aux closed. A fault triggers the ALARM and posts BREAKER_FAULT. The tick moves to the deadline (log
entry 6). -/
def Obligations.ConfirmDeadlines : Prop :=
  ∀ (s : State) (c : Chan) (o : Operation), s.Still → (s.bcu.get c).op = some o →
    let r := s.bcu.get c
    let now := max s.now o.deadline
    let fault (k : ChanFault) : State := post (.breakerFault c k o.requester) { s with
      now := now
      bcu := s.bcu.set c { r with closeEnd := none, tripEnd := none, position := .faulted, fault := k, op := none }
      mdc := { s.mdc with alarm := some (now + s.plan.glob .alarmTime * 1000) } }
    (o.kind = .close → exec (.closeConfirmDeadline c) s =
      .next { fault .failToClose with owner := if c = .bkt then none else s.owner }) ∧
    (o.kind = .trip → s.closed c = true → exec (.tripConfirmDeadline c) s = .next (fault .failToOpen)) ∧
    (o.kind = .trip → s.closed c = false → exec (.tripConfirmDeadline c) s = .next { s with
      now := now, bcu := s.bcu.set c { r with tripEnd := none, position := .isOpen, op := none } })

/-- A new AUX level (R76, R84 to R86, R88, R89, R133), with both sections in MANUAL. Closing in CLOSING confirms: the
channel is CLOSED, its pulse ended, the measured time kept and the close time learned. Opening in OPENING confirms: OPEN,
its pulse ended. A closing in OPENING changes nothing of the channel but aux. In OPEN and CLOSED the position follows; in FAULTED and
LOCKED it is held. The tie follows the board: both SOLE and no owner with BKT open; the section that holds the one path
SUPPLYING, the other DEPENDENT and the owner, with BKT closed on one; roles and owner kept with none or several. An
external change posts BREAKER_EXTERNAL, with the held position (R88, R89). Each section told of the change follows the
source paths of its island (R165): one makes it FED on the entry of that path with lost cleared, none WAIT_SOURCE with
feed NONE, several keep its state and feed; a HALTED one stays so and its feed follows. A section not told stays as it is.
That the owner is NONE even while a close of BKT is in flight is log entry 32, and the row's raw and sampled levels are
log entry 10. -/
def Obligations.AuxChangeFollows : Prop :=
  ∀ (s : State) (c : Chan) (level : Bool), s.Calm → s.BothManual → s.pst.pendingPage = none → s.adopted = true →
    (s.bcu.get c).aux.accepted = !level →
    ∃ t, exec (.auxAccepted c level) s = .next t ∧
      (∀ d, d ≠ c → t.bcu.get d = s.bcu.get d) ∧ t.hlc = s.hlc ∧ t.pst.pages = s.pst.pages ∧ t.mdc.modes = s.mdc.modes ∧
      let r := s.bcu.get c
      let u := t.bcu.get c
      u.aux = ⟨level, level, level, none⟩ ∧ u.ready = r.ready ∧ u.racked = r.racked ∧ u.prot = r.prot ∧
      u.cmdClosed = r.cmdClosed ∧ u.fault = r.fault ∧
      (∀ o, r.position = .closing → r.op = some o → level = true →
        u.position = .isClosed ∧ u.op = none ∧ u.closeEnd = none ∧ u.lastM = some (s.now - o.trigAt) ∧
        u.tc = learn r.tc (s.now - o.trigAt)) ∧
      (r.position = .opening → level = false → u.position = .isOpen ∧ u.op = none ∧ u.tripEnd = none) ∧
      (r.position = .opening → level = true → u.position = .opening ∧ u.op = r.op ∧ u.tripEnd = r.tripEnd) ∧
      (r.position = .isOpen ∨ r.position = .isClosed →
        u.position = if level then .isClosed else .isOpen) ∧
      (r.position = .faulted ∨ r.position = .locked → u.position = r.position ∧ u.op = r.op) ∧
      (t.closed .bkt = false → t.owner = none ∧ ∀ n, (t.ctx n).role = .sole) ∧
      (∀ x, t.closed .bkt = true → t.closedPaths allSecs = [x] → (t.ctx (srcSec x)).role = .supplying ∧
        (t.ctx (srcSec x).other).role = .dependent ∧ t.owner = some (srcSec x).other) ∧
      (t.closed .bkt = true → (t.closedPaths allSecs).length ≠ 1 →
        t.owner = s.owner ∧ ∀ n, (t.ctx n).role = (s.ctx n).role) ∧
      (r.position = .isOpen ∨ r.position = .isClosed →
        t.Noted (.breakerExternal c (if level then .externalClose else .externalOpen) none)) ∧
      (r.position = .faulted ∨ r.position = .locked →
        t.Noted (.breakerExternal c
          (if level then .externalClose
            else if r.position = .locked ∧ r.prot.accepted = true then .protectionOpen else .externalOpen)
          (some r.position))) ∧
      ∀ n, let k := s.ctx n
        let v := t.ctx n
        let entry (x : Src) : Entry := if srcSec x = n then srcEntry x else .tie
        if chanOf c n = true ∨ t.closed .bkt = true then
          (k.state = .fed ∨ k.state = .waitSource →
            match t.paths n with
            | [] => v.state = .waitSource ∧ v.feed = none
            | [x] => v.state = .fed ∧ v.feed = some (entry x) ∧ v.lost = none
            | _ => v.state = k.state ∧ v.feed = k.feed) ∧
          (k.state = .halted → v.state = .halted ∧ v.haltCause = k.haltCause ∧
            v.feed = match t.paths n with
              | [x] => some (entry x)
              | _ => none)
        else v = { k with role := v.role }

/-! ### Sources (chapter 3) -/

/-- A summary arrives with the only bound point, in a still state (R27, R48 to R52, R57). For a source: in UNKNOWN and
DOWN an acceptable one starts PICKUP with t_pick (HEALTHY at once with t_pick 0), any other gives DOWN with its cause, and
DOWN that stays DOWN keeps its entered time with no notice. In PICKUP an acceptable one changes nothing, any other gives
DOWN. In HEALTHY one outside the dropout band starts DROPOUT with t_drop, or with the lesser of t_fast and t_drop if it is
dead, and 0 gives DOWN at once, with the cause against the pickup band (R47). In DROPOUT one inside the band gives
HEALTHY, a live one outside it changes the cause alone, and a dead one shortens the timer to t_fast, or gives DOWN with
t_fast 0. For a bus, the state and the stored voltage are those of the summary. -/
def Obligations.SummaryJudged : Prop :=
  ∀ (s : State) (p : Point) (h : HeadPlace) (lines : BySix InLine) (m : Summary), s.Still →
    s.hlc.running = true → s.hlc.discovery = .idle → s.hlc.slot = none → (s.hlc.points.get p).bound = some h →
    (∀ q, q ≠ p → (s.hlc.points.get q).bound = none) → (lines.get h.line).good h.addr = true →
    (lines.get h.line).summary s.hlc.frameNo = some m →
    let it := s.plan
    ∃ t, exec (.headFrameEnd lines) s = .next t ∧
      (∀ x, p = .src x →
        let q := s.squ.srcs.get x
        let u := t.squ.srcs.get x
        let pick := it.causeIn x (it.pickupBand x) m
        let drop := it.causeIn x (it.dropoutBand x) m
        let dead := it.deadSummary x m
        let down (c : Cause) : QualRec := ⟨.down, c, none, s.now⟩
        let wait := if dead then min (it.src x .tFast) (it.src x .tDrop) else it.src x .tDrop
        (∀ y, y ≠ x → t.squ.srcs.get y = s.squ.srcs.get y) ∧ t.squ.buses = s.squ.buses ∧
        (q.state = .absent → u = q) ∧
        (q.state = .unknown ∨ q.state = .down → pick = .none →
          u = if it.src x .tPick = 0 then ⟨.healthy, .none, none, s.now⟩
            else ⟨.pickup, .none, some (.pick, s.now + it.src x .tPick), s.now⟩) ∧
        (q.state = .unknown → pick ≠ .none → u = down pick) ∧
        (q.state = .down → pick ≠ .none → u = { q with cause := pick } ∧
          ((s.hlc.points.get p).status ≠ .lost → t.spt.queue = s.spt.queue)) ∧
        (q.state = .pickup → pick = .none → u = q) ∧
        (q.state = .pickup → pick ≠ .none → u = down pick) ∧
        (q.state = .healthy → drop = .none → u = q) ∧
        (q.state = .healthy → drop ≠ .none →
          u = if wait = 0 then down pick
            else ⟨.dropout, drop, some (if dead then .fast else .drop, s.now + wait), s.now⟩) ∧
        (q.state = .dropout → drop = .none → u = ⟨.healthy, .none, none, s.now⟩) ∧
        (q.state = .dropout → drop ≠ .none → dead = false → u = { q with cause := drop }) ∧
        (∀ k d, q.state = .dropout → q.timer = some (k, d) → dead = true →
          u = if it.src x .tFast = 0 ∨ d ≤ s.now then down .dead
            else if s.now + it.src x .tFast < d then
              { q with cause := .dead, timer := some (.fast, s.now + it.src x .tFast) }
            else { q with cause := .dead })) ∧
      (∀ b, p = .bus b →
        t.squ.srcs = s.squ.srcs ∧ (∀ c, c ≠ b → t.squ.buses.get c = s.squ.buses.get c) ∧
        (t.squ.buses.get b).state = it.busState b m.vmax ∧ (t.squ.buses.get b).vmax = m.vmax ∧
        (t.squ.buses.get b).entered =
          if (s.squ.buses.get b).state = it.busState b m.vmax then (s.squ.buses.get b).entered else s.now)

/-! ### The block (chapter 9) -/

/-- The block's entry and release (R80, R160, R168, R169), by BLOCK_SET and by BLKn, with both sections in MANUAL: at the
entry every pulse stops and the shed lines go off where the page says so; at the release every line follows its feeder.
A change of one cause under the other changes nothing else. The row's raw and sampled levels are log entry 10, and its
operand is read as asserted (log entry 15). Sections in AUTO are BlockInAuto's. -/
def Obligations.BlockActs : Prop :=
  ∀ (s : State) (tag v : Byte) (b : Bool), s.Calm → s.BothManual →
    let After (blocked : Bool) (t : State) : Prop :=
      t.blocked = blocked ∧
      (s.blocked = false → blocked = true →
        (∀ c, t.bcu.get c = (s.bcu.get c).stop) ∧
        t.lmg.lines = if s.plan.glob .linesOnBlock = 1 then linesOff else s.lmg.lines) ∧
      (s.blocked = true → blocked = false → t.bcu = s.bcu ∧ ∀ f, t.lmg.lines.get f = (t.feeder f).shed) ∧
      (s.blocked = blocked → t.bcu = s.bcu ∧ t.lmg = s.lmg) ∧
      t.seqs = s.seqs ∧ t.mdc.modes = s.mdc.modes ∧ t.hlc = s.hlc ∧ t.pst = s.pst
    (s.Ready → bitOf v = some b → ∃ t, exec (.blockSet tag v) s = .next t ∧
      After (s.mdc.blk.accepted || b) t ∧ t.mdc.hostBlock = b ∧ t.mdc.blk = s.mdc.blk ∧
      t.spt.service = some ⟨0x32, tag, .formed ⟨.ok, .block b s.mdc.blk.accepted (s.mdc.blk.accepted || b)⟩⟩) ∧
    (∃ t, exec (.blknAccepted b) s = .next t ∧
      After (b || s.mdc.hostBlock) t ∧ t.mdc.hostBlock = s.mdc.hostBlock ∧ t.mdc.blk = ⟨b, b, b, none⟩)

/-! ### Modes and sections (chapters 6, 7 and 9) -/

/-- MODE_SET (R163, R164). A mode the section has already changes nothing. To AUTO: refused NO_PLAN while no page is
active; otherwise the section is in AUTO and the other's mode stays, and one that is HALTED, or on an island of two or
more paths FED, or waiting for a source while BKT is closed there (R143, log entry 56), rests as it is. To MANUAL: refused BUSY
in OPENING, CLOSING and OVERLAP; otherwise, with the other section in MANUAL, or with BKT open in a state in AUTO that this
is no event for, DECAY drops to WAIT_SOURCE, SYNC and RETURN_WAIT to FED, the section's timers are idle, and the board is
left as it stands. RESUME (R125), stated with the other section in MANUAL: OK with no change outside HALTED; INTERLOCK while
the cause stands; otherwise the halt cause and the lost entry are cleared and the section is FED by its one source path, in
WAIT_SOURCE with none, or with two or more HALTED with PARALLEL_FOUND, with no new notice (log entry 14). In AUTO, with BKT
open, a section without a path then selects: it is in DECAY with the first entry that fits, where its bus is not DEAD under an
open method that closes on it, or it waits. -/
def Obligations.ModesAndResume : Prop :=
  ∀ (s : State) (tag : Byte) (n : Sec), s.Ready → s.adopted = true →
    let c := s.ctx n
    let o := s.ctx n.other
    let moving := c.state = .opening ∨ c.state = .closing ∨ c.state = .overlap
    let undisturbed : Prop := s.mode n.other = .manual ∨ s.closed .bkt = false ∧
      (o.state = .fed ∧ s.plan.sec n.other .autoReturn = 0 ∨ o.state = .opening ∨ o.state = .closing ∨ o.state = .overlap ∨
        o.state = .halted)
    (s.mode n = .auto → exec (.modeSetAuto tag (secCode n)) s =
      .next (s.replied 0x31 tag .ok (.mode .auto c.state))) ∧
    (s.mode n = .manual → exec (.modeSetManual tag (secCode n)) s =
      .next (s.replied 0x31 tag .ok (.mode .manual c.state))) ∧
    (s.mode n = .manual → s.pst.active = none →
      exec (.modeSetAuto tag (secCode n)) s = .next (s.replied 0x31 tag .noPlan .empty)) ∧
    (s.mode n = .manual → s.pst.active ≠ none → ∃ t, exec (.modeSetAuto tag (secCode n)) s = .next t ∧
      t.mode n = .auto ∧ t.mode n.other = s.mode n.other ∧ t.hlc = s.hlc ∧ t.pst.pages = s.pst.pages ∧
      t.spt.service = some ⟨0x31, tag, .formed ⟨.ok, .mode .auto (t.ctx n).state⟩⟩ ∧
      (c.state = .halted ∨ (2 ≤ (s.paths n).length ∧ (c.state = .fed ∨ c.state = .waitSource ∧ s.closed .bkt = true)) →
        t.ctx n = c ∧ t.bcu = s.bcu ∧ t.seqs = s.seqs)) ∧
    (s.mode n = .auto → moving → exec (.modeSetManual tag (secCode n)) s = .next (s.replied 0x31 tag .busy .empty)) ∧
    (s.mode n = .auto → ¬moving → s.NoGenerator → s.pst.pendingPage = none → undisturbed →
      ∃ t, exec (.modeSetManual tag (secCode n)) s = .next t ∧ t.mode n = .manual ∧ t.mode n.other = s.mode n.other ∧
      (t.ctx n).state = c.state.dropped.getD c.state ∧ (t.ctx n).feed = c.feed ∧
      (c.state.dropped.isSome = true → (t.ctx n).tReturn = none ∧ (t.ctx n).tSyncWait = none ∧
        (t.ctx n).tDecayMax = none ∧ (t.ctx n).tDead = none ∧ (t.ctx n).target = none) ∧
      t.ctx n.other = s.ctx n.other ∧ t.bcu = s.bcu ∧ t.owner = s.owner ∧ t.hlc = s.hlc ∧ t.pst = s.pst ∧
      t.spt.service = some ⟨0x31, tag, .formed ⟨.ok, .mode .manual (t.ctx n).state⟩⟩) ∧
    (let cmd := Instr.resume tag (secCode n)
      let ok (t : State) : Prop := t.spt.service = some ⟨0x34, tag, .formed ⟨.ok, .empty⟩⟩
      ((s.ctx n).state ≠ .halted → exec cmd s = .next (s.replied 0x34 tag .ok .empty)) ∧
      ((s.ctx n).state = .halted → s.haltStands n = true → exec cmd s = .next (s.replied 0x34 tag .interlock .empty)) ∧
      (s.AutoAlone n → s.TieOpen → (s.ctx n).state = .halted → s.haltStands n = false →
        (∀ x, s.paths n = [x] → s.srcState x ≠ .down → s.plan.sec n .autoReturn = 0 →
          ∃ t, exec cmd s = .next t ∧ s.RestKept n t ∧ t.FedOn n (some (srcEntry x)) ∧ (t.ctx n).haltCause = .none ∧
            (t.ctx n).haltChan = none ∧ t.bcu = s.bcu ∧ ok t) ∧
        (s.paths n = [] →
          let next := if s.held n then none else (s.prefs n).find? (s.targetFits n)
          (next = none → ∃ t, exec cmd s = .next t ∧ s.RestKept n t ∧ t.Waits n ∧ (t.ctx n).haltCause = .none ∧
            (t.ctx n).haltChan = none ∧ (t.ctx n).lost = none ∧ t.bcu = s.bcu ∧ ok t) ∧
          ∀ e, next = some e → ¬s.ResidualNow n →
            ∃ t, exec cmd s = .next t ∧ s.RestKept n t ∧ t.DecayBegun n e ∧ (t.ctx n).haltCause = .none ∧
              (t.ctx n).haltChan = none ∧ (t.ctx n).lost = none ∧ t.bcu = s.bcu ∧ ok t ∧
              t.Noted (.transferBegin n none (some e) false .reselect))) ∧
      (s.Still → (s.ctx n).state = .halted → s.haltStands n = false → (s.paths n).length ≤ 1 → ∃ t, exec cmd s = .next t ∧
        (t.ctx n).state = (if s.paths n = [] then .waitSource else .fed) ∧ (t.ctx n).feed = s.adoptedFeed n ∧
        (t.ctx n).haltCause = .none ∧ (t.ctx n).haltChan = none ∧ (t.ctx n).lost = none ∧
        t.ctx n.other = s.ctx n.other ∧ t.bcu = s.bcu ∧ t.owner = s.owner ∧ ok t) ∧
      (s.Still ∨ s.AutoAlone n → (s.ctx n).state = .halted → s.haltStands n = false → 2 ≤ (s.paths n).length → ∃ t, exec cmd s = .next t ∧
        (t.ctx n).state = .halted ∧ (t.ctx n).haltCause = .parallelFound ∧ (t.ctx n).feed = none ∧
        (t.ctx n).haltChan = (s.paths n).getLast?.map srcChan ∧ t.spt.queue = s.spt.queue ∧ t.mdc = s.mdc ∧ t.bcu = s.bcu ∧ ok t))

/-- TRANSFER_REQUEST. Its refusals, in their order (R109, R135): WRONG_MODE in MANUAL; BLOCKED; BUSY outside FED and
RETURN_WAIT or while the settle timer runs; BUSY for an own entry of a dependent section whose supplying one is not so
settled; NOT_AVAILABLE for the feed itself, an entry not on the list and one that is not eligible, with the claim reason
for TIE (log entry 36). Nothing else changes.

An accepted request of a section in AUTO, the other in MANUAL (R101, R105, R106, R109, R111, R114). With the return method
CLOSED and both sources HEALTHY the section enters SYNC with t_sync_wait running and its watch set; otherwise the closed
incomer of its feed, BKT where it is fed by TIE, is tripped and the section is OPENING. The target and the origin are set, and the request is answered
OK. -/
def Obligations.TransferRequested : Prop :=
  ∀ (s : State) (tag : Byte) (n : Sec) (e : Entry), s.Ready → s.adopted = true →
    let c := s.ctx n
    let cmd := Instr.transferRequest tag (secCode n) (entryCode e)
    let answers (st : Status) (b : Body) : Prop := exec cmd s = .next (s.replied 0x33 tag st b)
    let busy := (s.mdc.settle.get n).isSome || !c.state.settled ||
      (e != .tie && c.role == .dependent && !(s.ctx n.other).state.settled)
    (s.mode n = .manual → answers .wrongMode .empty) ∧
    (s.mode n = .auto → s.blocked = true → answers .blocked .empty) ∧
    (s.mode n = .auto → s.blocked = false → busy = true → answers .busy .empty) ∧
    (s.mode n = .auto → s.blocked = false → busy = false →
      (c.feed = some e ∨ e ∉ s.plan.prefs n → answers .notAvailable .empty) ∧
      (c.feed ≠ some e → e ∈ s.plan.prefs n → s.eligible n ⟨n, e⟩ = false →
        (e = .tie → ∀ r, s.claimTest n = some r → answers .notAvailable (.claimTest r)) ∧
        (e ≠ .tie ∨ s.claimTest n = none → answers .notAvailable .empty))) ∧
    (s.AutoAlone n → s.blocked = false → busy = false → c.feed ≠ some e → e ∈ s.plan.prefs n →
      s.eligible n ⟨n, e⟩ = true → c.lost = none →
      let closed := s.returnsClosed n && s.healthy? (s.feedSource n) && s.healthy? (s.entrySource ⟨n, e⟩)
      let Begun (t : State) : Prop :=
        (t.ctx n).target = some ⟨n, e⟩ ∧ (t.ctx n).origin = c.feed.map (⟨n, ·⟩) ∧ (t.ctx n).startMs = s.now ∧
        (t.ctx n).feed = c.feed ∧ t.ctx n.other = s.ctx n.other ∧ t.hlc = s.hlc ∧ t.mdc.modes = s.mdc.modes ∧
        t.spt.service = some ⟨0x33, tag, .formed ⟨.ok, .empty⟩⟩
      (closed = true → ∃ t, exec cmd s = .next t ∧ Begun t ∧
        (t.ctx n).state = .sync ∧ (t.ctx n).closedTrans = true ∧
        (t.ctx n).tSyncWait = some (s.now + s.plan.sec n .tSyncWait * 1000) ∧
        t.ccu.watches.get n = some ⟨targetPair ⟨n, e⟩, .closedItems, n⟩ ∧ t.bcu = s.bcu) ∧
      (∀ f, closed = false → c.feed = some f → (s.bcu.get (entryChan ⟨n, f⟩)).position = .isClosed →
        s.closed (entryChan ⟨n, f⟩) = true →
        ∃ t, exec cmd s = .next t ∧ Begun t ∧ (t.ctx n).state = .opening ∧ (t.ctx n).closedTrans = false ∧
          t.bcu = s.bcu.set (entryChan ⟨n, f⟩) (s.tripBegun (entryChan ⟨n, f⟩) (.seq n) s.now)))

/-! ### A section in AUTO (chapter 6) -/

/-- A section in AUTO, the other in MANUAL and BKT open, loses its feed (R103, R105 to R107, R110, R111, R150, R152). In
FED, RETURN_WAIT and SYNC, the feed source's DOWN and an EXTERNAL_OPEN of its one closed incomer are a loss: lost takes
the feed with its flag set, and selection takes the first entry of the list, the lost one aside, that is eligible. With a
target the load is shed against its source, TRANSFER_BEGIN is posted, and the section is OPENING with the closed incomer
tripped, or in DECAY where it has opened; with none, or held, it waits with its incomer left closed. A PROTECTION_OPEN
halts it with BUS_FAULT. Where its other incomer is closed too, a parallel left by hand, the opening is judged by the path
that stays (R123, R164), the reading of log entry 44: the section is FED by that incomer. That the tick moves to the
deadline is log entry 6, and the row's raw and sampled levels are log entry 10. -/
def Obligations.FeedLostInAuto : Prop :=
  ∀ (s : State) (n : Sec) (e : Entry) (x : Src), s.AutoAlone n → s.TieOpen → (s.ctx n).feed = some e →
    ownSource n e = some x →
    (s.ctx n).state = .fed ∨ (s.ctx n).state = .returnWait ∨ (s.ctx n).state = .sync →
    let ch := entryChan ⟨n, e⟩
    let r := s.bcu.get ch
    let next := if s.held n then none else (s.plan.prefs n).find? fun g => g != e && s.targetFits n ⟨n, g⟩
    let Lost (cause : StartCause) (t : State) : Prop :=
      s.RestKept n t ∧ (t.ctx n).feed = none ∧ (t.ctx n).lost = some ⟨e, true⟩ ∧ (next = none → t.Waits n) ∧
      ∀ g, next = some g →
        (t.ctx n).target = some ⟨n, g⟩ ∧ (t.ctx n).origin = some ⟨n, e⟩ ∧ (t.ctx n).startMs = t.now ∧
        (t.ctx n).closedTrans = false ∧ (t.ctx n).method = .none ∧
        t.lmg.anns.get n = some ⟨⟨n, g⟩, s.entrySource ⟨n, g⟩, g == .tie⟩ ∧
        (∀ y, s.entrySource ⟨n, g⟩ = some y →
          let secs := if g = .tie then allSecs else [n]
          t.sumOf secs ≤ s.plan.budget y ∨ ∀ f, feederSec f ∈ secs → t.sheddable f = false) ∧
        t.Noted (.transferBegin n (some ⟨n, e⟩) (some ⟨n, g⟩) false cause)
    (∀ d, ((s.squ.srcs.get x).timer = some (.drop, d) ∨ (s.squ.srcs.get x).timer = some (.fast, d)) →
      r.position = .isClosed → r.aux.accepted = true →
      ∃ t, exec (.dropFastExpiry x) s = .next t ∧ Lost .loss t ∧ t.now = max s.now d ∧
        (next = none → t.bcu = s.bcu) ∧
        (next ≠ none → (t.ctx n).state = .opening ∧ t.bcu = s.bcu.set ch (s.tripBegun ch (.seq n) t.now))) ∧
    (r.position = .isClosed → s.paths n = [x] → (s.squ.buses.get n).state ≠ .dead →
      ∃ t, exec (.auxAccepted ch false) s = .next t ∧ Lost .externalOpen t ∧ (t.ctx n).openMs = s.now ∧
        (∀ g, next = some g → t.DecayBegun n ⟨n, g⟩) ∧
        t.bcu = s.bcu.set ch { r with aux := ⟨false, false, false, none⟩, position := .isOpen }) ∧
    (∀ y, r.position = .isClosed → r.aux.accepted = true → srcSec y = n → y ≠ x → s.closed (srcChan y) = true →
      s.srcState y ≠ .down → s.plan.sec n .autoReturn = 0 → s.lmg.anns.get n = none →
      ∃ t, exec (.auxAccepted ch false) s = .next t ∧ s.RestKept n t ∧ t.FedOn n (some (srcEntry y)) ∧
        t.bcu = s.bcu.set ch { r with aux := ⟨false, false, false, none⟩, position := .isOpen }) ∧
    (r.position = .locked → r.prot.accepted = true → r.aux.accepted = true →
      ∃ t, exec (.auxAccepted ch false) s = .next t ∧ s.RestKept n t ∧
        t.HaltedWith n (s.ctx n).state .busFault (some ch) ∧
        t.bcu = s.bcu.set ch { r with aux := ⟨false, false, false, none⟩ })

/-- The states at rest of a section in AUTO, the other in MANUAL, BKT open (R105, R107, R108, R110, R113, R123). In
WAIT_SOURCE: the lost entry's source is HEALTHY again with its incomer closed, and the section is FED by it; a source that
becomes HEALTHY brings the first eligible entry of the list. With the lost incomer still closed the section is OPENING, or
HALTED where that incomer is FAULTED or LOCKED (R114); with it open the section is in DECAY, or on a DEAD bus under an open
method that closes on it CLOSING at once, by RESIDUAL, with the tie claimed where the entry is TIE (R115, R116, R130). Without
an entry the section waits on. An incomer that closes by itself feeds it. In WAIT_SOURCE
and in DECAY, BKT that closes onto the other section's one path, in an operation or not (log entries 27 and 28), feeds it:
it is FED on TIE and DEPENDENT (R7). In FED: a ready preferred entry starts t_return, and an incomer that closes beside
the one path halts it with PARALLEL_FOUND. In RETURN_WAIT: a preferred entry that is ready no more takes it back to FED.
The tick moves to the deadline (log entry 6), a contact's row sets its raw and sampled levels too (log entry 10), and
HEAD_LOST acts at any loss count (log entry 7). -/
def Obligations.RestStatesInAuto : Prop :=
  ∀ (s : State) (n : Sec) (x : Src), s.AutoAlone n → s.TieOpen →
    let c := s.ctx n
    let picked (d : Nat) : Prop := (s.squ.srcs.get x).timer = some (.pick, d)
    let q : QualRec := ⟨.healthy, .none, none, 0⟩
    let u : State := { s with squ := { s.squ with srcs := s.squ.srcs.set x q } }
    (∀ d l, c.state = .waitSource → picked d → c.lost = some l → ownSource n l.entry = some x →
      s.closed (entryChan ⟨n, l.entry⟩) = true → s.plan.sec n .autoReturn = 0 →
      ∃ t, exec (.pickExpiry x) s = .next t ∧ s.RestKept n t ∧ t.FedOn n (some l.entry) ∧ t.bcu = s.bcu) ∧
    (∀ d, c.state = .waitSource → c.feed = none → picked d → s.held n = false →
      (∀ l, c.lost = some l → s.entrySource ⟨n, l.entry⟩ ≠ some x ∧ s.healthy? (s.entrySource ⟨n, l.entry⟩) = false) →
      let next := (s.prefs n).find? (u.eligible n)
      let Chosen (e : SecEntry) (t : State) : Prop := (t.ctx n).target = some e ∧ (t.ctx n).lost = c.lost ∧
        (t.ctx n).feed = none ∧ t.Noted (.transferBegin n (t.ctx n).origin (some e) false .reselect)
      (next = none → ∃ t, exec (.pickExpiry x) s = .next t ∧ s.RestKept n t ∧ (t.ctx n).state = .waitSource ∧
        (t.ctx n).target = none ∧ (t.ctx n).lost = c.lost ∧ (t.ctx n).feed = none ∧ t.bcu = s.bcu) ∧
      (∀ e l, next = some e → c.lost = some l → s.closed (entryChan ⟨n, l.entry⟩) = true →
        let ch := entryChan ⟨n, l.entry⟩
        let r := s.bcu.get ch
        (r.position = .isClosed → ∃ t, exec (.pickExpiry x) s = .next t ∧ s.RestKept n t ∧ Chosen e t ∧
          (t.ctx n).state = .opening ∧ t.bcu = s.bcu.set ch (s.tripBegun ch (.seq n) t.now)) ∧
        (r.position = .faulted ∨ r.position = .locked → ∃ t, exec (.pickExpiry x) s = .next t ∧ s.RestKept n t ∧
          t.HaltedWith n .waitSource (if r.position = .locked then .busFault else .failToOpen) (some ch) ∧
          t.bcu = s.bcu.set ch { r with
            closeEnd := none, tripEnd := some (t.now + s.plan.chan ch .tripWidth), cmdClosed := false })) ∧
      (∀ e, next = some e → (∀ l, c.lost = some l → s.closed (entryChan ⟨n, l.entry⟩) = false) →
        (¬s.ResidualNow n → ∃ t, exec (.pickExpiry x) s = .next t ∧ s.RestKept n t ∧ Chosen e t ∧ t.DecayBegun n e ∧
          t.bcu = s.bcu) ∧
        (s.ResidualNow n → s.closeRefusal (entryChan e) = none → ∃ t, exec (.pickExpiry x) s = .next t ∧ Chosen e t ∧
          t.ResidualBegun n e ∧ t.bcu = s.bcu.set (entryChan e) (s.closeBegun (entryChan e) (.seq n) t.now) ∧
          t.owner = (if e.entry = .tie then some n else none) ∧ t.ctx n.other = s.ctx n.other ∧ t.hlc = s.hlc ∧
          t.pst = s.pst ∧ t.mdc.modes = s.mdc.modes))) ∧
    (c.state = .waitSource → c.feed = none → srcSec x = n → s.paths n = [] → s.NoneHealthy n →
      (s.bcu.get (srcChan x)).position = .isOpen → s.srcState x ≠ .down → s.plan.sec n .autoReturn = 0 →
      ∃ t, exec (.auxAccepted (srcChan x) true) s = .next t ∧ s.RestKept n t ∧ t.FedOn n (some (srcEntry x)) ∧
        t.bcu = s.bcu.set (srcChan x) { s.bcu.get (srcChan x) with
          aux := ⟨true, true, true, none⟩, position := .isClosed }) ∧
    (∀ y, c.state = .waitSource ∨ c.state = .decay → s.paths n = [] → s.paths n.other = [y] → s.plan.sec n .autoReturn = 0 →
      ∃ t, exec (.auxAccepted .bkt true) s = .next t ∧ t.FedOn n (some .tie) ∧ (t.ctx n).role = .dependent ∧
        (t.ctx n.other).role = .supplying ∧ t.owner = some n ∧ t.hlc = s.hlc ∧ t.pst = s.pst) ∧
    (∀ d f e, c.state = .fed → c.feed = some f → picked d → s.preferred n = some e → f ≠ e → ownSource n e = some x →
      s.avail (entryChan ⟨n, e⟩) = true → s.held n = false → s.plan.sec n .autoReturn = 1 → 0 < s.plan.sec n .tReturn →
      ∃ t, exec (.pickExpiry x) s = .next t ∧ s.RestKept n t ∧ (t.ctx n).state = .returnWait ∧ (t.ctx n).feed = some f ∧
        (t.ctx n).tReturn = some (t.now + s.plan.sec n .tReturn * 1000) ∧ t.now = max s.now d ∧ t.bcu = s.bcu) ∧
    (∀ y, c.state = .fed → srcSec x = n → s.paths n = [y] → (s.bcu.get (srcChan x)).position = .isOpen →
      s.closed (srcChan x) = false → s.plan.sec n .autoReturn = 0 →
      ∃ t, exec (.auxAccepted (srcChan x) true) s = .next t ∧ s.RestKept n t ∧
        t.HaltedWith n .fed .parallelFound (some (srcChan x)) ∧ (t.ctx n).feed = none) ∧
    (∀ e, c.state = .returnWait → s.preferred n = some e → ownSource n e = some x → s.srcState x = .healthy →
      s.pointValid (.src x) = true → (∀ y, c.feed.bind (ownSource n) = some y → s.srcState y ≠ .down) →
      ∃ t, exec (.headLost (.src x)) s = .next t ∧ (t.ctx n).state = .fed ∧ (t.ctx n).feed = c.feed ∧
        (t.ctx n).tReturn = none ∧ t.ctx n.other = s.ctx n.other ∧ t.bcu = s.bcu)

/-- The open transition of a section in AUTO, the other in MANUAL, BKT open, towards an own entry (R114 to R120, R124,
R126). OPENING: the trip of the one closed incomer, confirmed by AUX or at its deadline, gives DECAY with a target still
eligible, or with no HEALTHY source WAIT_SOURCE; on a DEAD bus under an open method that closes on it, DECAY's close of such a
target follows at once, by RESIDUAL; with the section's other incomer closed too it is FED by that one (R123, R164), the
reading of log entry 44; its failure halts with FAIL_TO_OPEN, its lockout with BUS_FAULT. DECAY: the lost
source HEALTHY again clears the exclusion; a target that goes DOWN with no other HEALTHY gives WAIT_SOURCE. CLOSING:
confirmed gives FED with TRANSFER_DONE; failed halts with FAIL_TO_CLOSE; locked out with BUS_FAULT; the target's DOWN
stops the pulse, after which a confirmation is FED and lost at once, and a failure selects again: both wait with no
HEALTHY source. The tick moves to the deadline (log entry 6). In OPENING the trip is of any requester: that a sequencer is
told of one that another requested is log entry 48. -/
def Obligations.OpenTransferRuns : Prop :=
  ∀ (s : State) (n : Sec) (e : SecEntry) (y : Src) (o : Operation), s.AutoAlone n → s.TieOpen →
    let c := s.ctx n
    c.target = some e → e.sec = n → ownSource n e.entry = some y → c.closedTrans = false →
    (∀ ch z, c.state = .opening → s.oldChan n = some ch → ch ≠ .bkt → entryChan e ≠ ch → (s.bcu.get ch).op = some o →
      o.kind = .trip → (s.bcu.get ch).position = .opening →
      let Opened (t : State) : Prop :=
        (¬s.ResidualNow n ∨ s.NoneHealthy n → s.RestKept n t ∧ (t.ctx n).openMs = t.now ∧
          (s.eligible n e = true → t.DecayBegun n e) ∧ (s.NoneHealthy n → t.Waits n) ∧
          (t.bcu.get ch).position = .isOpen ∧ (t.bcu.get ch).tripEnd = none ∧ ∀ d, d ≠ ch → t.bcu.get d = s.bcu.get d) ∧
        (s.ResidualNow n → s.eligible n e = true → s.closeRefusal (entryChan e) = none →
          s.RestKept n t ∧ (t.ctx n).openMs = t.now ∧ t.ResidualBegun n e ∧
          t.bcu.get (entryChan e) = s.closeBegun (entryChan e) (.seq n) t.now ∧
          (t.bcu.get ch).position = .isOpen ∧ (t.bcu.get ch).tripEnd = none ∧
          ∀ d, d ≠ ch → d ≠ entryChan e → t.bcu.get d = s.bcu.get d)
      (s.paths n = [z] → srcChan z = ch →
        ∃ t, exec (.auxAccepted ch false) s = .next t ∧ t.now = s.now ∧ Opened t) ∧
      (s.closed ch = true → srcSec z = n → srcChan z ≠ ch → s.closed (srcChan z) = true → s.srcState z ≠ .down →
        s.plan.sec n .autoReturn = 0 →
        ∃ t, exec (.auxAccepted ch false) s = .next t ∧ s.RestKept n t ∧ t.FedOn n (some (srcEntry z))) ∧
      (s.paths n = [] → s.closed ch = false → ∃ t, exec (.tripConfirmDeadline ch) s = .next t ∧ t.now = max s.now o.deadline ∧ Opened t) ∧
      (s.closed ch = true → ∃ t, exec (.tripConfirmDeadline ch) s = .next t ∧ s.RestKept n t ∧
        t.HaltedWith n .opening .failToOpen (some ch) ∧ (t.bcu.get ch).position = .faulted) ∧
      ((s.bcu.get ch).prot.accepted = false → ∃ t, exec (.prtAccepted ch true) s = .next t ∧ s.RestKept n t ∧
        t.HaltedWith n .opening .busFault (some ch) ∧ (t.bcu.get ch).position = .locked ∧
        (t.bcu.get ch).tripEnd = (s.bcu.get ch).tripEnd)) ∧
    (c.state = .decay →
      (∀ l x d, c.lost = some l → ownSource n l.entry = some x → (s.squ.srcs.get x).timer = some (.pick, d) →
        s.targetFits n e = true → ∃ t, exec (.pickExpiry x) s = .next t ∧ s.RestKept n t ∧
          t.ctx n = { c with lost := some ⟨l.entry, false⟩ } ∧ t.bcu = s.bcu) ∧
      (∀ d, (s.squ.srcs.get y).timer = some (.drop, d) → c.feed = none →
        (∀ g, s.healthy? (s.entrySource ⟨n, g⟩) = true → s.entrySource ⟨n, g⟩ = some y) →
        ∃ t, exec (.dropFastExpiry y) s = .next t ∧ s.RestKept n t ∧ t.Waits n ∧ (t.ctx n).lost = c.lost ∧ t.bcu = s.bcu)) ∧
    (let ch := entryChan e
     let r := s.bcu.get ch
     c.state = .closing → r.position = .closing → r.op = some o → o.kind = .close → o.requester = .seq n →
     r.aux.accepted = false → s.plan.sec n .autoReturn = 0 →
      (c.closeStop = false → s.srcState y ≠ .down →
        ∃ t, exec (.auxAccepted ch true) s = .next t ∧ s.RestKept n t ∧ t.FedOn n (some e.entry) ∧
          t.Noted (.transferDone n c.origin (some e) c.method (s.now - c.openMs) c.closeRec.angleSlip
            (some (s.now - o.trigAt))) ∧
          ∀ i, t.island (t.islandIdOf n) = some i → i.cond = .fed →
            i.restoreAt = some (s.now + s.plan.glob .tStep * 1000)) ∧
      (c.closeStop = false →
        (∃ t, exec (.closeConfirmDeadline ch) s = .next t ∧ s.RestKept n t ∧
          t.HaltedWith n .closing .failToClose (some ch) ∧ (t.bcu.get ch).position = .faulted) ∧
        (∀ d, (s.squ.srcs.get y).timer = some (.drop, d) →
          ∃ t, exec (.dropFastExpiry y) s = .next t ∧ s.RestKept n t ∧ t.ctx n = { c with closeStop := true } ∧
            t.bcu = s.bcu.set ch r.stop)) ∧
      (r.prot.accepted = false → ∃ t, exec (.prtAccepted ch true) s = .next t ∧ s.RestKept n t ∧
        t.HaltedWith n .closing .busFault (some ch) ∧ (t.bcu.get ch).position = .locked) ∧
      (c.closeStop = true → s.NoneHealthy n →
        (c.feed = none → ∃ t, exec (.closeConfirmDeadline ch) s = .next t ∧ s.RestKept n t ∧ t.Waits n ∧
          (t.ctx n).closeStop = false ∧ (t.ctx n).openMs = c.openMs) ∧
        (s.srcState y = .down → s.paths n = [] →
          ∃ t, exec (.auxAccepted ch true) s = .next t ∧ s.RestKept n t ∧ t.Waits n ∧
            (t.ctx n).lost = some ⟨e.entry, true⟩ ∧
            t.Noted (.transferDone n c.origin (some e) c.method (s.now - c.openMs) c.closeRec.angleSlip
              (some (s.now - o.trigAt))))))

/-- The closed transition of a section in AUTO, the other in MANUAL, BKT open, from one own entry to the other (R111, R120
to R122, R126). CLOSING: confirmed gives OVERLAP with the old incomer's trip begun and t_overlap running, or the target's
own trip where its close was stopped; failed gives FED on the old feed with CLOSE_FAIL. OVERLAP: the outgoing trip
confirmed gives FED, with TRANSFER_DONE and a dead time of 0, or with CLOSE_FAIL where the target went out; failed halts
with FAIL_TO_OPEN, the target tripped. SYNC: a target source that leaves HEALTHY takes it back to FED. The tick moves to
the deadline (log entry 6). In OVERLAP the trip is of any requester: that a sequencer is told of one that another
requested is log entry 48. That HEAD_LOST, by which the source leaves HEALTHY, acts at any loss count is log entry 7. -/
def Obligations.ClosedTransferRuns : Prop :=
  ∀ (s : State) (n : Sec) (e : SecEntry) (f : Entry) (y : Src) (o : Operation), s.AutoAlone n → s.TieOpen →
    let c := s.ctx n
    let old := entryChan ⟨n, f⟩
    let new := entryChan e
    c.target = some e → e.sec = n → ownSource n e.entry = some y → c.feed = some f → f ≠ .tie → f ≠ e.entry →
    c.closedTrans = true → s.blocked = false → s.plan.sec n .autoReturn = 0 →
    (∀ z, ownSource n f = some z ∨ z = y → s.srcState z ≠ .down) →
    let tripping (t : State) (ch : Chan) : Prop :=
      (t.bcu.get ch).position = .opening ∧ (t.bcu.get ch).cmdClosed = false ∧
      (t.bcu.get ch).tripEnd = some (t.now + s.plan.chan ch .tripWidth) ∧
      (t.bcu.get ch).op = some ⟨.trip, .seq n, t.now, t.now + s.plan.chan ch .tripConfirm, false⟩
    (c.state = .closing → (s.bcu.get new).position = .closing → (s.bcu.get new).op = some o → o.kind = .close →
      o.requester = .seq n → (s.bcu.get new).aux.accepted = false → (s.bcu.get old).position = .isClosed →
      (∃ t, exec (.auxAccepted new true) s = .next t ∧ s.RestKept n t ∧ (t.ctx n).state = .overlap ∧
        (t.ctx n).target = some e ∧ (t.ctx n).feed = some f ∧
        (t.ctx n).tOverlap = some (s.now + s.plan.sec n .tOverlap) ∧
        (t.ctx n).outgoing = (if c.closeStop then some e.entry else some f) ∧
        tripping t (if c.closeStop then new else old) ∧
        (t.bcu.get new).aux.accepted = true ∧ (c.closeStop = false → (t.bcu.get new).position = .isClosed)) ∧
      ∃ t, exec (.closeConfirmDeadline new) s = .next t ∧ s.RestKept n t ∧ t.FedOn n (some f) ∧
        (t.bcu.get new).position = .faulted ∧
        t.Noted (.closeFail n new (if c.closeStop then .targetDown else .failToClose))) ∧
    (∀ out, c.state = .overlap → c.outgoing = some out → (out = f ∨ out = e.entry) →
      (s.bcu.get (entryChan ⟨n, out⟩)).position = .opening → (s.bcu.get (entryChan ⟨n, out⟩)).op = some o → o.kind = .trip →
      s.closed (entryChan ⟨n, out⟩) = true →
      (∃ t, exec (.auxAccepted (entryChan ⟨n, out⟩) false) s = .next t ∧ s.RestKept n t ∧
        t.FedOn n (if out = f then some e.entry else some f) ∧
        (out = f → t.Noted (.transferDone n c.origin (some e) c.method 0 c.closeRec.angleSlip
          (some ((s.bcu.get new).lastM.getD 0)))) ∧
        (out = e.entry → t.Noted (.closeFail n new .targetDown))) ∧
      ((s.bcu.get new).position = .isClosed ∨ out = e.entry →
        ∃ t, exec (.tripConfirmDeadline (entryChan ⟨n, out⟩)) s = .next t ∧ s.RestKept n t ∧
          t.HaltedWith n .overlap .failToOpen (some (entryChan ⟨n, out⟩)) ∧
          (t.bcu.get (entryChan ⟨n, out⟩)).position = .faulted ∧ (out = f → tripping t new))) ∧
    (c.state = .sync → s.pointValid (.src y) = true → s.srcState y = .healthy →
      ∃ t, exec (.headLost (.src y)) s = .next t ∧ t.FedOn n (some f) ∧ t.ctx n.other = s.ctx n.other ∧ t.bcu = s.bcu)

/-- The watched computations of a section in AUTO, the other in MANUAL (R64, R65, R66, R111, R116), at the end of a frame
that brings a summary of its own bus point and no other event. The result computed for the watch is kept for its pair. In
DECAY a permit closes the target IN_PHASE and in SYNC as a closed transition, with the result's angle and slip in the
close record; a result without one changes nothing else. A bus that becomes DEAD closes the target of DECAY by RESIDUAL
under the open methods 0 and 1. A bus head that is LOST gives the watch a result that is not available (log entry 7: at
any loss count). That a close clears close_stopped is log entry 23. -/
def Obligations.WatchesDecide : Prop :=
  ∀ (s : State) (n : Sec) (e : SecEntry) (y : Src), s.AutoAlone n → s.ccu.watches.get n.other = none →
    let c := s.ctx n
    let ch := entryChan e
    c.target = some e → e.sec = n → ownSource n e.entry = some y → c.decayOver = false → c.deadOver = false →
    let w : Watch := ⟨targetPair e, if c.state = .sync then .closedItems else .openItems, n⟩
    (∀ (lines : BySix InLine) (h : HeadPlace) (m : Summary), s.hlc.running = true → s.hlc.discovery = .idle →
      s.hlc.slot = none → (s.hlc.points.get (.bus n)).bound = some h → (lines.get h.line).good h.addr = true →
      (lines.get h.line).summary s.hlc.frameNo = some m →
      (∀ q, q ≠ .bus n → s.eventful lines s.hlc.frameNo q = false) →
      let Closing (method : Method) (t : State) : Prop :=
        (t.ctx n).state = .closing ∧ (t.ctx n).method = method ∧ (t.ctx n).target = some e ∧ (t.ctx n).closeStop = false ∧
        (t.ctx n).tDecayMax = none ∧ (t.ctx n).tDead = none ∧ (t.ctx n).tSyncWait = none ∧
        t.ccu.watches.get n = none ∧ t.bcu = s.bcu.set ch (s.closeBegun ch (.seq n) s.now)
      (c.state = .decay → s.plan.sec n .openMethod ≤ 1 → (s.squ.buses.get n).state ≠ .dead →
        s.plan.busState n m.vmax = .dead → s.closeRefusal ch = none →
        ∃ t, exec (.headFrameEnd lines) s = .next t ∧ Closing .residual t ∧
          (t.ctx n).closeRec = ⟨c.lastResult.bind (·.angleSlip), s.now⟩) ∧
      (c.state = .sync ∨ (c.state = .decay ∧ s.plan.sec n .openMethod = 0 ∧ s.plan.busState n m.vmax ≠ .dead) →
        s.ccu.watches.get n = some w → s.closeRefusal ch = none →
        ∃ t, exec (.headFrameEnd lines) s = .next t ∧
          let r := t.coincidence w.pair w.set n s.hlc.frameNo
          t.kept w.pair = some r ∧ t.ctx n.other = s.ctx n.other ∧
          (r.permit = true → Closing (if c.state = .sync then .closed else .inPhase) t ∧
            (t.ctx n).closeRec = ⟨r.angleSlip, s.now⟩) ∧
          (r.permit = false → t.ctx n = { c with lastResult := some r } ∧ t.bcu = s.bcu ∧
            t.ccu.watches.get n = some w))) ∧
    (c.state = .sync ∨ c.state = .decay → s.ccu.watches.get n = some w → s.pointValid (.bus n) = true →
      ∃ t, exec (.headLost (.bus n)) s = .next t ∧
        let r : PairResult := ⟨s.lastFrame, w.set, n, .notAvailable .invalid⟩
        t.kept w.pair = some r ∧ t.ctx n = { c with lastResult := some r } ∧ t.bcu = s.bcu ∧
        t.ccu.watches.get n = some w)

/-- The block's entry and release with one section in AUTO (R103, R113, R164, R169, R170). At the entry every pulse stops,
and a section in OPENING, CLOSING or OVERLAP is HALTED with BLOCKED_IN_TRANSFER and the channel in flight, one in DECAY
waits for a source, one in SYNC or RETURN_WAIT is FED, and one in FED, WAIT_SOURCE or HALTED stays. At the release with no
settle timer running, a section in FED with its return not due and one that waits with no HEALTHY source stay. The operand
is read as asserted (log entry 15). -/
def Obligations.BlockInAuto : Prop :=
  ∀ (s : State) (n : Sec), s.AutoAlone n →
    let c := s.ctx n
    (s.blocked = false → (∀ y, c.feed.bind (ownSource n) = some y → s.srcState y ≠ .down) →
      ∃ t, exec (.blknAccepted true) s = .next t ∧ t.blocked = true ∧ (∀ ch, t.bcu.get ch = (s.bcu.get ch).stop) ∧
        t.ctx n.other = s.ctx n.other ∧ t.hlc = s.hlc ∧ t.pst = s.pst ∧ t.mdc.modes = s.mdc.modes ∧
        (c.state = .opening ∨ c.state = .closing ∨ c.state = .overlap →
          t.HaltedWith n c.state .blockedInTransfer (s.inFlight n)) ∧
        (c.state = .decay → (t.ctx n).state = .waitSource ∧ (t.ctx n).target = none ∧ (t.ctx n).tDecayMax = none ∧
          (t.ctx n).tDead = none ∧ (t.ctx n).lost = c.lost) ∧
        (c.state = .sync ∨ c.state = .returnWait → t.FedOn n c.feed) ∧
        (c.state = .fed ∨ c.state = .waitSource ∨ c.state = .halted → t.ctx n = c)) ∧
    (s.mdc.blk.accepted = true → s.mdc.hostBlock = false → s.mdc.settle.get n = none →
      (c.state = .fed ∧ s.plan.sec n .autoReturn = 0) ∨
        (c.state = .waitSource ∧ c.target = none ∧ s.NoneHealthy n ∧ s.NoneHealthy n.other) →
      ∃ t, exec (.blknAccepted false) s = .next t ∧ t.blocked = false ∧ t.bcu = s.bcu ∧ s.RestKept n t ∧
        (t.ctx n).state = c.state ∧ (t.ctx n).feed = c.feed ∧ (t.ctx n).target = c.target ∧ (t.ctx n).lost = c.lost)

/-! ### The tie and two sections (chapter 7) -/

/-- The claim test, eligibility and readiness, the lists and the holds (R92, R103 to R105, R108, R129 to R131, R136 to
R138). The claim test passes exactly
where its five conditions hold, and else gives the first that fails; condition 4 is HEALTHY as the table has it (log entry
50). A sole or dependent section selects over its own list; a supplying one, and SEQ1 or else SEQ2 serving a closed-tie
island of two SOLE sections, over its own without TIE and then the other's without TIE while that is at rest (a halted
one's too: log entry 52). Selection is held by the block, the settle timer, the other section's service, and a closed return
of the other from TIE in CLOSING or OVERLAP: that the last is told by its feed and its transition, and so ends where BKT opens
by itself in CLOSING and not at the report of rest, is log entry 60. The target is the first eligible entry. An entry is eligible exactly where its source is HEALTHY, its
channel available, the other section's reached over a closed BKT, the claim granted for TIE, and it is not the excluded lost one;
the preferred entry is ready where those hold but the last, for a dependent section only while the other is in FED or RETURN_WAIT;
and the return is due where selection is not held, auto_return is yes, and it is ready and not the feed. -/
def Obligations.TieTestsAndSelection : Prop :=
  ∀ (s : State) (n : Sec),
    let o := s.ctx n.other
    let settled := o.state = .fed ∨ o.state = .returnWait
    let lends : Prop := ∃ f x, o.feed = some f ∧ ownSource n.other f = some x ∧ s.srcState x = .healthy
    let own := (s.plan.prefs n).map (⟨n, ·⟩ : Entry → SecEntry)
    let bare (m : Sec) : List SecEntry := ((s.plan.prefs m).filter (· ≠ .tie)).map (⟨m, ·⟩)
    (s.claimTest n = none ↔ s.owner = none ∧ s.avail .bkt = true ∧ settled ∧
      ∃ f x, o.feed = some f ∧ ownSource n.other f = some x ∧ s.srcState x = .healthy ∧ s.classOne ≤ s.plan.budget x) ∧
    (s.owner ≠ none → s.claimTest n = some .owned) ∧
    (s.owner = none → s.avail .bkt = false → s.claimTest n = some .tieUnavailable) ∧
    (s.owner = none → s.avail .bkt = true → ¬settled → s.claimTest n = some .otherBusy) ∧
    (s.owner = none → s.avail .bkt = true → settled → ¬lends → s.claimTest n = some .otherNotFed) ∧
    (∀ f x, s.owner = none → s.avail .bkt = true → settled → o.feed = some f → ownSource n.other f = some x →
      s.srcState x = .healthy → s.plan.budget x < s.classOne → s.claimTest n = some .budget) ∧
    (∀ x, s.plan.budget x = s.plan.src x .capacity * s.plan.src x .loadLimit / 100) ∧
    (s.closed .bkt = false → s.serving = none) ∧
    (s.closed .bkt = true → (∀ m, (s.ctx m).role = .sole) →
      let may (m : Sec) : Prop := s.mode m = .auto ∧ (s.ctx m).state ≠ .halted
      (s.serving = some .sec1 ↔ may .sec1) ∧ (s.serving = some .sec2 ↔ ¬may .sec1 ∧ may .sec2)) ∧
    ((s.ctx n).role ≠ .supplying → s.serving ≠ some n → s.selEntries n = own) ∧
    ((s.ctx n).role = .supplying ∨ s.serving = some n →
      s.selEntries n = bare n ++ if o.state.atRest then bare n.other else []) ∧
    (s.held n = true ↔ s.blocked = true ∨ s.mdc.settle.get n ≠ none ∨ s.serving = some n.other ∨
      (o.feed = some .tie ∧ o.closedTrans = true ∧ (o.state = .closing ∨ o.state = .overlap))) ∧
    (∀ e, s.choose n = some e ↔ ∃ l r, s.selEntries n = l ++ e :: r ∧ s.eligible n e = true ∧
      ∀ g ∈ l, s.eligible n g = false) ∧
    (∀ c, s.avail c = true ↔ (s.bcu.get c).position = .isOpen ∧ (s.bcu.get c).ready.accepted = true ∧
      (s.bcu.get c).racked.accepted = true) ∧
    (let supplied (e : SecEntry) : Prop := s.avail (entryChan e) = true ∧ ∃ x, s.srcState x = .healthy ∧
        if e.entry = .tie then s.paths e.sec.other = [x] else ownSource e.sec e.entry = some x
     (∀ e, s.eligible n e = true ↔ supplied e ∧ (e.sec = n ∨ s.closed .bkt = true ∧ e.entry ≠ .tie) ∧
        (e.entry = .tie → s.claimTest n = none) ∧ ∀ l, (s.ctx n).lost = some l → l.excluded = true → e ≠ ⟨n, l.entry⟩) ∧
     (∀ e, s.ready n e = true ↔ supplied ⟨n, e⟩ ∧ (e = .tie → s.claimTest n = none) ∧
        ((s.ctx n).role = .dependent → settled))) ∧
    (s.returnDue n = true ↔ s.held n = false ∧ s.plan.sec n .autoReturn = 1 ∧
      ∃ e l, s.plan.prefs n = e :: l ∧ (s.ctx n).feed ≠ some e ∧ s.ready n e = true)

/-- Two sections in AUTO on a closed tie (R7, R107, R135, R136, R141). The supplying section's close of an incomer of the
dependent one, confirmed, exchanges the roles: it is FED on TIE and DEPENDENT with TRANSFER_DONE, the other FED by its own
entry and SUPPLYING, and the owner moves. The close of an incomer of the supplying section's own, confirmed, feeds the
island again, and a dependent section in SYNC keeps its state and its feed. The tie that opens by itself leaves the
supplying section as it stands; the dependent one loses TIE, and selects over its own list, or with protection halts. A
source that goes DOWN is no event for a section fed by TIE in FED; that it is none in SYNC and in OPENING either is the
model's reading of R135 (log entry 26). At the end of a parallel of one path of each section, a section in AUTO whose own
incomer opens rests on TIE as DEPENDENT, and one fed by TIE whose own incomer is the path that stays is FED by it as
SUPPLYING (log entry 44). The returns are out of the way in each: auto_return is no. -/
def Obligations.TwoSectionsAct : Prop :=
  ∀ (s : State) (n : Sec), s.Calm → s.NoGenerator → s.pst.pendingPage = none → s.adopted = true → s.mode n = .auto →
    s.plan.sec n .autoReturn = 0 → s.plan.sec n.other .autoReturn = 0 → s.closed .bkt = true →
    let m := n.other
    let c := s.ctx n
    (∀ e y o, s.mode m = .auto → c.state = .closing → c.closedTrans = false → c.closeStop = false → c.target = some e →
      e.sec = m → ownSource m e.entry = some y → (s.ctx m).state = .fed → (s.ctx m).feed = some .tie →
      s.closedPaths allSecs = [] → (s.bcu.get (srcChan y)).position = .closing → (s.bcu.get (srcChan y)).op = some o →
      o.kind = .close → o.requester = .seq n → o.stopped = false → s.srcState y ≠ .down →
      ∃ t, exec (.auxAccepted (srcChan y) true) s = .next t ∧ t.FedOn n (some .tie) ∧ (t.ctx n).role = .dependent ∧
        (t.ctx m).state = .fed ∧ (t.ctx m).feed = some e.entry ∧ (t.ctx m).role = .supplying ∧ t.owner = some n ∧
        t.Noted (.transferDone n c.origin (some e) c.method (s.now - c.openMs) c.closeRec.angleSlip
          (some (s.now - o.trigAt)))) ∧
    (∀ e y o, s.mode m = .auto → c.state = .sync → c.feed = some .tie → c.role = .dependent →
      (∀ g, c.target = some g → g.entry ≠ .tie) → (s.ctx m).state = .closing → (s.ctx m).closedTrans = false →
      (s.ctx m).closeStop = false → (s.ctx m).target = some e → e.sec = m → ownSource m e.entry = some y →
      s.closedPaths allSecs = [] → (s.bcu.get (srcChan y)).position = .closing → (s.bcu.get (srcChan y)).op = some o →
      o.kind = .close → o.requester = .seq m → o.stopped = false → s.srcState y ≠ .down →
      ∃ t, exec (.auxAccepted (srcChan y) true) s = .next t ∧ t.ctx n = c ∧ t.FedOn m (some e.entry) ∧
        (t.ctx m).role = .supplying ∧ t.ccu.watches.get n = s.ccu.watches.get n) ∧
    (∀ x, s.mode m = .auto → c.state = .fed → c.feed = some .tie → c.role = .dependent →
      s.closedPaths allSecs = [x] → srcSec x = m → (s.ctx m).state = .fed → (s.ctx m).feed = some (srcEntry x) →
      (s.ctx m).role = .supplying →
      let next := if s.held n then none else (s.plan.prefs n).find? fun g => g != .tie && s.targetFits n ⟨n, g⟩
      let r := s.bcu.get .bkt
      let Split (t : State) : Prop := t.owner = none ∧ (t.ctx n).role = .sole ∧ t.ctx m = { s.ctx m with role := .sole }
      (r.position = .isClosed → (s.squ.buses.get n).state ≠ .dead →
        ∃ t, exec (.auxAccepted .bkt false) s = .next t ∧ Split t ∧ (t.ctx n).lost = some ⟨.tie, true⟩ ∧
          (t.ctx n).openMs = s.now ∧ (next = none → t.Waits n) ∧ ∀ g, next = some g → t.DecayBegun n ⟨n, g⟩ ∧
            t.Noted (.transferBegin n (some ⟨n, .tie⟩) (some ⟨n, g⟩) false .externalOpen)) ∧
      (r.position = .locked → r.prot.accepted = true →
        ∃ t, exec (.auxAccepted .bkt false) s = .next t ∧ Split t ∧ t.HaltedWith n .fed .busFault (some .bkt) ∧
          (t.ctx n).feed = none)) ∧
    (∀ x d, c.feed = some .tie → s.feedSource n = some x → (s.squ.srcs.get x).timer = some (.drop, d) →
      c.state = .fed ∨ c.state = .sync ∨ c.state = .opening →
      (∀ e, c.target = some e → e.entry ≠ .tie ∧ s.entrySource e ≠ some x) →
      ∃ t, exec (.dropFastExpiry x) s = .next t ∧ t.ctx n = c) ∧
    (∀ x y, s.mode m = .manual → c.state = .fed ∨ c.state = .returnWait ∨ c.state = .sync → srcSec x = n → srcSec y = m →
      c.feed = some (srcEntry x) → (∀ z, s.closed (srcChan z) = true ↔ z = x ∨ z = y) →
      (s.bcu.get (srcChan x)).position = .isClosed →
      ∃ t, exec (.auxAccepted (srcChan x) false) s = .next t ∧ (t.ctx n).state = .fed ∧ (t.ctx n).feed = some .tie ∧
        (t.ctx n).role = .dependent ∧ (t.ctx m).role = .supplying ∧ t.owner = some n) ∧
    (∀ x y, s.mode m = .manual → c.state = .fed ∨ c.state = .returnWait ∨ c.state = .sync → srcSec x = n → srcSec y = m →
      c.feed = some .tie → (∀ z, s.closed (srcChan z) = true ↔ z = x ∨ z = y) → s.srcState x ≠ .down →
      (s.bcu.get (srcChan y)).position = .isClosed → s.lmg.anns.get n = none →
      ∃ t, exec (.auxAccepted (srcChan y) false) s = .next t ∧ t.FedOn n (some (srcEntry x)) ∧
        (t.ctx n).role = .supplying ∧ (t.ctx m).role = .dependent ∧ t.owner = some m)

/-! ### The sequencers' timers (chapters 6 and 7) -/

/-- A sequencer's timer expires in AUTO, in the state it serves, with the other section in MANUAL (R101, R102, R110, R112,
R116, R117, R122, R124, R126).

t_return: a closed return enters SYNC towards the preferred entry, an open one trips the feed's incomer and is OPENING;
that an expiry during a hold acts too is log entry 30. t_sync_wait without fallback: back to FED with SYNC_TIMEOUT, where
no return is due; with fallback_open, the transition goes on as an open one, the feed's incomer tripped, with no notice.
t_decay_max without close_on_timeout: HALTED with DECAY_TIMEOUT; with it, the target's close is triggered by TIMEOUT.
t_dead under TIMED: the target's close is triggered and the section is CLOSING; where the trigger is refused and no other
entry is eligible it waits, with CLOSE_FAIL (that the refused entry is passed over within the event is log entry 63).
t_overlap: HALTED with OVERLAP_FAIL, the target tripped where the old feed is the outgoing entry and nothing where the target
is. The tick moves to the deadline, and later deadlines are counted from it (log entry 6). -/
def Obligations.SequencerTimersExpire : Prop :=
  ∀ (s : State) (n : Sec) (d : Nat), s.Calm → s.NoGenerator → s.pst.pendingPage = none →
    s.mode n = .auto → s.mode n.other = .manual →
    let c := s.ctx n
    let now := max s.now d
    let Rest (t : State) : Prop :=
      t.now = now ∧ t.ctx n.other = s.ctx n.other ∧ t.hlc = s.hlc ∧ t.mdc.modes = s.mdc.modes ∧ t.pst = s.pst
    let Halted (cause : HaltCause) (t : State) : Prop :=
      Rest t ∧ (t.ctx n).state = .halted ∧ (t.ctx n).haltCause = cause ∧ (t.ctx n).haltChan = none ∧
      (t.ctx n).feed = s.adoptedFeed n ∧ (t.ctx n).target = none ∧ (t.ctx n).tDecayMax = none ∧
      (t.ctx n).tDead = none ∧ (t.ctx n).tOverlap = none ∧
      t.mdc.alarm = some (now + s.plan.glob .alarmTime * 1000)
    (∀ e, c.state = .returnWait → c.tReturn = some d → s.preferred n = some e → s.returnsClosed n = true →
      s.healthy? (s.feedSource n) = true →
      ∃ t, exec (.tReturnExpiry n) s = .next t ∧ Rest t ∧ (t.ctx n).state = .sync ∧ (t.ctx n).tReturn = none ∧
        (t.ctx n).target = some ⟨n, e⟩ ∧ (t.ctx n).closedTrans = true ∧ (t.ctx n).feed = c.feed ∧
        (t.ctx n).tSyncWait = some (now + s.plan.sec n .tSyncWait * 1000) ∧
        t.ccu.watches.get n = some ⟨targetPair ⟨n, e⟩, .closedItems, n⟩ ∧ t.bcu = s.bcu) ∧
    (∀ e f, c.state = .returnWait → c.tReturn = some d → s.preferred n = some e → c.feed = some f → c.lost = none →
      (s.returnsClosed n && s.healthy? (s.feedSource n)) = false → s.blocked = false →
      (s.bcu.get (entryChan ⟨n, f⟩)).position = .isClosed → s.closed (entryChan ⟨n, f⟩) = true →
      ∃ t, exec (.tReturnExpiry n) s = .next t ∧ Rest t ∧ (t.ctx n).state = .opening ∧ (t.ctx n).tReturn = none ∧
        (t.ctx n).target = some ⟨n, e⟩ ∧ (t.ctx n).origin = some ⟨n, f⟩ ∧ (t.ctx n).closedTrans = false ∧
        (t.ctx n).feed = c.feed ∧
        t.bcu = s.bcu.set (entryChan ⟨n, f⟩) (s.tripBegun (entryChan ⟨n, f⟩) (.seq n) now)) ∧
    (c.state = .sync → c.tSyncWait = some d → s.plan.sec n .fallbackOpen ≠ 1 → s.plan.sec n .autoReturn = 0 →
      (∀ x, c.feed.bind (ownSource n) = some x → s.srcState x ≠ .down) →
      ∃ t, exec (.tSyncWaitExpiry n) s = .next t ∧ Rest t ∧ (t.ctx n).state = .fed ∧ (t.ctx n).target = none ∧
        (t.ctx n).tSyncWait = none ∧ (t.ctx n).feed = c.feed ∧ t.ccu.watches.get n = none ∧ t.bcu = s.bcu ∧
        t.spt = (post (.syncTimeout n c.target (c.lastResult.bind (·.angleSlip))) { s with now := now }).spt) ∧
    (∀ f, c.state = .sync → c.tSyncWait = some d → s.plan.sec n .fallbackOpen = 1 → c.lost = none → c.feed = some f →
      s.blocked = false → (s.bcu.get (entryChan ⟨n, f⟩)).position = .isClosed → s.closed (entryChan ⟨n, f⟩) = true →
      ∃ t, exec (.tSyncWaitExpiry n) s = .next t ∧ Rest t ∧ (t.ctx n).state = .opening ∧ (t.ctx n).closedTrans = false ∧
        (t.ctx n).tSyncWait = none ∧ (t.ctx n).target = c.target ∧ (t.ctx n).feed = c.feed ∧
        t.ccu.watches.get n = none ∧ t.spt = s.spt ∧
        t.bcu = s.bcu.set (entryChan ⟨n, f⟩) (s.tripBegun (entryChan ⟨n, f⟩) (.seq n) now)) ∧
    (c.state = .decay → c.tDecayMax = some d → s.plan.sec n .closeOnTimeout ≠ 1 →
      ∃ t, exec (.tDecayMaxExpiry n) s = .next t ∧ Halted .decayTimeout t ∧ t.bcu = s.bcu) ∧
    (∀ e, c.state = .decay → c.tDecayMax = some d → s.plan.sec n .closeOnTimeout = 1 → c.target = some e → e.entry ≠ .tie →
      s.closeRefusal (entryChan e) = none → (s.squ.buses.get n).state ≠ .dead → c.deadOver = false →
      ∃ t, exec (.tDecayMaxExpiry n) s = .next t ∧ Rest t ∧ (t.ctx n).state = .closing ∧ (t.ctx n).method = .timeout ∧
        (t.ctx n).target = some e ∧ (t.ctx n).decayOver = true ∧ (t.ctx n).tDecayMax = none ∧ (t.ctx n).tDead = none ∧
        (t.ctx n).closeRec = ⟨c.lastResult.bind (·.angleSlip), now⟩ ∧ t.ccu.watches.get n = none ∧
        t.bcu = s.bcu.set (entryChan e) (s.closeBegun (entryChan e) (.seq n) now)) ∧
    (∀ e, c.state = .decay → c.tDead = some d → s.plan.sec n .openMethod = 2 → c.target = some e → e.entry ≠ .tie →
      s.closeRefusal (entryChan e) = none →
      let ch := entryChan e
      ∃ t, exec (.tDeadExpiry n) s = .next t ∧ Rest t ∧ (t.ctx n).state = .closing ∧ (t.ctx n).method = .timed ∧
        (t.ctx n).target = some e ∧ (t.ctx n).tDead = none ∧ (t.ctx n).tDecayMax = none ∧
        (t.ctx n).closeRec.trigAt = now ∧ t.ccu.watches.get n = none ∧
        t.bcu = s.bcu.set ch (s.closeBegun ch (.seq n) now)) ∧
    (∀ e r, c.state = .decay → c.tDead = some d → s.plan.sec n .openMethod = 2 → c.target = some e → e.entry ≠ .tie →
      s.closeRefusal (entryChan e) = some r → (∀ g ∈ s.selEntries n, g ≠ e → s.eligible n g = false) →
      ∃ t, exec (.tDeadExpiry n) s = .next t ∧ Rest t ∧ (t.ctx n).state = .waitSource ∧ (t.ctx n).target = none ∧
        (t.ctx n).lost = c.lost ∧ (t.ctx n).tDead = none ∧ (t.ctx n).tDecayMax = none ∧ t.ccu.watches.get n = none ∧
        t.bcu = s.bcu ∧ t.Noted (.closeFail n (entryChan e) (.refused r))) ∧
    (c.state = .overlap → c.tOverlap = some d → c.outIsTarget = true →
      ∃ t, exec (.tOverlapExpiry n) s = .next t ∧ Halted .overlapFail t ∧ t.bcu = s.bcu) ∧
    (∀ e, c.state = .overlap → c.tOverlap = some d → c.target = some e → c.outIsTarget = false → s.blocked = false →
      (s.bcu.get (entryChan e)).position = .isClosed →
      let ch := entryChan e
      ∃ t, exec (.tOverlapExpiry n) s = .next t ∧ Halted .overlapFail t ∧
        t.bcu = s.bcu.set ch (s.tripBegun ch (.seq n) now))

/-! ### The load manager (chapter 8) -/

/-- The law of a shed pass (R151, R157, R159). The sheddable feeders of its sections stand in one order: class, highest
first, then number, highest first. The pass sheds a first part of that list: each feeder of it was shed while the sum was
above the budget, and it ends with the sum within the budget or with the list used up; a sum within the budget sheds
nothing. A feeder shed is SHED and pushed onto its own section's stack in that order, its line is asserted unless BLOCKED,
a SHED notice is posted with the sum after it, and the blocked stretch of its island ends. No other feeder, stack entry or
line changes. -/
def Obligations.ShedPassEnds : Prop :=
  ∀ (s : State) (secs : List Sec) (budget : Nat) (x : Src) (occ : Occasion),
    let t := shedPass secs budget x occ s
    let demand (f : Feeder) : Nat := (s.feeder f).demand
    (s.sumOf secs ≤ budget → t = s) ∧
    ∃ off rest : List Feeder,
      (∀ f, f ∈ off ++ rest ↔ feederSec f ∈ secs ∧ s.sheddable f = true) ∧
      (off ++ rest).Pairwise (fun f g => s.cls g < s.cls f ∨ s.cls g = s.cls f ∧ g < f) ∧
      (t.sumOf secs ≤ budget ∨ rest = []) ∧
      s.sumOf secs = t.sumOf secs + (off.map demand).sum ∧
      (∀ a f b, off = a ++ f :: b → budget < t.sumOf secs + demand f + (b.map demand).sum ∧
        t.Noted (.shed f occ (s.cls f) (demand f) (t.sumOf secs + (b.map demand).sum) budget x)) ∧
      (∀ f, t.feeder f = if f ∈ off then { s.feeder f with shed := true } else s.feeder f) ∧
      (∀ n, t.lmg.shedStack.get n = s.lmg.shedStack.get n ++ off.filter (fun f => feederSec f = n)) ∧
      (∀ f, t.lmg.lines.get f = if f ∈ off ∧ s.blocked = false then true else s.lmg.lines.get f) ∧
      ∀ f ∈ off, ∀ u, t.island (s.islandIdOf (feederSec f)) = some u → u.stretch = none

/-- An island's timers (R151, R153, R155 to R159). A restore timer that expires, with t_ovl above 0: not held, with the
candidate's need within the budget, the candidate is CONNECTED, leaves its stack, and its line is released, no other
feeder moves, RESTORE is posted and the blocked stretch ends; with a need above it, no feeder moves and RESTORE_BLOCKED is
posted, once in a stretch, which names the candidate; held, or with empty stacks, no feeder moves and nothing is posted.
In each case the timer is started again, from the tick of the expiry (log entry 6), while the island is FED with a stack
not empty, and is idle otherwise. An overload timer that expires runs a shed pass: the timer is idle, and the sum is
within the budget or no sheddable feeder is left. -/
def Obligations.IslandTimersExpire : Prop :=
  ∀ (s : State) (i : IslandId) (r : IslandRec) (x : Src) (d : Nat), s.inReset = false → s.island i = some r →
    r.source = some x →
    let again (any : Bool) : Option Nat :=
      if r.cond = .fed ∧ any = true then some (max s.now d + s.plan.glob .tStep * 1000) else none
    (∀ f, r.restoreAt = some d → 0 < s.plan.glob .tOvl → s.anyShed i = true → s.restoreHeld i = false →
      s.candidate i = some f → s.sumOf (islandSecs i) + s.need f ≤ s.plan.budget x →
      ∃ t, exec (.restoreTimerExpiry i) s = .next t ∧
        t.lmg.feeders = s.lmg.feeders.set f { s.feeder f with shed := false } ∧
        t.lmg.shedStack = s.lmg.shedStack.set (feederSec f) (s.lmg.shedStack.get (feederSec f)).dropLast ∧
        t.lmg.lines = s.lmg.lines.set f false ∧
        t.spt = (post (.restore f .step (s.need f) (t.sumOf (islandSecs i)) (s.plan.budget x))
          { s with now := max s.now d }).spt ∧
        (∃ u, t.island i = some u ∧ u.stretch = none ∧ u.restoreAt = again (t.anyShed i)) ∧
        t.bcu = s.bcu ∧ t.seqs = s.seqs ∧ t.hlc = s.hlc ∧ t.pst = s.pst) ∧
    (∀ f, r.restoreAt = some d → s.anyShed i = true → s.restoreHeld i = false → s.candidate i = some f →
      s.plan.budget x < s.sumOf (islandSecs i) + s.need f →
      ∃ t, exec (.restoreTimerExpiry i) s = .next t ∧ t.lmg.feeders = s.lmg.feeders ∧
        t.lmg.shedStack = s.lmg.shedStack ∧ t.lmg.lines = s.lmg.lines ∧
        (∃ u, t.island i = some u ∧ u.stretch = some f ∧ u.restoreAt = again true) ∧
        t.spt = if r.stretch = some f then s.spt else
          (post (.restoreBlocked f (feederSec f) (s.need f) (s.sumOf (islandSecs i)) (s.plan.budget x))
            { s with now := max s.now d }).spt) ∧
    (r.restoreAt = some d → s.restoreHeld i = true ∨ s.anyShed i = false →
      ∃ t, exec (.restoreTimerExpiry i) s = .next t ∧ t.lmg.feeders = s.lmg.feeders ∧
        t.lmg.shedStack = s.lmg.shedStack ∧ t.lmg.lines = s.lmg.lines ∧ t.spt = s.spt ∧
        ∃ u, t.island i = some u ∧ u.stretch = r.stretch ∧ u.restoreAt = again (s.anyShed i)) ∧
    (r.overloadAt = some d →
      ∃ t, exec (.overloadTimerExpiry i) s = .next t ∧ (t.island i).map (·.overloadAt) = some none ∧
        (t.sumOf (islandSecs i) ≤ t.plan.budget x ∨
          ∀ f, feederSec f ∈ islandSecs i → t.sheddable f = false) ∧
        t.bcu = s.bcu ∧ t.seqs = s.seqs ∧ t.hlc = s.hlc ∧ t.pst = s.pst ∧ t.mdc = s.mdc)

/-- FEEDER_DEMAND_SET holds the demand at most at 5000 kW and answers with the value held (R145); no other feeder's demand
moves. With t_ovl above 0 and no block, an island then over its budget with a sheddable feeder starts its overload timer
or keeps the one that runs, and one that is not has it idle (R153). Stated with both sections in MANUAL. -/
def Obligations.DemandHeld : Prop :=
  ∀ (s : State) (tag : Byte) (f : Feeder) (v : Half), s.Ready → s.BothManual →
    ∃ t, exec (.feederDemandSet tag (feederCode f) v) s = .next t ∧ (t.feeder f).demand = min v.toNat 5000 ∧
      (∀ g, g ≠ f → (t.feeder g).demand = (s.feeder g).demand) ∧
      (∀ i r x, s.island i = some r → r.source = some x → 0 < s.plan.glob .tOvl → s.blocked = false →
        (t.island i).map (·.overloadAt) = some
          (if t.overloaded i x then some (r.overloadAt.getD (s.now + s.plan.glob .tOvl * 1000)) else none)) ∧
      t.bcu = s.bcu ∧ t.seqs = s.seqs ∧ t.hlc = s.hlc ∧ t.pst = s.pst ∧
      t.spt.service = some ⟨0x41, tag, .formed ⟨.ok, .demand (min v.toNat 5000)⟩⟩

/-! ### The supervisory port (chapter 10) -/

/-- A request that comes while another is in service is discarded: nothing at all changes (R181). Before the power-up
sequence has ended (R185) the requests that act on sections, breakers, activations and generators are refused BUSY, and a
plan request is held until the store load has ended. A request with an operand the manual does not list is refused
BAD_ARGUMENT and changes nothing (R184). -/
def Obligations.RequestsWaitOrAreRefused : Prop :=
  ∀ (c : Instr) (tag : Byte) (r : Request) (s : State), c.request = some (tag, r) →
    (s.spt.service.isSome = true → exec c s = .next s) ∧
    (s.Calm → s.spt.service = none → r.isPlan = true → s.loaded = false →
      exec c s = .next { s with spt := { s.spt with service := some ⟨r.kind, tag, .held r⟩ } }) ∧
    (s.Calm → s.spt.service = none → c.wellFormed = true → r.kind ∈ [0x21, 0x30, 0x31, 0x33, 0x34, 0x55, 0x72] →
      s.adopted = false → (r.isPlan = true → s.loaded = true) → exec c s = .next (s.replied r.kind tag .busy .empty)) ∧
    (c.wellFormed = false → s.Ready → exec c s = .next (s.replied r.kind tag .badArgument .empty))

/-- The receiver (R179, R180): it takes nothing while a reply is sent; hunting it takes SYNC alone, with its stop bit high
(log entry 54); a low stop bit, a LEN above 250 and a gap of 5 ms take it back to hunting; a frame whose CRC differs is
dropped; a good frame of an unknown KIND or a wrong length is answered so (R182), and one that spells a request does what
the request's command does (R181; that it does is log entry 11). A formed reply asserts HM_DE at its first byte; after its
last byte HM_DE is off, the receiver hunts, and no request is in service (R179, R181). The tick moves to a deadline that
is reached (log entry 6). -/
def Obligations.LineIsServed : Prop :=
  ∀ (s : State) (b : Byte), s.inReset = false →
    let put (r : Rx) (g : Option Nat) : State := { s with spt := { s.spt with rx := r, rxGap := g } }
    (s.spt.hmDe = true → ∀ st, exec (.lineByteReceived b st) s = .next s) ∧
    (s.spt.hmDe = false → s.spt.rx = .hunting →
      exec (.lineByteReceived b false) s = .next s ∧
      exec (.lineByteReceived b true) s = .next (if b = 0xC3 then put (.receiving []) (some (s.now + 5)) else s)) ∧
    (∀ l, s.spt.hmDe = false → s.spt.rx = .receiving l →
      exec (.lineByteReceived b false) s = .next (put .hunting none) ∧
      (lenTooLong (l ++ [b]) = true → exec (.lineByteReceived b true) s = .next (put .hunting none)) ∧
      (lenTooLong (l ++ [b]) = false → frameWhole (l ++ [b]) = false →
        exec (.lineByteReceived b true) s = .next (put (.receiving (l ++ [b])) (some (s.now + 5)))) ∧
      (∀ len kind tag rest, l ++ [b] = len :: kind :: tag :: rest → lenTooLong (l ++ [b]) = false →
        frameWhole (l ++ [b]) = true →
        let payload := rest.take len.toNat
        let good := rest.drop len.toNat = be16 (crc16 (len :: kind :: tag :: payload)).toNat ∧ kind.toNat < 0x80
        (¬good → exec (.frameReceived b) s = .next (put .hunting none)) ∧
        (∀ e, good → s.spt.service = none → parseRequest kind payload = .error e →
          exec (.frameReceived b) s = .next ((put .hunting none).replied kind tag e .empty)) ∧
        (∀ c q, good → s.spt.service = none → c.request = some (tag, q) → q.kind = kind → q.payload = payload →
          exec (.frameReceived b) s = exec c (put .hunting none)))) ∧
    (∀ d, s.spt.rxGap = some d → exec .frameByteTimeout s = .next { put .hunting none with now := max s.now d }) ∧
    (∀ k tag r, s.spt.service = some ⟨k, tag, .formed r⟩ → exec .replyStart s =
      .next { s with spt := { s.spt with service := some ⟨k, tag, .sending r⟩, hmDe := true } }) ∧
    (∀ k tag r, s.spt.service = some ⟨k, tag, .sending r⟩ → exec .replySent s =
      .next { s with spt := { s.spt with service := none, hmDe := false, rx := .hunting, rxGap := none } })

/-! ### Reset and power-up (chapter 9) -/

/-- While RSTn is low every output is inactive (R24, R175, R179): no coil, shed line, run line, annunciator, ALARM, ATTNn
or driver is active, the head link's four outputs are low and HM_TX is high; the request in service is dropped, and with
no write in progress the store is as it was. What the release of RSTn leaves (R28, R43, R57, R64, R66, R79, R97, R101,
R144, R148, R150, R159, R163, R172, R175, R177, R179, R190): the records named here at their values after power-up, each
channel at the position its first samples give, the store as it was. HL_RSTn low after the release is log entry 19, the
start timer's unused value log entry 43. -/
def Obligations.ResetRestarts : Prop :=
  (∀ s : State, ∃ t, exec .resetAssert s = .next t ∧ (s.inReset = false →
    t.inReset = true ∧ (∀ c, t.closeCoil c = false ∧ t.tripCoil c = false) ∧ (∀ f, t.shedLine f = false) ∧
    (∀ x, t.runLine x = false) ∧ (∀ k, t.anLine k = false) ∧ t.alarmLine = false ∧ t.attnLow = false ∧
    t.driverEnable = false ∧ t.headReset = true ∧ t.spt.service = none ∧ t.hlc.running = false ∧
    t.clockRuns = false ∧ (∀ k, t.syncPulse k = false ∧ t.headOut k = false ∧ t.transmit k = true) ∧
    (s.pst.writes = [] → t.pst.store = s.pst.store))) ∧
  ∀ (s : State) (baud : BitVec 2) (pins : FirstSamples), s.inReset = true →
    ∃ t, exec (.resetRelease baud pins) s = .next t ∧
      t.now = 0 ∧ t.inReset = false ∧ t.loaded = false ∧ t.adopted = false ∧ t.pst.store = s.pst.store ∧
      t.pst.active = none ∧ t.pst.pendingPage = none ∧ t.pst.writes = [] ∧ t.pst.edit = .p0 ∧
      t.pst.storedActive = .noPage ∧ (∀ p, t.pst.pages.get p = .empty) ∧
      t.squ = SquState.start defaultItems ∧ t.ccu = ⟨.all none, .all none, .all none⟩ ∧
      t.lmg.islands = .notFormed ∧ (∀ n, t.lmg.anns.get n = none ∧ t.mdc.settle.get n = none ∧ t.ctx n = .start) ∧
      t.hlc.slot = none ∧ t.hlc.running = false ∧ (∀ a, t.hlc.words.get a = ⟨0, false⟩ ∧ t.hlc.heads.get a = .unread) ∧
      t.hlc.link = .starting ∧ t.hlc.rstLow = true ∧ (∀ p, t.hlc.points.get p = .unbound) ∧
      (∀ n, t.mode n = .manual ∧ (t.ctx n).state = .waitSource ∧ (t.ctx n).feed = none ∧ (t.ctx n).role = .sole ∧
        (t.squ.buses.get n).state = .unknown ∧ t.lmg.shedStack.get n = []) ∧
      (∀ c, let r := t.bcu.get c
        let p := pins.chans.get c
        r.aux.accepted = p.aux ∧ r.ready.accepted = p.rdy ∧ r.racked.accepted = p.rck ∧ r.prot.accepted = p.prt ∧
        r.cmdClosed = p.aux ∧ r.op = none ∧ r.closeEnd = none ∧ r.tripEnd = none ∧ r.fault = .none ∧ r.lastM = none ∧
        r.position = if p.prt then .locked else if p.aux then .isClosed else .isOpen) ∧
      t.mdc.blk.accepted = pins.blk ∧ t.mdc.hostBlock = false ∧ t.mdc.alarm = none ∧ t.mdc.latches = 0 ∧
      (∀ x, t.mdc.runs.get x = ⟨.off, none, none, 0, false, false⟩) ∧
      (∀ c, (t.bcu.get c).tc = defaultItems.chan c .closeTimeInit) ∧
      (∀ f, t.feeder f = ⟨defaultItems.feeder f .demand, false⟩ ∧ t.shedLine f = false) ∧
      t.owner = none ∧ t.spt.baud = baud ∧ t.spt.queue = [] ∧ t.spt.overflow = false ∧ t.spt.service = none ∧
      t.spt.rx = .hunting ∧ t.bitRate = baudRate baud ∧ t.pending = s.pending

/-- The end of the store load (R22, R23, R37, R43, R144, R175): each page is what its image gives, the active page is the
one the stored pointer names if it loaded VALID, and the link start begins. A plan request held in service is then served,
as it is on the state that the load leaves with no request in service (R185). -/
def Obligations.StoreLoads : Prop :=
  ∀ s : State, s.Calm → s.loaded = false → s.adopted = false → (∀ p, s.hlc.points.get p = .unbound) →
    let Loads (t : State) : Prop :=
      t.loaded = true ∧ t.adopted = false ∧
      (∀ p, t.pst.pages.get p = loadPage (s.pst.store.images.get p)) ∧
      t.pst.active = loadedActive t.pst.pages s.pst.store.pointer ∧ t.pst.storedActive = s.pst.store.pointer ∧
      t.pst.edit = .p0 ∧ t.pst.linkMap = s.pst.store.linkMap.getD (.all none) ∧ t.pst.store = s.pst.store ∧
      t.hlc.link = .starting ∧ t.hlc.rstLow = true ∧ t.hlc.rstEnd = some (s.now + 1) ∧
      (∀ x, t.squ.srcs.get x = QualRec.start (t.plan.kind x)) ∧
      (∀ f, t.feeder f = ⟨t.plan.feeder f .demand, false⟩) ∧
      (∀ c, (t.bcu.get c).tc = t.plan.chan c .closeTimeInit)
    (s.spt.service = none → ∃ t, exec .storeLoadEnd s = .next t ∧ Loads t) ∧
    ∀ c tag r, c.request = some (tag, r) → r.isPlan = true → s.spt.service = some ⟨r.kind, tag, .held r⟩ →
      ∃ t, exec .storeLoadEnd { s with spt := { s.spt with service := none } } = .next t ∧ Loads t ∧ t.Ready ∧
        exec .storeLoadEnd s = exec c t

/-- The end of the power-up link start adopts the board (R7, R40, R123, R133, R176 to R178), at a frame in which the last
address answers or falls silent, or by the silent row alone. A section whose island has one closed incomer is FED by it,
with two HALTED with PARALLEL_FOUND and the ALARM, with none in WAIT_SOURCE. The roles and the owner follow the board; the
start mode is the active page's, MANUAL with none; the settle timer starts. MAP_MISMATCH alone precedes POWER_UP, which
tells what was adopted. That the supervision of the adopted islands follows POWER_UP is log entry 22. That the silent row
ends the read at any frame is the model's too (log entry 7). -/
def Obligations.AdoptionFollowsTheBoard : Prop :=
  ∀ (s : State) (n : Sec), s.Calm → s.adopted = false → s.hlc.discovery = .reading .n5 →
    let Adopted (e : HeadEntry) (t : State) : Prop :=
      let u := s.discovered e
      t.adopted = true ∧
      t.hlc.link = (if u.mapAgrees then .bound else .unbound) ∧
      (s.paths n = [] → (t.ctx n).state = .waitSource ∧ (t.ctx n).feed = none) ∧
      (∀ x, s.paths n = [x] → (t.ctx n).state = .fed ∧ (t.ctx n).feed = some (pathEntry n x)) ∧
      (2 ≤ (s.paths n).length → (t.ctx n).state = .halted ∧ (t.ctx n).feed = none ∧
        (t.ctx n).haltCause = .parallelFound ∧ (t.ctx n).haltChan = (s.paths n).getLast?.map srcChan ∧
        t.mdc.alarm = some (s.now + s.plan.glob .alarmTime * 1000)) ∧
      t.TieRoles ∧ (s.closed .bkt = false → t.owner = none) ∧
      (s.pst.active = none → t.mode n = .manual) ∧
      (s.pst.active ≠ none → (t.mode n = .auto ↔ s.plan.sec n .startMode = 1)) ∧
      t.mdc.settle.get n =
        (if s.plan.sec n .tSettle = 0 then none else some (s.now + s.plan.sec n .tSettle * 1000)) ∧
      t.bcu = s.bcu ∧
      (s.spt.queue = [] → ∃ rest, t.spt.queue.map (·.note) =
        (if u.mapAgrees then []
          else [.mapMismatch u.differing u.hlc.duplicate u.hlc.lineConflict u.hlc.unrecognised]) ++
        .powerUp t.hlc.link s.pst.active (t.ctx .sec1).state (t.ctx .sec1).feed (t.ctx .sec2).state (t.ctx .sec2).feed
          s.lockedSet s.blocked :: rest)
    (∃ t, exec .discoveryReadSilent s = .next t ∧ Adopted .silent t) ∧
    ∀ lines, s.LastReadEnds lines →
      ∃ t e, exec (.headFrameEnd lines) s = .next t ∧ HeardAs lines .n5 e ∧ Adopted e t
end

