-- ==== Sys2Proof/Laws/State.lean ====
section
/-! SUPPORT. What each primitive update does to each field of the state: the field it changes takes the value given, and
every other field is as it was. Simplification uses these, so that no proof unfolds a record update. -/

namespace Sys2Proof.Machine

@[simp] theorem report_now (r : Report) (s : State) : (report r s).now = s.now := rfl
@[simp] theorem report_inReset (r : Report) (s : State) : (report r s).inReset = s.inReset := rfl
@[simp] theorem report_loaded (r : Report) (s : State) : (report r s).loaded = s.loaded := rfl
@[simp] theorem report_adopted (r : Report) (s : State) : (report r s).adopted = s.adopted := rfl
@[simp] theorem report_pst (r : Report) (s : State) : (report r s).pst = s.pst := rfl
@[simp] theorem report_hlc (r : Report) (s : State) : (report r s).hlc = s.hlc := rfl
@[simp] theorem report_squ (r : Report) (s : State) : (report r s).squ = s.squ := rfl
@[simp] theorem report_ccu (r : Report) (s : State) : (report r s).ccu = s.ccu := rfl
@[simp] theorem report_bcu (r : Report) (s : State) : (report r s).bcu = s.bcu := rfl
@[simp] theorem report_seqs (r : Report) (s : State) : (report r s).seqs = s.seqs := rfl
@[simp] theorem report_owner (r : Report) (s : State) : (report r s).owner = s.owner := rfl
@[simp] theorem report_lmg (r : Report) (s : State) : (report r s).lmg = s.lmg := rfl
@[simp] theorem report_mdc (r : Report) (s : State) : (report r s).mdc = s.mdc := rfl
@[simp] theorem report_spt (r : Report) (s : State) : (report r s).spt = s.spt := rfl
@[simp] theorem report_agenda (r : Report) (s : State) : (report r s).agenda = s.agenda ++ [r] := rfl
@[simp] theorem report_freeCount (r : Report) (s : State) : (report r s).freeCount = s.freeCount := rfl
@[simp] theorem report_pending (r : Report) (s : State) : (report r s).pending = s.pending := rfl

@[simp] theorem post_now (n : Note) (s : State) : (post n s).now = s.now := by unfold post; split <;> rfl
@[simp] theorem post_inReset (n : Note) (s : State) : (post n s).inReset = s.inReset := by unfold post; split <;> rfl
@[simp] theorem post_loaded (n : Note) (s : State) : (post n s).loaded = s.loaded := by unfold post; split <;> rfl
@[simp] theorem post_adopted (n : Note) (s : State) : (post n s).adopted = s.adopted := by unfold post; split <;> rfl
@[simp] theorem post_pst (n : Note) (s : State) : (post n s).pst = s.pst := by unfold post; split <;> rfl
@[simp] theorem post_hlc (n : Note) (s : State) : (post n s).hlc = s.hlc := by unfold post; split <;> rfl
@[simp] theorem post_squ (n : Note) (s : State) : (post n s).squ = s.squ := by unfold post; split <;> rfl
@[simp] theorem post_ccu (n : Note) (s : State) : (post n s).ccu = s.ccu := by unfold post; split <;> rfl
@[simp] theorem post_bcu (n : Note) (s : State) : (post n s).bcu = s.bcu := by unfold post; split <;> rfl
@[simp] theorem post_seqs (n : Note) (s : State) : (post n s).seqs = s.seqs := by unfold post; split <;> rfl
@[simp] theorem post_owner (n : Note) (s : State) : (post n s).owner = s.owner := by unfold post; split <;> rfl
@[simp] theorem post_lmg (n : Note) (s : State) : (post n s).lmg = s.lmg := by unfold post; split <;> rfl
@[simp] theorem post_mdc (n : Note) (s : State) : (post n s).mdc = s.mdc := by unfold post; split <;> rfl
@[simp] theorem post_agenda (n : Note) (s : State) : (post n s).agenda = s.agenda := by unfold post; split <;> rfl
@[simp] theorem post_freeCount (n : Note) (s : State) : (post n s).freeCount = s.freeCount := by unfold post; split <;> rfl
@[simp] theorem post_pending (n : Note) (s : State) : (post n s).pending = s.pending := by unfold post; split <;> rfl

@[simp] theorem modSeq_now (n : Sec) (f : SecCtx → SecCtx) (s : State) : (modSeq n f s).now = s.now := rfl
@[simp] theorem modSeq_inReset (n : Sec) (f : SecCtx → SecCtx) (s : State) : (modSeq n f s).inReset = s.inReset := rfl
@[simp] theorem modSeq_loaded (n : Sec) (f : SecCtx → SecCtx) (s : State) : (modSeq n f s).loaded = s.loaded := rfl
@[simp] theorem modSeq_adopted (n : Sec) (f : SecCtx → SecCtx) (s : State) : (modSeq n f s).adopted = s.adopted := rfl
@[simp] theorem modSeq_pst (n : Sec) (f : SecCtx → SecCtx) (s : State) : (modSeq n f s).pst = s.pst := rfl
@[simp] theorem modSeq_hlc (n : Sec) (f : SecCtx → SecCtx) (s : State) : (modSeq n f s).hlc = s.hlc := rfl
@[simp] theorem modSeq_squ (n : Sec) (f : SecCtx → SecCtx) (s : State) : (modSeq n f s).squ = s.squ := rfl
@[simp] theorem modSeq_ccu (n : Sec) (f : SecCtx → SecCtx) (s : State) : (modSeq n f s).ccu = s.ccu := rfl
@[simp] theorem modSeq_bcu (n : Sec) (f : SecCtx → SecCtx) (s : State) : (modSeq n f s).bcu = s.bcu := rfl
@[simp] theorem modSeq_seqs (n : Sec) (f : SecCtx → SecCtx) (s : State) : (modSeq n f s).seqs = s.seqs.set n (f (s.seqs.get n)) := rfl
@[simp] theorem modSeq_owner (n : Sec) (f : SecCtx → SecCtx) (s : State) : (modSeq n f s).owner = s.owner := rfl
@[simp] theorem modSeq_lmg (n : Sec) (f : SecCtx → SecCtx) (s : State) : (modSeq n f s).lmg = s.lmg := rfl
@[simp] theorem modSeq_mdc (n : Sec) (f : SecCtx → SecCtx) (s : State) : (modSeq n f s).mdc = s.mdc := rfl
@[simp] theorem modSeq_spt (n : Sec) (f : SecCtx → SecCtx) (s : State) : (modSeq n f s).spt = s.spt := rfl
@[simp] theorem modSeq_agenda (n : Sec) (f : SecCtx → SecCtx) (s : State) : (modSeq n f s).agenda = s.agenda := rfl
@[simp] theorem modSeq_freeCount (n : Sec) (f : SecCtx → SecCtx) (s : State) : (modSeq n f s).freeCount = s.freeCount := rfl
@[simp] theorem modSeq_pending (n : Sec) (f : SecCtx → SecCtx) (s : State) : (modSeq n f s).pending = s.pending := rfl

@[simp] theorem modChan_now (c : Chan) (f : ChanRec → ChanRec) (s : State) : (modChan c f s).now = s.now := by unfold modChan; dsimp only; split <;> rfl
@[simp] theorem modChan_inReset (c : Chan) (f : ChanRec → ChanRec) (s : State) : (modChan c f s).inReset = s.inReset := by unfold modChan; dsimp only; split <;> rfl
@[simp] theorem modChan_loaded (c : Chan) (f : ChanRec → ChanRec) (s : State) : (modChan c f s).loaded = s.loaded := by unfold modChan; dsimp only; split <;> rfl
@[simp] theorem modChan_adopted (c : Chan) (f : ChanRec → ChanRec) (s : State) : (modChan c f s).adopted = s.adopted := by unfold modChan; dsimp only; split <;> rfl
@[simp] theorem modChan_pst (c : Chan) (f : ChanRec → ChanRec) (s : State) : (modChan c f s).pst = s.pst := by unfold modChan; dsimp only; split <;> rfl
@[simp] theorem modChan_hlc (c : Chan) (f : ChanRec → ChanRec) (s : State) : (modChan c f s).hlc = s.hlc := by unfold modChan; dsimp only; split <;> rfl
@[simp] theorem modChan_squ (c : Chan) (f : ChanRec → ChanRec) (s : State) : (modChan c f s).squ = s.squ := by unfold modChan; dsimp only; split <;> rfl
@[simp] theorem modChan_ccu (c : Chan) (f : ChanRec → ChanRec) (s : State) : (modChan c f s).ccu = s.ccu := by unfold modChan; dsimp only; split <;> rfl
@[simp] theorem modChan_bcu (c : Chan) (f : ChanRec → ChanRec) (s : State) : (modChan c f s).bcu = s.bcu.set c (f (s.bcu.get c)) := by unfold modChan; dsimp only; split <;> rfl
@[simp] theorem modChan_seqs (c : Chan) (f : ChanRec → ChanRec) (s : State) : (modChan c f s).seqs = s.seqs := by unfold modChan; dsimp only; split <;> rfl
@[simp] theorem modChan_owner (c : Chan) (f : ChanRec → ChanRec) (s : State) : (modChan c f s).owner = s.owner := by unfold modChan; dsimp only; split <;> rfl
@[simp] theorem modChan_lmg (c : Chan) (f : ChanRec → ChanRec) (s : State) : (modChan c f s).lmg = s.lmg := by unfold modChan; dsimp only; split <;> rfl
@[simp] theorem modChan_mdc (c : Chan) (f : ChanRec → ChanRec) (s : State) : (modChan c f s).mdc = s.mdc := by unfold modChan; dsimp only; split <;> rfl
@[simp] theorem modChan_spt (c : Chan) (f : ChanRec → ChanRec) (s : State) : (modChan c f s).spt = s.spt := by unfold modChan; dsimp only; split <;> rfl
@[simp] theorem modChan_freeCount (c : Chan) (f : ChanRec → ChanRec) (s : State) : (modChan c f s).freeCount = s.freeCount := by unfold modChan; dsimp only; split <;> rfl
@[simp] theorem modChan_pending (c : Chan) (f : ChanRec → ChanRec) (s : State) : (modChan c f s).pending = s.pending := by unfold modChan; dsimp only; split <;> rfl

@[simp] theorem modPoint_now (p : Point) (f : PointRec → PointRec) (s : State) : (modPoint p f s).now = s.now := rfl
@[simp] theorem modPoint_inReset (p : Point) (f : PointRec → PointRec) (s : State) : (modPoint p f s).inReset = s.inReset := rfl
@[simp] theorem modPoint_loaded (p : Point) (f : PointRec → PointRec) (s : State) : (modPoint p f s).loaded = s.loaded := rfl
@[simp] theorem modPoint_adopted (p : Point) (f : PointRec → PointRec) (s : State) : (modPoint p f s).adopted = s.adopted := rfl
@[simp] theorem modPoint_pst (p : Point) (f : PointRec → PointRec) (s : State) : (modPoint p f s).pst = s.pst := rfl
@[simp] theorem modPoint_hlc (p : Point) (f : PointRec → PointRec) (s : State) : (modPoint p f s).hlc = { s.hlc with points := s.hlc.points.set p (f (s.hlc.points.get p)) } := rfl
@[simp] theorem modPoint_squ (p : Point) (f : PointRec → PointRec) (s : State) : (modPoint p f s).squ = s.squ := rfl
@[simp] theorem modPoint_ccu (p : Point) (f : PointRec → PointRec) (s : State) : (modPoint p f s).ccu = s.ccu := rfl
@[simp] theorem modPoint_bcu (p : Point) (f : PointRec → PointRec) (s : State) : (modPoint p f s).bcu = s.bcu := rfl
@[simp] theorem modPoint_seqs (p : Point) (f : PointRec → PointRec) (s : State) : (modPoint p f s).seqs = s.seqs := rfl
@[simp] theorem modPoint_owner (p : Point) (f : PointRec → PointRec) (s : State) : (modPoint p f s).owner = s.owner := rfl
@[simp] theorem modPoint_lmg (p : Point) (f : PointRec → PointRec) (s : State) : (modPoint p f s).lmg = s.lmg := rfl
@[simp] theorem modPoint_mdc (p : Point) (f : PointRec → PointRec) (s : State) : (modPoint p f s).mdc = s.mdc := rfl
@[simp] theorem modPoint_spt (p : Point) (f : PointRec → PointRec) (s : State) : (modPoint p f s).spt = s.spt := rfl
@[simp] theorem modPoint_agenda (p : Point) (f : PointRec → PointRec) (s : State) : (modPoint p f s).agenda = s.agenda := rfl
@[simp] theorem modPoint_freeCount (p : Point) (f : PointRec → PointRec) (s : State) : (modPoint p f s).freeCount = s.freeCount := rfl
@[simp] theorem modPoint_pending (p : Point) (f : PointRec → PointRec) (s : State) : (modPoint p f s).pending = s.pending := rfl

@[simp] theorem modRun_now (x : Src) (f : RunRec → RunRec) (s : State) : (modRun x f s).now = s.now := rfl
@[simp] theorem modRun_inReset (x : Src) (f : RunRec → RunRec) (s : State) : (modRun x f s).inReset = s.inReset := rfl
@[simp] theorem modRun_loaded (x : Src) (f : RunRec → RunRec) (s : State) : (modRun x f s).loaded = s.loaded := rfl
@[simp] theorem modRun_adopted (x : Src) (f : RunRec → RunRec) (s : State) : (modRun x f s).adopted = s.adopted := rfl
@[simp] theorem modRun_pst (x : Src) (f : RunRec → RunRec) (s : State) : (modRun x f s).pst = s.pst := rfl
@[simp] theorem modRun_hlc (x : Src) (f : RunRec → RunRec) (s : State) : (modRun x f s).hlc = s.hlc := rfl
@[simp] theorem modRun_squ (x : Src) (f : RunRec → RunRec) (s : State) : (modRun x f s).squ = s.squ := rfl
@[simp] theorem modRun_ccu (x : Src) (f : RunRec → RunRec) (s : State) : (modRun x f s).ccu = s.ccu := rfl
@[simp] theorem modRun_bcu (x : Src) (f : RunRec → RunRec) (s : State) : (modRun x f s).bcu = s.bcu := rfl
@[simp] theorem modRun_seqs (x : Src) (f : RunRec → RunRec) (s : State) : (modRun x f s).seqs = s.seqs := rfl
@[simp] theorem modRun_owner (x : Src) (f : RunRec → RunRec) (s : State) : (modRun x f s).owner = s.owner := rfl
@[simp] theorem modRun_lmg (x : Src) (f : RunRec → RunRec) (s : State) : (modRun x f s).lmg = s.lmg := rfl
@[simp] theorem modRun_mdc (x : Src) (f : RunRec → RunRec) (s : State) : (modRun x f s).mdc = { s.mdc with runs := s.mdc.runs.set x (f (s.mdc.runs.get x)) } := rfl
@[simp] theorem modRun_spt (x : Src) (f : RunRec → RunRec) (s : State) : (modRun x f s).spt = s.spt := rfl
@[simp] theorem modRun_agenda (x : Src) (f : RunRec → RunRec) (s : State) : (modRun x f s).agenda = s.agenda := rfl
@[simp] theorem modRun_freeCount (x : Src) (f : RunRec → RunRec) (s : State) : (modRun x f s).freeCount = s.freeCount := rfl
@[simp] theorem modRun_pending (x : Src) (f : RunRec → RunRec) (s : State) : (modRun x f s).pending = s.pending := rfl

@[simp] theorem setWatch_now (n : Sec) (w : Option Watch) (s : State) : (setWatch n w s).now = s.now := rfl
@[simp] theorem setWatch_inReset (n : Sec) (w : Option Watch) (s : State) : (setWatch n w s).inReset = s.inReset := rfl
@[simp] theorem setWatch_loaded (n : Sec) (w : Option Watch) (s : State) : (setWatch n w s).loaded = s.loaded := rfl
@[simp] theorem setWatch_adopted (n : Sec) (w : Option Watch) (s : State) : (setWatch n w s).adopted = s.adopted := rfl
@[simp] theorem setWatch_pst (n : Sec) (w : Option Watch) (s : State) : (setWatch n w s).pst = s.pst := rfl
@[simp] theorem setWatch_hlc (n : Sec) (w : Option Watch) (s : State) : (setWatch n w s).hlc = s.hlc := rfl
@[simp] theorem setWatch_squ (n : Sec) (w : Option Watch) (s : State) : (setWatch n w s).squ = s.squ := rfl
@[simp] theorem setWatch_ccu (n : Sec) (w : Option Watch) (s : State) : (setWatch n w s).ccu = { s.ccu with watches := s.ccu.watches.set n w } := rfl
@[simp] theorem setWatch_bcu (n : Sec) (w : Option Watch) (s : State) : (setWatch n w s).bcu = s.bcu := rfl
@[simp] theorem setWatch_seqs (n : Sec) (w : Option Watch) (s : State) : (setWatch n w s).seqs = s.seqs := rfl
@[simp] theorem setWatch_owner (n : Sec) (w : Option Watch) (s : State) : (setWatch n w s).owner = s.owner := rfl
@[simp] theorem setWatch_lmg (n : Sec) (w : Option Watch) (s : State) : (setWatch n w s).lmg = s.lmg := rfl
@[simp] theorem setWatch_mdc (n : Sec) (w : Option Watch) (s : State) : (setWatch n w s).mdc = s.mdc := rfl
@[simp] theorem setWatch_spt (n : Sec) (w : Option Watch) (s : State) : (setWatch n w s).spt = s.spt := rfl
@[simp] theorem setWatch_agenda (n : Sec) (w : Option Watch) (s : State) : (setWatch n w s).agenda = s.agenda := rfl
@[simp] theorem setWatch_freeCount (n : Sec) (w : Option Watch) (s : State) : (setWatch n w s).freeCount = s.freeCount := rfl
@[simp] theorem setWatch_pending (n : Sec) (w : Option Watch) (s : State) : (setWatch n w s).pending = s.pending := rfl

@[simp] theorem setOwner_now (o : Option Sec) (s : State) : (setOwner o s).now = s.now := by unfold setOwner; split <;> simp_all
@[simp] theorem setOwner_inReset (o : Option Sec) (s : State) : (setOwner o s).inReset = s.inReset := by unfold setOwner; split <;> simp_all
@[simp] theorem setOwner_loaded (o : Option Sec) (s : State) : (setOwner o s).loaded = s.loaded := by unfold setOwner; split <;> simp_all
@[simp] theorem setOwner_adopted (o : Option Sec) (s : State) : (setOwner o s).adopted = s.adopted := by unfold setOwner; split <;> simp_all
@[simp] theorem setOwner_pst (o : Option Sec) (s : State) : (setOwner o s).pst = s.pst := by unfold setOwner; split <;> simp_all
@[simp] theorem setOwner_hlc (o : Option Sec) (s : State) : (setOwner o s).hlc = s.hlc := by unfold setOwner; split <;> simp_all
@[simp] theorem setOwner_squ (o : Option Sec) (s : State) : (setOwner o s).squ = s.squ := by unfold setOwner; split <;> simp_all
@[simp] theorem setOwner_ccu (o : Option Sec) (s : State) : (setOwner o s).ccu = s.ccu := by unfold setOwner; split <;> simp_all
@[simp] theorem setOwner_bcu (o : Option Sec) (s : State) : (setOwner o s).bcu = s.bcu := by unfold setOwner; split <;> simp_all
@[simp] theorem setOwner_seqs (o : Option Sec) (s : State) : (setOwner o s).seqs = s.seqs := by unfold setOwner; split <;> simp_all
@[simp] theorem setOwner_owner (o : Option Sec) (s : State) : (setOwner o s).owner = o := by unfold setOwner; split <;> simp_all
@[simp] theorem setOwner_lmg (o : Option Sec) (s : State) : (setOwner o s).lmg = s.lmg := by unfold setOwner; split <;> simp_all
@[simp] theorem setOwner_mdc (o : Option Sec) (s : State) : (setOwner o s).mdc = s.mdc := by unfold setOwner; split <;> simp_all
@[simp] theorem setOwner_spt (o : Option Sec) (s : State) : (setOwner o s).spt = s.spt := by unfold setOwner; split <;> simp_all
@[simp] theorem setOwner_freeCount (o : Option Sec) (s : State) : (setOwner o s).freeCount = s.freeCount := by unfold setOwner; split <;> simp_all
@[simp] theorem setOwner_pending (o : Option Sec) (s : State) : (setOwner o s).pending = s.pending := by unfold setOwner; split <;> simp_all

@[simp] theorem useFree_now (s : State) : (useFree s).now = s.now := rfl
@[simp] theorem useFree_inReset (s : State) : (useFree s).inReset = s.inReset := rfl
@[simp] theorem useFree_loaded (s : State) : (useFree s).loaded = s.loaded := rfl
@[simp] theorem useFree_adopted (s : State) : (useFree s).adopted = s.adopted := rfl
@[simp] theorem useFree_pst (s : State) : (useFree s).pst = s.pst := rfl
@[simp] theorem useFree_hlc (s : State) : (useFree s).hlc = s.hlc := rfl
@[simp] theorem useFree_squ (s : State) : (useFree s).squ = s.squ := rfl
@[simp] theorem useFree_ccu (s : State) : (useFree s).ccu = s.ccu := rfl
@[simp] theorem useFree_bcu (s : State) : (useFree s).bcu = s.bcu := rfl
@[simp] theorem useFree_seqs (s : State) : (useFree s).seqs = s.seqs := rfl
@[simp] theorem useFree_owner (s : State) : (useFree s).owner = s.owner := rfl
@[simp] theorem useFree_lmg (s : State) : (useFree s).lmg = s.lmg := rfl
@[simp] theorem useFree_mdc (s : State) : (useFree s).mdc = s.mdc := rfl
@[simp] theorem useFree_spt (s : State) : (useFree s).spt = s.spt := rfl
@[simp] theorem useFree_agenda (s : State) : (useFree s).agenda = s.agenda := rfl
@[simp] theorem useFree_freeCount (s : State) : (useFree s).freeCount = s.freeCount + 1 := rfl
@[simp] theorem useFree_pending (s : State) : (useFree s).pending = s.pending := rfl

@[simp] theorem reach_now (d : Nat) (s : State) : (reach d s).now = max s.now d := rfl
@[simp] theorem reach_inReset (d : Nat) (s : State) : (reach d s).inReset = s.inReset := rfl
@[simp] theorem reach_loaded (d : Nat) (s : State) : (reach d s).loaded = s.loaded := rfl
@[simp] theorem reach_adopted (d : Nat) (s : State) : (reach d s).adopted = s.adopted := rfl
@[simp] theorem reach_pst (d : Nat) (s : State) : (reach d s).pst = s.pst := rfl
@[simp] theorem reach_hlc (d : Nat) (s : State) : (reach d s).hlc = s.hlc := rfl
@[simp] theorem reach_squ (d : Nat) (s : State) : (reach d s).squ = s.squ := rfl
@[simp] theorem reach_ccu (d : Nat) (s : State) : (reach d s).ccu = s.ccu := rfl
@[simp] theorem reach_bcu (d : Nat) (s : State) : (reach d s).bcu = s.bcu := rfl
@[simp] theorem reach_seqs (d : Nat) (s : State) : (reach d s).seqs = s.seqs := rfl
@[simp] theorem reach_owner (d : Nat) (s : State) : (reach d s).owner = s.owner := rfl
@[simp] theorem reach_lmg (d : Nat) (s : State) : (reach d s).lmg = s.lmg := rfl
@[simp] theorem reach_mdc (d : Nat) (s : State) : (reach d s).mdc = s.mdc := rfl
@[simp] theorem reach_spt (d : Nat) (s : State) : (reach d s).spt = s.spt := rfl
@[simp] theorem reach_agenda (d : Nat) (s : State) : (reach d s).agenda = s.agenda := rfl
@[simp] theorem reach_freeCount (d : Nat) (s : State) : (reach d s).freeCount = s.freeCount := rfl
@[simp] theorem reach_pending (d : Nat) (s : State) : (reach d s).pending = s.pending := rfl

@[simp] theorem formReply_now (k : Byte) (r : Reply) (s : State) : (formReply k r s).now = s.now := by unfold formReply; split <;> (try split) <;> rfl
@[simp] theorem formReply_inReset (k : Byte) (r : Reply) (s : State) : (formReply k r s).inReset = s.inReset := by unfold formReply; split <;> (try split) <;> rfl
@[simp] theorem formReply_loaded (k : Byte) (r : Reply) (s : State) : (formReply k r s).loaded = s.loaded := by unfold formReply; split <;> (try split) <;> rfl
@[simp] theorem formReply_adopted (k : Byte) (r : Reply) (s : State) : (formReply k r s).adopted = s.adopted := by unfold formReply; split <;> (try split) <;> rfl
@[simp] theorem formReply_pst (k : Byte) (r : Reply) (s : State) : (formReply k r s).pst = s.pst := by unfold formReply; split <;> (try split) <;> rfl
@[simp] theorem formReply_hlc (k : Byte) (r : Reply) (s : State) : (formReply k r s).hlc = s.hlc := by unfold formReply; split <;> (try split) <;> rfl
@[simp] theorem formReply_squ (k : Byte) (r : Reply) (s : State) : (formReply k r s).squ = s.squ := by unfold formReply; split <;> (try split) <;> rfl
@[simp] theorem formReply_ccu (k : Byte) (r : Reply) (s : State) : (formReply k r s).ccu = s.ccu := by unfold formReply; split <;> (try split) <;> rfl
@[simp] theorem formReply_bcu (k : Byte) (r : Reply) (s : State) : (formReply k r s).bcu = s.bcu := by unfold formReply; split <;> (try split) <;> rfl
@[simp] theorem formReply_seqs (k : Byte) (r : Reply) (s : State) : (formReply k r s).seqs = s.seqs := by unfold formReply; split <;> (try split) <;> rfl
@[simp] theorem formReply_owner (k : Byte) (r : Reply) (s : State) : (formReply k r s).owner = s.owner := by unfold formReply; split <;> (try split) <;> rfl
@[simp] theorem formReply_lmg (k : Byte) (r : Reply) (s : State) : (formReply k r s).lmg = s.lmg := by unfold formReply; split <;> (try split) <;> rfl
@[simp] theorem formReply_mdc (k : Byte) (r : Reply) (s : State) : (formReply k r s).mdc = s.mdc := by unfold formReply; split <;> (try split) <;> rfl
@[simp] theorem formReply_agenda (k : Byte) (r : Reply) (s : State) : (formReply k r s).agenda = s.agenda := by unfold formReply; split <;> (try split) <;> rfl
@[simp] theorem formReply_freeCount (k : Byte) (r : Reply) (s : State) : (formReply k r s).freeCount = s.freeCount := by unfold formReply; split <;> (try split) <;> rfl
@[simp] theorem formReply_pending (k : Byte) (r : Reply) (s : State) : (formReply k r s).pending = s.pending := by unfold formReply; split <;> (try split) <;> rfl

@[simp] theorem modPst_now (f : PstState → PstState) (s : State) : (modPst f s).now = s.now := rfl
@[simp] theorem modPst_inReset (f : PstState → PstState) (s : State) : (modPst f s).inReset = s.inReset := rfl
@[simp] theorem modPst_loaded (f : PstState → PstState) (s : State) : (modPst f s).loaded = s.loaded := rfl
@[simp] theorem modPst_adopted (f : PstState → PstState) (s : State) : (modPst f s).adopted = s.adopted := rfl
@[simp] theorem modPst_pst (f : PstState → PstState) (s : State) : (modPst f s).pst = f s.pst := rfl
@[simp] theorem modPst_hlc (f : PstState → PstState) (s : State) : (modPst f s).hlc = s.hlc := rfl
@[simp] theorem modPst_squ (f : PstState → PstState) (s : State) : (modPst f s).squ = s.squ := rfl
@[simp] theorem modPst_ccu (f : PstState → PstState) (s : State) : (modPst f s).ccu = s.ccu := rfl
@[simp] theorem modPst_bcu (f : PstState → PstState) (s : State) : (modPst f s).bcu = s.bcu := rfl
@[simp] theorem modPst_seqs (f : PstState → PstState) (s : State) : (modPst f s).seqs = s.seqs := rfl
@[simp] theorem modPst_owner (f : PstState → PstState) (s : State) : (modPst f s).owner = s.owner := rfl
@[simp] theorem modPst_lmg (f : PstState → PstState) (s : State) : (modPst f s).lmg = s.lmg := rfl
@[simp] theorem modPst_mdc (f : PstState → PstState) (s : State) : (modPst f s).mdc = s.mdc := rfl
@[simp] theorem modPst_spt (f : PstState → PstState) (s : State) : (modPst f s).spt = s.spt := rfl
@[simp] theorem modPst_agenda (f : PstState → PstState) (s : State) : (modPst f s).agenda = s.agenda := rfl
@[simp] theorem modPst_freeCount (f : PstState → PstState) (s : State) : (modPst f s).freeCount = s.freeCount := rfl
@[simp] theorem modPst_pending (f : PstState → PstState) (s : State) : (modPst f s).pending = s.pending := rfl

@[simp] theorem modHlc_now (f : HlcState → HlcState) (s : State) : (modHlc f s).now = s.now := rfl
@[simp] theorem modHlc_inReset (f : HlcState → HlcState) (s : State) : (modHlc f s).inReset = s.inReset := rfl
@[simp] theorem modHlc_loaded (f : HlcState → HlcState) (s : State) : (modHlc f s).loaded = s.loaded := rfl
@[simp] theorem modHlc_adopted (f : HlcState → HlcState) (s : State) : (modHlc f s).adopted = s.adopted := rfl
@[simp] theorem modHlc_pst (f : HlcState → HlcState) (s : State) : (modHlc f s).pst = s.pst := rfl
@[simp] theorem modHlc_hlc (f : HlcState → HlcState) (s : State) : (modHlc f s).hlc = f s.hlc := rfl
@[simp] theorem modHlc_squ (f : HlcState → HlcState) (s : State) : (modHlc f s).squ = s.squ := rfl
@[simp] theorem modHlc_ccu (f : HlcState → HlcState) (s : State) : (modHlc f s).ccu = s.ccu := rfl
@[simp] theorem modHlc_bcu (f : HlcState → HlcState) (s : State) : (modHlc f s).bcu = s.bcu := rfl
@[simp] theorem modHlc_seqs (f : HlcState → HlcState) (s : State) : (modHlc f s).seqs = s.seqs := rfl
@[simp] theorem modHlc_owner (f : HlcState → HlcState) (s : State) : (modHlc f s).owner = s.owner := rfl
@[simp] theorem modHlc_lmg (f : HlcState → HlcState) (s : State) : (modHlc f s).lmg = s.lmg := rfl
@[simp] theorem modHlc_mdc (f : HlcState → HlcState) (s : State) : (modHlc f s).mdc = s.mdc := rfl
@[simp] theorem modHlc_spt (f : HlcState → HlcState) (s : State) : (modHlc f s).spt = s.spt := rfl
@[simp] theorem modHlc_agenda (f : HlcState → HlcState) (s : State) : (modHlc f s).agenda = s.agenda := rfl
@[simp] theorem modHlc_freeCount (f : HlcState → HlcState) (s : State) : (modHlc f s).freeCount = s.freeCount := rfl
@[simp] theorem modHlc_pending (f : HlcState → HlcState) (s : State) : (modHlc f s).pending = s.pending := rfl

@[simp] theorem setService_now (k g : Byte) (ph : Phase) (s : State) : (setService k g ph s).now = s.now := rfl
@[simp] theorem setService_inReset (k g : Byte) (ph : Phase) (s : State) : (setService k g ph s).inReset = s.inReset := rfl
@[simp] theorem setService_loaded (k g : Byte) (ph : Phase) (s : State) : (setService k g ph s).loaded = s.loaded := rfl
@[simp] theorem setService_adopted (k g : Byte) (ph : Phase) (s : State) : (setService k g ph s).adopted = s.adopted := rfl
@[simp] theorem setService_pst (k g : Byte) (ph : Phase) (s : State) : (setService k g ph s).pst = s.pst := rfl
@[simp] theorem setService_hlc (k g : Byte) (ph : Phase) (s : State) : (setService k g ph s).hlc = s.hlc := rfl
@[simp] theorem setService_squ (k g : Byte) (ph : Phase) (s : State) : (setService k g ph s).squ = s.squ := rfl
@[simp] theorem setService_ccu (k g : Byte) (ph : Phase) (s : State) : (setService k g ph s).ccu = s.ccu := rfl
@[simp] theorem setService_bcu (k g : Byte) (ph : Phase) (s : State) : (setService k g ph s).bcu = s.bcu := rfl
@[simp] theorem setService_seqs (k g : Byte) (ph : Phase) (s : State) : (setService k g ph s).seqs = s.seqs := rfl
@[simp] theorem setService_owner (k g : Byte) (ph : Phase) (s : State) : (setService k g ph s).owner = s.owner := rfl
@[simp] theorem setService_lmg (k g : Byte) (ph : Phase) (s : State) : (setService k g ph s).lmg = s.lmg := rfl
@[simp] theorem setService_mdc (k g : Byte) (ph : Phase) (s : State) : (setService k g ph s).mdc = s.mdc := rfl
@[simp] theorem setService_spt (k g : Byte) (ph : Phase) (s : State) : (setService k g ph s).spt = { s.spt with service := some ⟨k, g, ph⟩ } := rfl
@[simp] theorem setService_agenda (k g : Byte) (ph : Phase) (s : State) : (setService k g ph s).agenda = s.agenda := rfl
@[simp] theorem setService_freeCount (k g : Byte) (ph : Phase) (s : State) : (setService k g ph s).freeCount = s.freeCount := rfl
@[simp] theorem setService_pending (k g : Byte) (ph : Phase) (s : State) : (setService k g ph s).pending = s.pending := rfl

@[simp] theorem setRx_now (r : Rx) (gap : Option Nat) (s : State) : (setRx r gap s).now = s.now := rfl
@[simp] theorem setRx_inReset (r : Rx) (gap : Option Nat) (s : State) : (setRx r gap s).inReset = s.inReset := rfl
@[simp] theorem setRx_loaded (r : Rx) (gap : Option Nat) (s : State) : (setRx r gap s).loaded = s.loaded := rfl
@[simp] theorem setRx_adopted (r : Rx) (gap : Option Nat) (s : State) : (setRx r gap s).adopted = s.adopted := rfl
@[simp] theorem setRx_pst (r : Rx) (gap : Option Nat) (s : State) : (setRx r gap s).pst = s.pst := rfl
@[simp] theorem setRx_hlc (r : Rx) (gap : Option Nat) (s : State) : (setRx r gap s).hlc = s.hlc := rfl
@[simp] theorem setRx_squ (r : Rx) (gap : Option Nat) (s : State) : (setRx r gap s).squ = s.squ := rfl
@[simp] theorem setRx_ccu (r : Rx) (gap : Option Nat) (s : State) : (setRx r gap s).ccu = s.ccu := rfl
@[simp] theorem setRx_bcu (r : Rx) (gap : Option Nat) (s : State) : (setRx r gap s).bcu = s.bcu := rfl
@[simp] theorem setRx_seqs (r : Rx) (gap : Option Nat) (s : State) : (setRx r gap s).seqs = s.seqs := rfl
@[simp] theorem setRx_owner (r : Rx) (gap : Option Nat) (s : State) : (setRx r gap s).owner = s.owner := rfl
@[simp] theorem setRx_lmg (r : Rx) (gap : Option Nat) (s : State) : (setRx r gap s).lmg = s.lmg := rfl
@[simp] theorem setRx_mdc (r : Rx) (gap : Option Nat) (s : State) : (setRx r gap s).mdc = s.mdc := rfl
@[simp] theorem setRx_spt (r : Rx) (gap : Option Nat) (s : State) : (setRx r gap s).spt = { s.spt with rx := r, rxGap := gap } := rfl
@[simp] theorem setRx_agenda (r : Rx) (gap : Option Nat) (s : State) : (setRx r gap s).agenda = s.agenda := rfl
@[simp] theorem setRx_freeCount (r : Rx) (gap : Option Nat) (s : State) : (setRx r gap s).freeCount = s.freeCount := rfl
@[simp] theorem setRx_pending (r : Rx) (gap : Option Nat) (s : State) : (setRx r gap s).pending = s.pending := rfl

@[simp] theorem modFeeder_now (f : Feeder) (g : FeederRec → FeederRec) (s : State) : (modFeeder f g s).now = s.now := rfl
@[simp] theorem modFeeder_inReset (f : Feeder) (g : FeederRec → FeederRec) (s : State) : (modFeeder f g s).inReset = s.inReset := rfl
@[simp] theorem modFeeder_loaded (f : Feeder) (g : FeederRec → FeederRec) (s : State) : (modFeeder f g s).loaded = s.loaded := rfl
@[simp] theorem modFeeder_adopted (f : Feeder) (g : FeederRec → FeederRec) (s : State) : (modFeeder f g s).adopted = s.adopted := rfl
@[simp] theorem modFeeder_pst (f : Feeder) (g : FeederRec → FeederRec) (s : State) : (modFeeder f g s).pst = s.pst := rfl
@[simp] theorem modFeeder_hlc (f : Feeder) (g : FeederRec → FeederRec) (s : State) : (modFeeder f g s).hlc = s.hlc := rfl
@[simp] theorem modFeeder_squ (f : Feeder) (g : FeederRec → FeederRec) (s : State) : (modFeeder f g s).squ = s.squ := rfl
@[simp] theorem modFeeder_ccu (f : Feeder) (g : FeederRec → FeederRec) (s : State) : (modFeeder f g s).ccu = s.ccu := rfl
@[simp] theorem modFeeder_bcu (f : Feeder) (g : FeederRec → FeederRec) (s : State) : (modFeeder f g s).bcu = s.bcu := rfl
@[simp] theorem modFeeder_seqs (f : Feeder) (g : FeederRec → FeederRec) (s : State) : (modFeeder f g s).seqs = s.seqs := rfl
@[simp] theorem modFeeder_owner (f : Feeder) (g : FeederRec → FeederRec) (s : State) : (modFeeder f g s).owner = s.owner := rfl
@[simp] theorem modFeeder_lmg (f : Feeder) (g : FeederRec → FeederRec) (s : State) : (modFeeder f g s).lmg = { s.lmg with feeders := s.lmg.feeders.set f (g (s.lmg.feeders.get f)) } := rfl
@[simp] theorem modFeeder_mdc (f : Feeder) (g : FeederRec → FeederRec) (s : State) : (modFeeder f g s).mdc = s.mdc := rfl
@[simp] theorem modFeeder_spt (f : Feeder) (g : FeederRec → FeederRec) (s : State) : (modFeeder f g s).spt = s.spt := rfl
@[simp] theorem modFeeder_agenda (f : Feeder) (g : FeederRec → FeederRec) (s : State) : (modFeeder f g s).agenda = s.agenda := rfl
@[simp] theorem modFeeder_freeCount (f : Feeder) (g : FeederRec → FeederRec) (s : State) : (modFeeder f g s).freeCount = s.freeCount := rfl
@[simp] theorem modFeeder_pending (f : Feeder) (g : FeederRec → FeederRec) (s : State) : (modFeeder f g s).pending = s.pending := rfl

@[simp] theorem setStack_now (n : Sec) (l : List Feeder) (s : State) : (setStack n l s).now = s.now := rfl
@[simp] theorem setStack_inReset (n : Sec) (l : List Feeder) (s : State) : (setStack n l s).inReset = s.inReset := rfl
@[simp] theorem setStack_loaded (n : Sec) (l : List Feeder) (s : State) : (setStack n l s).loaded = s.loaded := rfl
@[simp] theorem setStack_adopted (n : Sec) (l : List Feeder) (s : State) : (setStack n l s).adopted = s.adopted := rfl
@[simp] theorem setStack_pst (n : Sec) (l : List Feeder) (s : State) : (setStack n l s).pst = s.pst := rfl
@[simp] theorem setStack_hlc (n : Sec) (l : List Feeder) (s : State) : (setStack n l s).hlc = s.hlc := rfl
@[simp] theorem setStack_squ (n : Sec) (l : List Feeder) (s : State) : (setStack n l s).squ = s.squ := rfl
@[simp] theorem setStack_ccu (n : Sec) (l : List Feeder) (s : State) : (setStack n l s).ccu = s.ccu := rfl
@[simp] theorem setStack_bcu (n : Sec) (l : List Feeder) (s : State) : (setStack n l s).bcu = s.bcu := rfl
@[simp] theorem setStack_seqs (n : Sec) (l : List Feeder) (s : State) : (setStack n l s).seqs = s.seqs := rfl
@[simp] theorem setStack_owner (n : Sec) (l : List Feeder) (s : State) : (setStack n l s).owner = s.owner := rfl
@[simp] theorem setStack_lmg (n : Sec) (l : List Feeder) (s : State) : (setStack n l s).lmg = { s.lmg with shedStack := s.lmg.shedStack.set n l } := rfl
@[simp] theorem setStack_mdc (n : Sec) (l : List Feeder) (s : State) : (setStack n l s).mdc = s.mdc := rfl
@[simp] theorem setStack_spt (n : Sec) (l : List Feeder) (s : State) : (setStack n l s).spt = s.spt := rfl
@[simp] theorem setStack_agenda (n : Sec) (l : List Feeder) (s : State) : (setStack n l s).agenda = s.agenda := rfl
@[simp] theorem setStack_freeCount (n : Sec) (l : List Feeder) (s : State) : (setStack n l s).freeCount = s.freeCount := rfl
@[simp] theorem setStack_pending (n : Sec) (l : List Feeder) (s : State) : (setStack n l s).pending = s.pending := rfl

@[simp] theorem driveLine_now (f : Feeder) (b : Bool) (s : State) : (driveLine f b s).now = s.now := by unfold driveLine; split <;> rfl
@[simp] theorem driveLine_inReset (f : Feeder) (b : Bool) (s : State) : (driveLine f b s).inReset = s.inReset := by unfold driveLine; split <;> rfl
@[simp] theorem driveLine_loaded (f : Feeder) (b : Bool) (s : State) : (driveLine f b s).loaded = s.loaded := by unfold driveLine; split <;> rfl
@[simp] theorem driveLine_adopted (f : Feeder) (b : Bool) (s : State) : (driveLine f b s).adopted = s.adopted := by unfold driveLine; split <;> rfl
@[simp] theorem driveLine_pst (f : Feeder) (b : Bool) (s : State) : (driveLine f b s).pst = s.pst := by unfold driveLine; split <;> rfl
@[simp] theorem driveLine_hlc (f : Feeder) (b : Bool) (s : State) : (driveLine f b s).hlc = s.hlc := by unfold driveLine; split <;> rfl
@[simp] theorem driveLine_squ (f : Feeder) (b : Bool) (s : State) : (driveLine f b s).squ = s.squ := by unfold driveLine; split <;> rfl
@[simp] theorem driveLine_ccu (f : Feeder) (b : Bool) (s : State) : (driveLine f b s).ccu = s.ccu := by unfold driveLine; split <;> rfl
@[simp] theorem driveLine_bcu (f : Feeder) (b : Bool) (s : State) : (driveLine f b s).bcu = s.bcu := by unfold driveLine; split <;> rfl
@[simp] theorem driveLine_seqs (f : Feeder) (b : Bool) (s : State) : (driveLine f b s).seqs = s.seqs := by unfold driveLine; split <;> rfl
@[simp] theorem driveLine_owner (f : Feeder) (b : Bool) (s : State) : (driveLine f b s).owner = s.owner := by unfold driveLine; split <;> rfl
@[simp] theorem driveLine_mdc (f : Feeder) (b : Bool) (s : State) : (driveLine f b s).mdc = s.mdc := by unfold driveLine; split <;> rfl
@[simp] theorem driveLine_spt (f : Feeder) (b : Bool) (s : State) : (driveLine f b s).spt = s.spt := by unfold driveLine; split <;> rfl
@[simp] theorem driveLine_agenda (f : Feeder) (b : Bool) (s : State) : (driveLine f b s).agenda = s.agenda := by unfold driveLine; split <;> rfl
@[simp] theorem driveLine_freeCount (f : Feeder) (b : Bool) (s : State) : (driveLine f b s).freeCount = s.freeCount := by unfold driveLine; split <;> rfl
@[simp] theorem driveLine_pending (f : Feeder) (b : Bool) (s : State) : (driveLine f b s).pending = s.pending := by unfold driveLine; split <;> rfl

@[simp] theorem modIsland_now (i : IslandId) (g : IslandRec → IslandRec) (s : State) : (modIsland i g s).now = s.now := rfl
@[simp] theorem modIsland_inReset (i : IslandId) (g : IslandRec → IslandRec) (s : State) : (modIsland i g s).inReset = s.inReset := rfl
@[simp] theorem modIsland_loaded (i : IslandId) (g : IslandRec → IslandRec) (s : State) : (modIsland i g s).loaded = s.loaded := rfl
@[simp] theorem modIsland_adopted (i : IslandId) (g : IslandRec → IslandRec) (s : State) : (modIsland i g s).adopted = s.adopted := rfl
@[simp] theorem modIsland_pst (i : IslandId) (g : IslandRec → IslandRec) (s : State) : (modIsland i g s).pst = s.pst := rfl
@[simp] theorem modIsland_hlc (i : IslandId) (g : IslandRec → IslandRec) (s : State) : (modIsland i g s).hlc = s.hlc := rfl
@[simp] theorem modIsland_squ (i : IslandId) (g : IslandRec → IslandRec) (s : State) : (modIsland i g s).squ = s.squ := rfl
@[simp] theorem modIsland_ccu (i : IslandId) (g : IslandRec → IslandRec) (s : State) : (modIsland i g s).ccu = s.ccu := rfl
@[simp] theorem modIsland_bcu (i : IslandId) (g : IslandRec → IslandRec) (s : State) : (modIsland i g s).bcu = s.bcu := rfl
@[simp] theorem modIsland_seqs (i : IslandId) (g : IslandRec → IslandRec) (s : State) : (modIsland i g s).seqs = s.seqs := rfl
@[simp] theorem modIsland_owner (i : IslandId) (g : IslandRec → IslandRec) (s : State) : (modIsland i g s).owner = s.owner := rfl
@[simp] theorem modIsland_mdc (i : IslandId) (g : IslandRec → IslandRec) (s : State) : (modIsland i g s).mdc = s.mdc := rfl
@[simp] theorem modIsland_spt (i : IslandId) (g : IslandRec → IslandRec) (s : State) : (modIsland i g s).spt = s.spt := rfl
@[simp] theorem modIsland_agenda (i : IslandId) (g : IslandRec → IslandRec) (s : State) : (modIsland i g s).agenda = s.agenda := rfl
@[simp] theorem modIsland_freeCount (i : IslandId) (g : IslandRec → IslandRec) (s : State) : (modIsland i g s).freeCount = s.freeCount := rfl
@[simp] theorem modIsland_pending (i : IslandId) (g : IslandRec → IslandRec) (s : State) : (modIsland i g s).pending = s.pending := rfl

@[simp] theorem clearAnn_now (n : Sec) (s : State) : (clearAnn n s).now = s.now := rfl
@[simp] theorem clearAnn_inReset (n : Sec) (s : State) : (clearAnn n s).inReset = s.inReset := rfl
@[simp] theorem clearAnn_loaded (n : Sec) (s : State) : (clearAnn n s).loaded = s.loaded := rfl
@[simp] theorem clearAnn_adopted (n : Sec) (s : State) : (clearAnn n s).adopted = s.adopted := rfl
@[simp] theorem clearAnn_pst (n : Sec) (s : State) : (clearAnn n s).pst = s.pst := rfl
@[simp] theorem clearAnn_hlc (n : Sec) (s : State) : (clearAnn n s).hlc = s.hlc := rfl
@[simp] theorem clearAnn_squ (n : Sec) (s : State) : (clearAnn n s).squ = s.squ := rfl
@[simp] theorem clearAnn_ccu (n : Sec) (s : State) : (clearAnn n s).ccu = s.ccu := rfl
@[simp] theorem clearAnn_bcu (n : Sec) (s : State) : (clearAnn n s).bcu = s.bcu := rfl
@[simp] theorem clearAnn_seqs (n : Sec) (s : State) : (clearAnn n s).seqs = s.seqs := rfl
@[simp] theorem clearAnn_owner (n : Sec) (s : State) : (clearAnn n s).owner = s.owner := rfl
@[simp] theorem clearAnn_lmg (n : Sec) (s : State) : (clearAnn n s).lmg = { s.lmg with anns := s.lmg.anns.set n none } := rfl
@[simp] theorem clearAnn_mdc (n : Sec) (s : State) : (clearAnn n s).mdc = s.mdc := rfl
@[simp] theorem clearAnn_spt (n : Sec) (s : State) : (clearAnn n s).spt = s.spt := rfl
@[simp] theorem clearAnn_agenda (n : Sec) (s : State) : (clearAnn n s).agenda = s.agenda := rfl
@[simp] theorem clearAnn_freeCount (n : Sec) (s : State) : (clearAnn n s).freeCount = s.freeCount := rfl
@[simp] theorem clearAnn_pending (n : Sec) (s : State) : (clearAnn n s).pending = s.pending := rfl

@[simp] theorem keep_now (p : Pair) (r : PairResult) (s : State) : (keep p r s).now = s.now := by unfold keep; split <;> rfl
@[simp] theorem keep_inReset (p : Pair) (r : PairResult) (s : State) : (keep p r s).inReset = s.inReset := by unfold keep; split <;> rfl
@[simp] theorem keep_loaded (p : Pair) (r : PairResult) (s : State) : (keep p r s).loaded = s.loaded := by unfold keep; split <;> rfl
@[simp] theorem keep_adopted (p : Pair) (r : PairResult) (s : State) : (keep p r s).adopted = s.adopted := by unfold keep; split <;> rfl
@[simp] theorem keep_pst (p : Pair) (r : PairResult) (s : State) : (keep p r s).pst = s.pst := by unfold keep; split <;> rfl
@[simp] theorem keep_hlc (p : Pair) (r : PairResult) (s : State) : (keep p r s).hlc = s.hlc := by unfold keep; split <;> rfl
@[simp] theorem keep_squ (p : Pair) (r : PairResult) (s : State) : (keep p r s).squ = s.squ := by unfold keep; split <;> rfl
@[simp] theorem keep_bcu (p : Pair) (r : PairResult) (s : State) : (keep p r s).bcu = s.bcu := by unfold keep; split <;> rfl
@[simp] theorem keep_seqs (p : Pair) (r : PairResult) (s : State) : (keep p r s).seqs = s.seqs := by unfold keep; split <;> rfl
@[simp] theorem keep_owner (p : Pair) (r : PairResult) (s : State) : (keep p r s).owner = s.owner := by unfold keep; split <;> rfl
@[simp] theorem keep_lmg (p : Pair) (r : PairResult) (s : State) : (keep p r s).lmg = s.lmg := by unfold keep; split <;> rfl
@[simp] theorem keep_mdc (p : Pair) (r : PairResult) (s : State) : (keep p r s).mdc = s.mdc := by unfold keep; split <;> rfl
@[simp] theorem keep_spt (p : Pair) (r : PairResult) (s : State) : (keep p r s).spt = s.spt := by unfold keep; split <;> rfl
@[simp] theorem keep_agenda (p : Pair) (r : PairResult) (s : State) : (keep p r s).agenda = s.agenda := by unfold keep; split <;> rfl
@[simp] theorem keep_freeCount (p : Pair) (r : PairResult) (s : State) : (keep p r s).freeCount = s.freeCount := by unfold keep; split <;> rfl
@[simp] theorem keep_pending (p : Pair) (r : PairResult) (s : State) : (keep p r s).pending = s.pending := by unfold keep; split <;> rfl

@[simp] theorem setMode_now (n : Sec) (m : Mode) (s : State) : (setMode n m s).now = s.now := rfl
@[simp] theorem setMode_inReset (n : Sec) (m : Mode) (s : State) : (setMode n m s).inReset = s.inReset := rfl
@[simp] theorem setMode_loaded (n : Sec) (m : Mode) (s : State) : (setMode n m s).loaded = s.loaded := rfl
@[simp] theorem setMode_adopted (n : Sec) (m : Mode) (s : State) : (setMode n m s).adopted = s.adopted := rfl
@[simp] theorem setMode_pst (n : Sec) (m : Mode) (s : State) : (setMode n m s).pst = s.pst := rfl
@[simp] theorem setMode_hlc (n : Sec) (m : Mode) (s : State) : (setMode n m s).hlc = s.hlc := rfl
@[simp] theorem setMode_squ (n : Sec) (m : Mode) (s : State) : (setMode n m s).squ = s.squ := rfl
@[simp] theorem setMode_ccu (n : Sec) (m : Mode) (s : State) : (setMode n m s).ccu = s.ccu := rfl
@[simp] theorem setMode_bcu (n : Sec) (m : Mode) (s : State) : (setMode n m s).bcu = s.bcu := rfl
@[simp] theorem setMode_seqs (n : Sec) (m : Mode) (s : State) : (setMode n m s).seqs = s.seqs := rfl
@[simp] theorem setMode_owner (n : Sec) (m : Mode) (s : State) : (setMode n m s).owner = s.owner := rfl
@[simp] theorem setMode_lmg (n : Sec) (m : Mode) (s : State) : (setMode n m s).lmg = s.lmg := rfl
@[simp] theorem setMode_mdc (n : Sec) (m : Mode) (s : State) : (setMode n m s).mdc = { s.mdc with modes := s.mdc.modes.set n m } := rfl
@[simp] theorem setMode_spt (n : Sec) (m : Mode) (s : State) : (setMode n m s).spt = s.spt := rfl
@[simp] theorem setMode_agenda (n : Sec) (m : Mode) (s : State) : (setMode n m s).agenda = s.agenda := rfl
@[simp] theorem setMode_freeCount (n : Sec) (m : Mode) (s : State) : (setMode n m s).freeCount = s.freeCount := rfl
@[simp] theorem setMode_pending (n : Sec) (m : Mode) (s : State) : (setMode n m s).pending = s.pending := rfl

@[simp] theorem triggerAlarm_now (s : State) : (triggerAlarm s).now = s.now := rfl
@[simp] theorem triggerAlarm_inReset (s : State) : (triggerAlarm s).inReset = s.inReset := rfl
@[simp] theorem triggerAlarm_loaded (s : State) : (triggerAlarm s).loaded = s.loaded := rfl
@[simp] theorem triggerAlarm_adopted (s : State) : (triggerAlarm s).adopted = s.adopted := rfl
@[simp] theorem triggerAlarm_pst (s : State) : (triggerAlarm s).pst = s.pst := rfl
@[simp] theorem triggerAlarm_hlc (s : State) : (triggerAlarm s).hlc = s.hlc := rfl
@[simp] theorem triggerAlarm_squ (s : State) : (triggerAlarm s).squ = s.squ := rfl
@[simp] theorem triggerAlarm_ccu (s : State) : (triggerAlarm s).ccu = s.ccu := rfl
@[simp] theorem triggerAlarm_bcu (s : State) : (triggerAlarm s).bcu = s.bcu := rfl
@[simp] theorem triggerAlarm_seqs (s : State) : (triggerAlarm s).seqs = s.seqs := rfl
@[simp] theorem triggerAlarm_owner (s : State) : (triggerAlarm s).owner = s.owner := rfl
@[simp] theorem triggerAlarm_lmg (s : State) : (triggerAlarm s).lmg = s.lmg := rfl
@[simp] theorem triggerAlarm_mdc (s : State) : (triggerAlarm s).mdc = { s.mdc with alarm := some (s.now + s.plan.glob .alarmTime * 1000) } := rfl
@[simp] theorem triggerAlarm_spt (s : State) : (triggerAlarm s).spt = s.spt := rfl
@[simp] theorem triggerAlarm_agenda (s : State) : (triggerAlarm s).agenda = s.agenda := rfl
@[simp] theorem triggerAlarm_freeCount (s : State) : (triggerAlarm s).freeCount = s.freeCount := rfl
@[simp] theorem triggerAlarm_pending (s : State) : (triggerAlarm s).pending = s.pending := rfl

@[simp] theorem setWord_now (a : Six) (v : Half) (s : State) : (setWord a v s).now = s.now := rfl
@[simp] theorem setWord_inReset (a : Six) (v : Half) (s : State) : (setWord a v s).inReset = s.inReset := rfl
@[simp] theorem setWord_loaded (a : Six) (v : Half) (s : State) : (setWord a v s).loaded = s.loaded := rfl
@[simp] theorem setWord_adopted (a : Six) (v : Half) (s : State) : (setWord a v s).adopted = s.adopted := rfl
@[simp] theorem setWord_pst (a : Six) (v : Half) (s : State) : (setWord a v s).pst = s.pst := rfl
@[simp] theorem setWord_hlc (a : Six) (v : Half) (s : State) : (setWord a v s).hlc = { s.hlc with words := s.hlc.words.set a ⟨v, true⟩ } := rfl
@[simp] theorem setWord_squ (a : Six) (v : Half) (s : State) : (setWord a v s).squ = s.squ := rfl
@[simp] theorem setWord_ccu (a : Six) (v : Half) (s : State) : (setWord a v s).ccu = s.ccu := rfl
@[simp] theorem setWord_bcu (a : Six) (v : Half) (s : State) : (setWord a v s).bcu = s.bcu := rfl
@[simp] theorem setWord_seqs (a : Six) (v : Half) (s : State) : (setWord a v s).seqs = s.seqs := rfl
@[simp] theorem setWord_owner (a : Six) (v : Half) (s : State) : (setWord a v s).owner = s.owner := rfl
@[simp] theorem setWord_lmg (a : Six) (v : Half) (s : State) : (setWord a v s).lmg = s.lmg := rfl
@[simp] theorem setWord_mdc (a : Six) (v : Half) (s : State) : (setWord a v s).mdc = s.mdc := rfl
@[simp] theorem setWord_spt (a : Six) (v : Half) (s : State) : (setWord a v s).spt = s.spt := rfl
@[simp] theorem setWord_agenda (a : Six) (v : Half) (s : State) : (setWord a v s).agenda = s.agenda := rfl
@[simp] theorem setWord_freeCount (a : Six) (v : Half) (s : State) : (setWord a v s).freeCount = s.freeCount := rfl
@[simp] theorem setWord_pending (a : Six) (v : Half) (s : State) : (setWord a v s).pending = s.pending := rfl

@[simp] theorem freeSlot_now (s : State) : (freeSlot s).now = s.now := rfl
@[simp] theorem freeSlot_inReset (s : State) : (freeSlot s).inReset = s.inReset := rfl
@[simp] theorem freeSlot_loaded (s : State) : (freeSlot s).loaded = s.loaded := rfl
@[simp] theorem freeSlot_adopted (s : State) : (freeSlot s).adopted = s.adopted := rfl
@[simp] theorem freeSlot_pst (s : State) : (freeSlot s).pst = s.pst := rfl
@[simp] theorem freeSlot_hlc (s : State) : (freeSlot s).hlc = { s.hlc with slot := none } := rfl
@[simp] theorem freeSlot_squ (s : State) : (freeSlot s).squ = s.squ := rfl
@[simp] theorem freeSlot_ccu (s : State) : (freeSlot s).ccu = s.ccu := rfl
@[simp] theorem freeSlot_bcu (s : State) : (freeSlot s).bcu = s.bcu := rfl
@[simp] theorem freeSlot_seqs (s : State) : (freeSlot s).seqs = s.seqs := rfl
@[simp] theorem freeSlot_owner (s : State) : (freeSlot s).owner = s.owner := rfl
@[simp] theorem freeSlot_lmg (s : State) : (freeSlot s).lmg = s.lmg := rfl
@[simp] theorem freeSlot_mdc (s : State) : (freeSlot s).mdc = s.mdc := rfl
@[simp] theorem freeSlot_spt (s : State) : (freeSlot s).spt = s.spt := rfl
@[simp] theorem freeSlot_agenda (s : State) : (freeSlot s).agenda = s.agenda := rfl
@[simp] theorem freeSlot_freeCount (s : State) : (freeSlot s).freeCount = s.freeCount := rfl
@[simp] theorem freeSlot_pending (s : State) : (freeSlot s).pending = s.pending := rfl

@[simp] theorem takeSlot_now (c : HeadCmd) (s : State) : (takeSlot c s).now = s.now := rfl
@[simp] theorem takeSlot_inReset (c : HeadCmd) (s : State) : (takeSlot c s).inReset = s.inReset := rfl
@[simp] theorem takeSlot_loaded (c : HeadCmd) (s : State) : (takeSlot c s).loaded = s.loaded := rfl
@[simp] theorem takeSlot_adopted (c : HeadCmd) (s : State) : (takeSlot c s).adopted = s.adopted := rfl
@[simp] theorem takeSlot_pst (c : HeadCmd) (s : State) : (takeSlot c s).pst = s.pst := rfl
@[simp] theorem takeSlot_hlc (c : HeadCmd) (s : State) : (takeSlot c s).hlc = { s.hlc with slot := some c } := rfl
@[simp] theorem takeSlot_squ (c : HeadCmd) (s : State) : (takeSlot c s).squ = s.squ := rfl
@[simp] theorem takeSlot_ccu (c : HeadCmd) (s : State) : (takeSlot c s).ccu = s.ccu := rfl
@[simp] theorem takeSlot_bcu (c : HeadCmd) (s : State) : (takeSlot c s).bcu = s.bcu := rfl
@[simp] theorem takeSlot_seqs (c : HeadCmd) (s : State) : (takeSlot c s).seqs = s.seqs := rfl
@[simp] theorem takeSlot_owner (c : HeadCmd) (s : State) : (takeSlot c s).owner = s.owner := rfl
@[simp] theorem takeSlot_lmg (c : HeadCmd) (s : State) : (takeSlot c s).lmg = s.lmg := rfl
@[simp] theorem takeSlot_mdc (c : HeadCmd) (s : State) : (takeSlot c s).mdc = s.mdc := rfl
@[simp] theorem takeSlot_spt (c : HeadCmd) (s : State) : (takeSlot c s).spt = s.spt := rfl
@[simp] theorem takeSlot_agenda (c : HeadCmd) (s : State) : (takeSlot c s).agenda = s.agenda := rfl
@[simp] theorem takeSlot_freeCount (c : HeadCmd) (s : State) : (takeSlot c s).freeCount = s.freeCount := rfl
@[simp] theorem takeSlot_pending (c : HeadCmd) (s : State) : (takeSlot c s).pending = s.pending := rfl

@[simp] theorem queueWrite_now (w : StoreWrite) (s : State) : (queueWrite w s).now = s.now := rfl
@[simp] theorem queueWrite_inReset (w : StoreWrite) (s : State) : (queueWrite w s).inReset = s.inReset := rfl
@[simp] theorem queueWrite_loaded (w : StoreWrite) (s : State) : (queueWrite w s).loaded = s.loaded := rfl
@[simp] theorem queueWrite_adopted (w : StoreWrite) (s : State) : (queueWrite w s).adopted = s.adopted := rfl
@[simp] theorem queueWrite_pst (w : StoreWrite) (s : State) : (queueWrite w s).pst = { s.pst with writes := enqueueWrite w s.pst.writes } := rfl
@[simp] theorem queueWrite_hlc (w : StoreWrite) (s : State) : (queueWrite w s).hlc = s.hlc := rfl
@[simp] theorem queueWrite_squ (w : StoreWrite) (s : State) : (queueWrite w s).squ = s.squ := rfl
@[simp] theorem queueWrite_ccu (w : StoreWrite) (s : State) : (queueWrite w s).ccu = s.ccu := rfl
@[simp] theorem queueWrite_bcu (w : StoreWrite) (s : State) : (queueWrite w s).bcu = s.bcu := rfl
@[simp] theorem queueWrite_seqs (w : StoreWrite) (s : State) : (queueWrite w s).seqs = s.seqs := rfl
@[simp] theorem queueWrite_owner (w : StoreWrite) (s : State) : (queueWrite w s).owner = s.owner := rfl
@[simp] theorem queueWrite_lmg (w : StoreWrite) (s : State) : (queueWrite w s).lmg = s.lmg := rfl
@[simp] theorem queueWrite_mdc (w : StoreWrite) (s : State) : (queueWrite w s).mdc = s.mdc := rfl
@[simp] theorem queueWrite_spt (w : StoreWrite) (s : State) : (queueWrite w s).spt = s.spt := rfl
@[simp] theorem queueWrite_agenda (w : StoreWrite) (s : State) : (queueWrite w s).agenda = s.agenda := rfl
@[simp] theorem queueWrite_freeCount (w : StoreWrite) (s : State) : (queueWrite w s).freeCount = s.freeCount := rfl
@[simp] theorem queueWrite_pending (w : StoreWrite) (s : State) : (queueWrite w s).pending = s.pending := rfl

@[simp] theorem nextWrite_now (s : State) : (nextWrite s).now = s.now := rfl
@[simp] theorem nextWrite_inReset (s : State) : (nextWrite s).inReset = s.inReset := rfl
@[simp] theorem nextWrite_loaded (s : State) : (nextWrite s).loaded = s.loaded := rfl
@[simp] theorem nextWrite_adopted (s : State) : (nextWrite s).adopted = s.adopted := rfl
@[simp] theorem nextWrite_pst (s : State) : (nextWrite s).pst = { s.pst with writes := s.pst.writes.tail } := rfl
@[simp] theorem nextWrite_hlc (s : State) : (nextWrite s).hlc = s.hlc := rfl
@[simp] theorem nextWrite_squ (s : State) : (nextWrite s).squ = s.squ := rfl
@[simp] theorem nextWrite_ccu (s : State) : (nextWrite s).ccu = s.ccu := rfl
@[simp] theorem nextWrite_bcu (s : State) : (nextWrite s).bcu = s.bcu := rfl
@[simp] theorem nextWrite_seqs (s : State) : (nextWrite s).seqs = s.seqs := rfl
@[simp] theorem nextWrite_owner (s : State) : (nextWrite s).owner = s.owner := rfl
@[simp] theorem nextWrite_lmg (s : State) : (nextWrite s).lmg = s.lmg := rfl
@[simp] theorem nextWrite_mdc (s : State) : (nextWrite s).mdc = s.mdc := rfl
@[simp] theorem nextWrite_spt (s : State) : (nextWrite s).spt = s.spt := rfl
@[simp] theorem nextWrite_agenda (s : State) : (nextWrite s).agenda = s.agenda := rfl
@[simp] theorem nextWrite_freeCount (s : State) : (nextWrite s).freeCount = s.freeCount := rfl
@[simp] theorem nextWrite_pending (s : State) : (nextWrite s).pending = s.pending := rfl

@[simp] theorem setImage_now (p : PageNo) (img : List Byte) (s : State) : (setImage p img s).now = s.now := rfl
@[simp] theorem setImage_inReset (p : PageNo) (img : List Byte) (s : State) : (setImage p img s).inReset = s.inReset := rfl
@[simp] theorem setImage_loaded (p : PageNo) (img : List Byte) (s : State) : (setImage p img s).loaded = s.loaded := rfl
@[simp] theorem setImage_adopted (p : PageNo) (img : List Byte) (s : State) : (setImage p img s).adopted = s.adopted := rfl
@[simp] theorem setImage_pst (p : PageNo) (img : List Byte) (s : State) : (setImage p img s).pst = { s.pst with store := { s.pst.store with images := s.pst.store.images.set p img } } := rfl
@[simp] theorem setImage_hlc (p : PageNo) (img : List Byte) (s : State) : (setImage p img s).hlc = s.hlc := rfl
@[simp] theorem setImage_squ (p : PageNo) (img : List Byte) (s : State) : (setImage p img s).squ = s.squ := rfl
@[simp] theorem setImage_ccu (p : PageNo) (img : List Byte) (s : State) : (setImage p img s).ccu = s.ccu := rfl
@[simp] theorem setImage_bcu (p : PageNo) (img : List Byte) (s : State) : (setImage p img s).bcu = s.bcu := rfl
@[simp] theorem setImage_seqs (p : PageNo) (img : List Byte) (s : State) : (setImage p img s).seqs = s.seqs := rfl
@[simp] theorem setImage_owner (p : PageNo) (img : List Byte) (s : State) : (setImage p img s).owner = s.owner := rfl
@[simp] theorem setImage_lmg (p : PageNo) (img : List Byte) (s : State) : (setImage p img s).lmg = s.lmg := rfl
@[simp] theorem setImage_mdc (p : PageNo) (img : List Byte) (s : State) : (setImage p img s).mdc = s.mdc := rfl
@[simp] theorem setImage_spt (p : PageNo) (img : List Byte) (s : State) : (setImage p img s).spt = s.spt := rfl
@[simp] theorem setImage_agenda (p : PageNo) (img : List Byte) (s : State) : (setImage p img s).agenda = s.agenda := rfl
@[simp] theorem setImage_freeCount (p : PageNo) (img : List Byte) (s : State) : (setImage p img s).freeCount = s.freeCount := rfl
@[simp] theorem setImage_pending (p : PageNo) (img : List Byte) (s : State) : (setImage p img s).pending = s.pending := rfl

@[simp] theorem modPage_now (p : PageNo) (f : Page → Page) (s : State) : (modPage p f s).now = s.now := rfl
@[simp] theorem modPage_inReset (p : PageNo) (f : Page → Page) (s : State) : (modPage p f s).inReset = s.inReset := rfl
@[simp] theorem modPage_loaded (p : PageNo) (f : Page → Page) (s : State) : (modPage p f s).loaded = s.loaded := rfl
@[simp] theorem modPage_adopted (p : PageNo) (f : Page → Page) (s : State) : (modPage p f s).adopted = s.adopted := rfl
@[simp] theorem modPage_pst (p : PageNo) (f : Page → Page) (s : State) : (modPage p f s).pst = { s.pst with pages := s.pst.pages.set p (f (s.pst.pages.get p)) } := rfl
@[simp] theorem modPage_hlc (p : PageNo) (f : Page → Page) (s : State) : (modPage p f s).hlc = s.hlc := rfl
@[simp] theorem modPage_squ (p : PageNo) (f : Page → Page) (s : State) : (modPage p f s).squ = s.squ := rfl
@[simp] theorem modPage_ccu (p : PageNo) (f : Page → Page) (s : State) : (modPage p f s).ccu = s.ccu := rfl
@[simp] theorem modPage_bcu (p : PageNo) (f : Page → Page) (s : State) : (modPage p f s).bcu = s.bcu := rfl
@[simp] theorem modPage_seqs (p : PageNo) (f : Page → Page) (s : State) : (modPage p f s).seqs = s.seqs := rfl
@[simp] theorem modPage_owner (p : PageNo) (f : Page → Page) (s : State) : (modPage p f s).owner = s.owner := rfl
@[simp] theorem modPage_lmg (p : PageNo) (f : Page → Page) (s : State) : (modPage p f s).lmg = s.lmg := rfl
@[simp] theorem modPage_mdc (p : PageNo) (f : Page → Page) (s : State) : (modPage p f s).mdc = s.mdc := rfl
@[simp] theorem modPage_spt (p : PageNo) (f : Page → Page) (s : State) : (modPage p f s).spt = s.spt := rfl
@[simp] theorem modPage_agenda (p : PageNo) (f : Page → Page) (s : State) : (modPage p f s).agenda = s.agenda := rfl
@[simp] theorem modPage_freeCount (p : PageNo) (f : Page → Page) (s : State) : (modPage p f s).freeCount = s.freeCount := rfl
@[simp] theorem modPage_pending (p : PageNo) (f : Page → Page) (s : State) : (modPage p f s).pending = s.pending := rfl

@[simp] theorem setCause_now (x : Src) (c : Cause) (s : State) : (setCause x c s).now = s.now := rfl
@[simp] theorem setCause_inReset (x : Src) (c : Cause) (s : State) : (setCause x c s).inReset = s.inReset := rfl
@[simp] theorem setCause_loaded (x : Src) (c : Cause) (s : State) : (setCause x c s).loaded = s.loaded := rfl
@[simp] theorem setCause_adopted (x : Src) (c : Cause) (s : State) : (setCause x c s).adopted = s.adopted := rfl
@[simp] theorem setCause_pst (x : Src) (c : Cause) (s : State) : (setCause x c s).pst = s.pst := rfl
@[simp] theorem setCause_hlc (x : Src) (c : Cause) (s : State) : (setCause x c s).hlc = s.hlc := rfl
@[simp] theorem setCause_squ (x : Src) (c : Cause) (s : State) : (setCause x c s).squ = { s.squ with srcs := s.squ.srcs.set x { s.squ.srcs.get x with cause := c } } := rfl
@[simp] theorem setCause_ccu (x : Src) (c : Cause) (s : State) : (setCause x c s).ccu = s.ccu := rfl
@[simp] theorem setCause_bcu (x : Src) (c : Cause) (s : State) : (setCause x c s).bcu = s.bcu := rfl
@[simp] theorem setCause_seqs (x : Src) (c : Cause) (s : State) : (setCause x c s).seqs = s.seqs := rfl
@[simp] theorem setCause_owner (x : Src) (c : Cause) (s : State) : (setCause x c s).owner = s.owner := rfl
@[simp] theorem setCause_lmg (x : Src) (c : Cause) (s : State) : (setCause x c s).lmg = s.lmg := rfl
@[simp] theorem setCause_mdc (x : Src) (c : Cause) (s : State) : (setCause x c s).mdc = s.mdc := rfl
@[simp] theorem setCause_spt (x : Src) (c : Cause) (s : State) : (setCause x c s).spt = s.spt := rfl
@[simp] theorem setCause_agenda (x : Src) (c : Cause) (s : State) : (setCause x c s).agenda = s.agenda := rfl
@[simp] theorem setCause_freeCount (x : Src) (c : Cause) (s : State) : (setCause x c s).freeCount = s.freeCount := rfl
@[simp] theorem setCause_pending (x : Src) (c : Cause) (s : State) : (setCause x c s).pending = s.pending := rfl

@[simp] theorem setQTimer_now (x : Src) (t : Option (QTimer × Nat)) (s : State) : (setQTimer x t s).now = s.now := rfl
@[simp] theorem setQTimer_inReset (x : Src) (t : Option (QTimer × Nat)) (s : State) : (setQTimer x t s).inReset = s.inReset := rfl
@[simp] theorem setQTimer_loaded (x : Src) (t : Option (QTimer × Nat)) (s : State) : (setQTimer x t s).loaded = s.loaded := rfl
@[simp] theorem setQTimer_adopted (x : Src) (t : Option (QTimer × Nat)) (s : State) : (setQTimer x t s).adopted = s.adopted := rfl
@[simp] theorem setQTimer_pst (x : Src) (t : Option (QTimer × Nat)) (s : State) : (setQTimer x t s).pst = s.pst := rfl
@[simp] theorem setQTimer_hlc (x : Src) (t : Option (QTimer × Nat)) (s : State) : (setQTimer x t s).hlc = s.hlc := rfl
@[simp] theorem setQTimer_squ (x : Src) (t : Option (QTimer × Nat)) (s : State) : (setQTimer x t s).squ = { s.squ with srcs := s.squ.srcs.set x { s.squ.srcs.get x with timer := t } } := rfl
@[simp] theorem setQTimer_ccu (x : Src) (t : Option (QTimer × Nat)) (s : State) : (setQTimer x t s).ccu = s.ccu := rfl
@[simp] theorem setQTimer_bcu (x : Src) (t : Option (QTimer × Nat)) (s : State) : (setQTimer x t s).bcu = s.bcu := rfl
@[simp] theorem setQTimer_seqs (x : Src) (t : Option (QTimer × Nat)) (s : State) : (setQTimer x t s).seqs = s.seqs := rfl
@[simp] theorem setQTimer_owner (x : Src) (t : Option (QTimer × Nat)) (s : State) : (setQTimer x t s).owner = s.owner := rfl
@[simp] theorem setQTimer_lmg (x : Src) (t : Option (QTimer × Nat)) (s : State) : (setQTimer x t s).lmg = s.lmg := rfl
@[simp] theorem setQTimer_mdc (x : Src) (t : Option (QTimer × Nat)) (s : State) : (setQTimer x t s).mdc = s.mdc := rfl
@[simp] theorem setQTimer_spt (x : Src) (t : Option (QTimer × Nat)) (s : State) : (setQTimer x t s).spt = s.spt := rfl
@[simp] theorem setQTimer_agenda (x : Src) (t : Option (QTimer × Nat)) (s : State) : (setQTimer x t s).agenda = s.agenda := rfl
@[simp] theorem setQTimer_freeCount (x : Src) (t : Option (QTimer × Nat)) (s : State) : (setQTimer x t s).freeCount = s.freeCount := rfl
@[simp] theorem setQTimer_pending (x : Src) (t : Option (QTimer × Nat)) (s : State) : (setQTimer x t s).pending = s.pending := rfl

@[simp] theorem post_spt_baud (n : Note) (s : State) : (post n s).spt.baud = s.spt.baud := by unfold post; split <;> rfl
@[simp] theorem post_spt_hmDe (n : Note) (s : State) : (post n s).spt.hmDe = s.spt.hmDe := by unfold post; split <;> rfl
@[simp] theorem post_spt_rx (n : Note) (s : State) : (post n s).spt.rx = s.spt.rx := by unfold post; split <;> rfl
@[simp] theorem post_spt_rxGap (n : Note) (s : State) : (post n s).spt.rxGap = s.spt.rxGap := by unfold post; split <;> rfl
@[simp] theorem post_spt_service (n : Note) (s : State) : (post n s).spt.service = s.spt.service := by unfold post; split <;> rfl
@[simp] theorem formReply_spt_baud (k : Byte) (r : Reply) (s : State) : (formReply k r s).spt.baud = s.spt.baud := by unfold formReply; split <;> (try split) <;> rfl
@[simp] theorem formReply_spt_hmDe (k : Byte) (r : Reply) (s : State) : (formReply k r s).spt.hmDe = s.spt.hmDe := by unfold formReply; split <;> (try split) <;> rfl
@[simp] theorem formReply_spt_rx (k : Byte) (r : Reply) (s : State) : (formReply k r s).spt.rx = s.spt.rx := by unfold formReply; split <;> (try split) <;> rfl
@[simp] theorem formReply_spt_rxGap (k : Byte) (r : Reply) (s : State) : (formReply k r s).spt.rxGap = s.spt.rxGap := by unfold formReply; split <;> (try split) <;> rfl
@[simp] theorem formReply_spt_queue (k : Byte) (r : Reply) (s : State) : (formReply k r s).spt.queue = s.spt.queue := by unfold formReply; split <;> (try split) <;> rfl
@[simp] theorem formReply_spt_overflow (k : Byte) (r : Reply) (s : State) : (formReply k r s).spt.overflow = s.spt.overflow := by unfold formReply; split <;> (try split) <;> rfl

@[simp] theorem driveLine_lmg_feeders (x : Feeder) (b : Bool) (s : State) : (driveLine x b s).lmg.feeders = s.lmg.feeders := by unfold driveLine; split <;> rfl
@[simp] theorem driveLine_lmg_shedStack (x : Feeder) (b : Bool) (s : State) : (driveLine x b s).lmg.shedStack = s.lmg.shedStack := by unfold driveLine; split <;> rfl
@[simp] theorem driveLine_lmg_islands (x : Feeder) (b : Bool) (s : State) : (driveLine x b s).lmg.islands = s.lmg.islands := by unfold driveLine; split <;> rfl
@[simp] theorem driveLine_lmg_anns (x : Feeder) (b : Bool) (s : State) : (driveLine x b s).lmg.anns = s.lmg.anns := by unfold driveLine; split <;> rfl
@[simp] theorem modIsland_lmg_feeders (i : IslandId) (g : IslandRec → IslandRec) (s : State) : (modIsland i g s).lmg.feeders = s.lmg.feeders := rfl
@[simp] theorem modIsland_lmg_shedStack (i : IslandId) (g : IslandRec → IslandRec) (s : State) : (modIsland i g s).lmg.shedStack = s.lmg.shedStack := rfl
@[simp] theorem modIsland_lmg_anns (i : IslandId) (g : IslandRec → IslandRec) (s : State) : (modIsland i g s).lmg.anns = s.lmg.anns := rfl
@[simp] theorem modIsland_lmg_lines (i : IslandId) (g : IslandRec → IslandRec) (s : State) : (modIsland i g s).lmg.lines = s.lmg.lines := rfl
@[simp] theorem keep_ccu_watches (p : Pair) (r : PairResult) (s : State) : (keep p r s).ccu.watches = s.ccu.watches := by unfold keep; split <;> rfl

end Sys2Proof.Machine
end

