-- ==== Sys2Proof/Laws/Tables.lean ====
section
/-! SUPPORT. Records indexed by a fixed set of names: reading back what was set, and reading another place. -/

namespace Sys2Proof

@[simp] theorem BySec.get_set_self {α : Type} (t : BySec α) (i : Sec) (v : α) : (t.set i v).get i = v := by
  cases i <;> rfl
theorem BySec.get_set_other {α : Type} (t : BySec α) {i j : Sec} (v : α) (h : i ≠ j) : (t.set i v).get j = t.get j := by
  cases i <;> cases j <;> first | rfl | exact absurd rfl h
theorem BySec.get_set {α : Type} (t : BySec α) (i j : Sec) (v : α) : (t.set i v).get j = if i = j then v else t.get j := by
  by_cases h : i = j
  · subst h; simp
  · simp [h, BySec.get_set_other t v h]
@[simp] theorem BySec.set_get {α : Type} (t : BySec α) (i : Sec) : t.set i (t.get i) = t := by
  cases i <;> rfl
@[simp] theorem BySec.get_all {α : Type} (v : α) (i : Sec) : (BySec.all v).get i = v := by
  cases i <;> rfl

@[simp] theorem BySrc.get_set_self {α : Type} (t : BySrc α) (i : Src) (v : α) : (t.set i v).get i = v := by
  cases i <;> rfl
theorem BySrc.get_set_other {α : Type} (t : BySrc α) {i j : Src} (v : α) (h : i ≠ j) : (t.set i v).get j = t.get j := by
  cases i <;> cases j <;> first | rfl | exact absurd rfl h
theorem BySrc.get_set {α : Type} (t : BySrc α) (i j : Src) (v : α) : (t.set i v).get j = if i = j then v else t.get j := by
  by_cases h : i = j
  · subst h; simp
  · simp [h, BySrc.get_set_other t v h]
@[simp] theorem BySrc.set_get {α : Type} (t : BySrc α) (i : Src) : t.set i (t.get i) = t := by
  cases i <;> rfl
@[simp] theorem BySrc.get_all {α : Type} (v : α) (i : Src) : (BySrc.all v).get i = v := by
  cases i <;> rfl

@[simp] theorem ByChan.get_set_self {α : Type} (t : ByChan α) (i : Chan) (v : α) : (t.set i v).get i = v := by
  cases i <;> rfl
theorem ByChan.get_set_other {α : Type} (t : ByChan α) {i j : Chan} (v : α) (h : i ≠ j) : (t.set i v).get j = t.get j := by
  cases i <;> cases j <;> first | rfl | exact absurd rfl h
theorem ByChan.get_set {α : Type} (t : ByChan α) (i j : Chan) (v : α) : (t.set i v).get j = if i = j then v else t.get j := by
  by_cases h : i = j
  · subst h; simp
  · simp [h, ByChan.get_set_other t v h]
@[simp] theorem ByChan.set_get {α : Type} (t : ByChan α) (i : Chan) : t.set i (t.get i) = t := by
  cases i <;> rfl
@[simp] theorem ByChan.get_all {α : Type} (v : α) (i : Chan) : (ByChan.all v).get i = v := by
  cases i <;> rfl

@[simp] theorem ByPoint.get_set_self {α : Type} (t : ByPoint α) (i : Point) (v : α) : (t.set i v).get i = v := by
  rcases i with i | i <;> cases i <;> rfl
theorem ByPoint.get_set_other {α : Type} (t : ByPoint α) {i j : Point} (v : α) (h : i ≠ j) : (t.set i v).get j = t.get j := by
  rcases i with i | i <;> rcases j with j | j <;> cases i <;> cases j <;> first | rfl | exact absurd rfl h
theorem ByPoint.get_set {α : Type} (t : ByPoint α) (i j : Point) (v : α) : (t.set i v).get j = if i = j then v else t.get j := by
  by_cases h : i = j
  · subst h; simp
  · simp [h, ByPoint.get_set_other t v h]
@[simp] theorem ByPoint.set_get {α : Type} (t : ByPoint α) (i : Point) : t.set i (t.get i) = t := by
  rcases i with i | i <;> cases i <;> rfl
@[simp] theorem ByPoint.get_all {α : Type} (v : α) (i : Point) : (ByPoint.all v).get i = v := by
  rcases i with i | i <;> cases i <;> rfl
theorem ByPoint.ext_get {α : Type} {t u : ByPoint α} (h : ∀ i, t.get i = u.get i) : t = u := by
  rcases t with ⟨⟨a, b, c, d⟩, ⟨e, f⟩⟩; rcases u with ⟨⟨a', b', c', d'⟩, ⟨e', f'⟩⟩
  have h1 := h (.src .src1); have h2 := h (.src .src2); have h3 := h (.src .src3); have h4 := h (.src .src4)
  have h5 := h (.bus .sec1); have h6 := h (.bus .sec2)
  simp only [ByPoint.get, BySrc.get, BySec.get] at h1 h2 h3 h4 h5 h6
  subst h1 h2 h3 h4 h5 h6; rfl

@[simp] theorem BySix.get_set_self {α : Type} (t : BySix α) (i : Six) (v : α) : (t.set i v).get i = v := by
  cases i <;> rfl
theorem BySix.get_set_other {α : Type} (t : BySix α) {i j : Six} (v : α) (h : i ≠ j) : (t.set i v).get j = t.get j := by
  cases i <;> cases j <;> first | rfl | exact absurd rfl h
theorem BySix.get_set {α : Type} (t : BySix α) (i j : Six) (v : α) : (t.set i v).get j = if i = j then v else t.get j := by
  by_cases h : i = j
  · subst h; simp
  · simp [h, BySix.get_set_other t v h]
@[simp] theorem BySix.set_get {α : Type} (t : BySix α) (i : Six) : t.set i (t.get i) = t := by
  cases i <;> rfl
@[simp] theorem BySix.get_all {α : Type} (v : α) (i : Six) : (BySix.all v).get i = v := by
  cases i <;> rfl

@[simp] theorem ByPage.get_set_self {α : Type} (t : ByPage α) (i : PageNo) (v : α) : (t.set i v).get i = v := by
  cases i <;> rfl
theorem ByPage.get_set_other {α : Type} (t : ByPage α) {i j : PageNo} (v : α) (h : i ≠ j) : (t.set i v).get j = t.get j := by
  cases i <;> cases j <;> first | rfl | exact absurd rfl h
theorem ByPage.get_set {α : Type} (t : ByPage α) (i j : PageNo) (v : α) : (t.set i v).get j = if i = j then v else t.get j := by
  by_cases h : i = j
  · subst h; simp
  · simp [h, ByPage.get_set_other t v h]
@[simp] theorem ByPage.set_get {α : Type} (t : ByPage α) (i : PageNo) : t.set i (t.get i) = t := by
  cases i <;> rfl
@[simp] theorem ByPage.get_all {α : Type} (v : α) (i : PageNo) : (ByPage.all v).get i = v := by
  cases i <;> rfl

@[simp] theorem ByChan.get_map {α β : Type} (f : α → β) (t : ByChan α) (i : Chan) : (t.map f).get i = f (t.get i) := by
  cases i <;> rfl

end Sys2Proof
end

