-- ==== Sys2Proof/Laws/Moves.lean ====
section
/-! SUPPORT. What the taking of reports can do to a state, said once: `Moves s t` says that t comes from s by the moves
below alone. Every operation of the sequencers, of LMG and of the run supervision is such a path, and so is `settle`. A
property of every step follows from the moves, with no operation unfolded again. -/

namespace Sys2Proof.Machine

/-- The part of the state that only a named move changes. -/
structure Guarded where
  inReset   : Bool
  loaded    : Bool
  adopted   : Bool
  pages     : ByPage Page
  edit      : PageNo
  stored    : StoredPtr
  linkMap   : LinkMap
  store     : Store
  active    : Option PageNo
  waiting   : Option PageNo
  hlc       : HlcState
  bcu       : ByChan ChanRec
  owner     : Option Sec
  feeders   : Vector FeederRec 24
  shedStack : BySec (List Feeder)
  lines     : Vector Bool 24
  modes     : BySec Mode
  hostBlock : Bool
  blk       : InputPin
  latches   : BitVec 4
  spt       : SptState
  pending   : List Instr
  deriving DecidableEq

/-- The guarded part of a state. -/
def State.guarded (s : State) : Guarded :=
  { inReset := s.inReset, loaded := s.loaded, adopted := s.adopted, pages := s.pst.pages, edit := s.pst.edit,
    stored := s.pst.storedActive, linkMap := s.pst.linkMap, store := s.pst.store, active := s.pst.active,
    waiting := s.pst.pendingPage, hlc := s.hlc, bcu := s.bcu, owner := s.owner, feeders := s.lmg.feeders,
    shedStack := s.lmg.shedStack, lines := s.lmg.lines, modes := s.mdc.modes, hostBlock := s.mdc.hostBlock,
    blk := s.mdc.blk, latches := s.mdc.latches, spt := s.spt, pending := s.pending }

/-- Marks a feeder SHED, puts it on its stack and drives its line (R151). -/
def markShed (f : Feeder) (s : State) : State :=
  driveLine f true (setStack (feederSec f) (s.lmg.shedStack.get (feederSec f) ++ [f])
    (modFeeder f (fun r => { r with shed := true }) s))

/-- Marks a feeder CONNECTED, takes it off its stack and drives its line (R146, R156). -/
def markBack (l : List Feeder) (f : Feeder) (s : State) : State :=
  driveLine f false (modFeeder f (fun r => { r with shed := false }) (setStack (feederSec f) l s))

/-- t comes from s by the moves that the taking of reports is made of. -/
inductive Moves (s : State) : State → Prop
  | refl : Moves s s
  | other {t u : State} (h : Moves s t) (e : u.guarded = t.guarded) : Moves s u
  | noted {t : State} (h : Moves s t) (n : Note) : Moves s (post n t)
  | close {t : State} (h : Moves s t) (c : Chan) (q : Requester) (ok : t.closeRefusal c = none) : Moves s (startClose c q t)
  | claim {t : State} (h : Moves s t) (n : Sec) (auto : t.auto n = true) (free : t.owner = none) (ok : t.closeRefusal .bkt = none) :
      Moves s (startClose .bkt (.seq n) (setOwner (some n) t))
  | release {t : State} (h : Moves s t) : Moves s (releaseTie t)
  | trip {t : State} (h : Moves s t) (c : Chan) (q : Requester) (ok : t.blocked = false) : Moves s (startTrip c q t)
  | stop {t : State} (h : Moves s t) (c : Chan) : Moves s (stopPulse c t)
  | learned {t : State} (h : Moves s t) (c : Chan) (v : Nat) : Moves s (modChan c (fun r => { r with tc := v }) t)
  | shed {t : State} (h : Moves s t) (f : Feeder) (ok : (t.feeder f).shed = false) : Moves s (markShed f t)
  | back {t : State} (h : Moves s t) (f : Feeder)
      (ok : (t.feeder f).shed = true) :
      Moves s (markBack ((t.lmg.shedStack.get (feederSec f)).filter (· ≠ f)) f t)
  | pop {t : State} (h : Moves s t) (n : Sec) (f : Feeder) (top : (t.lmg.shedStack.get n).getLast? = some f) :
      Moves s (markBack (t.lmg.shedStack.get (feederSec f)).dropLast f t)
  | demand {t : State} (h : Moves s t) (f : Feeder) (v : Nat) :
      Moves s (modFeeder f (fun r => { r with demand := v }) t)
  | drive {t : State} (h : Moves s t) (f : Feeder) : Moves s (driveLine f (t.feeder f).shed t)
  | drop {t : State} (h : Moves s t) (ok : t.blocked = true) : Moves s { t with lmg := { t.lmg with lines := linesOff } }
  | activate {t : State} (h : Moves s t) (p : PageNo)
      (ok : t.pst.pendingPage = some p ∨ (t.pst.pages.get p).status = .valid) :
      Moves s (modPst (fun q => { q with active := some p, pendingPage := none }) t)

namespace Moves

variable {s t u : State}

theorem trans (h : Moves s t) (k : Moves t u) : Moves s u := by
  induction k with
  | refl => exact h
  | other _ e ih => exact .other ih e
  | noted _ n ih => exact .noted ih n
  | close _ c q ok ih => exact .close ih c q ok
  | claim _ n auto free ok ih => exact .claim ih n auto free ok
  | release _ ih => exact .release ih
  | trip _ c q ok ih => exact .trip ih c q ok
  | stop _ c ih => exact .stop ih c
  | learned _ c v ih => exact .learned ih c v
  | shed _ f ok ih => exact .shed ih f ok
  | back _ f ok ih => exact .back ih f ok
  | pop _ n f top ih => exact .pop ih n f top
  | demand _ f v ih => exact .demand ih f v
  | drive _ f ih => exact .drive ih f
  | drop _ ok ih => exact .drop ih ok
  | activate _ p ok ih => exact .activate ih p ok

/-- A fold of paths is a path. -/
theorem foldl {α : Type} (l : List α) (f : State → α → State) (step : ∀ t a, Moves t (f t a)) :
    Moves t (l.foldl f t) := by
  induction l generalizing t with
  | nil => exact .refl
  | cons a l ih => exact trans (step t a) ih

end Moves

/-! ### Primitive updates -/

variable {s t : State}

theorem report_moves (r : Report) (h : Moves s t) : Moves s (report r t) := .other h (by rfl)
theorem modSeq_moves (n : Sec) (f : SecCtx → SecCtx) (h : Moves s t) : Moves s (modSeq n f t) := .other h (by rfl)
theorem modRun_moves (x : Src) (f : RunRec → RunRec) (h : Moves s t) : Moves s (modRun x f t) := .other h (by rfl)
theorem setWatch_moves (n : Sec) (w : Option Watch) (h : Moves s t) : Moves s (setWatch n w t) := .other h (by rfl)
theorem useFree_moves (h : Moves s t) : Moves s (useFree t) := .other h (by rfl)
theorem reach_moves (d : Nat) (h : Moves s t) : Moves s (reach d t) := .other h (by rfl)
theorem triggerAlarm_moves (h : Moves s t) : Moves s (triggerAlarm t) := .other h (by rfl)
theorem modIsland_moves (i : IslandId) (g : IslandRec → IslandRec) (h : Moves s t) : Moves s (modIsland i g t) :=
  .other h (by rfl)
theorem clearAnn_moves (n : Sec) (h : Moves s t) : Moves s (clearAnn n t) := .other h (by rfl)
theorem queueWrite_moves (w : StoreWrite) (h : Moves s t) : Moves s (queueWrite w t) := .other h (by rfl)
theorem keep_moves (p : Pair) (r : PairResult) (h : Moves s t) : Moves s (keep p r t) :=
  .other h (by unfold keep; split <;> rfl)
theorem setCause_moves (x : Src) (c : Cause) (h : Moves s t) : Moves s (setCause x c t) := .other h (by rfl)

/-! ### SQU -/

theorem changeSrc_moves (x : Src) (n : SrcState) (c : Cause) (m : Option (QTimer × Nat)) (h : Moves s t) :
    Moves s (changeSrc x n c m t) := by
  unfold changeSrc
  dsimp only
  apply report_moves
  split
  · exact .noted (.other h (by rfl)) _
  · exact .other h (by rfl)

theorem setBus_moves (b : Sec) (st : BusState) (v : Nat) (h : Moves s t) : Moves s (setBus b st v t) := by
  unfold setBus
  dsimp only
  split
  · exact .other h (by rfl)
  · exact report_moves _ (.other h (by rfl))

theorem squInvalid_moves (p : Point) (h : Moves s t) : Moves s (squInvalid p t) := by
  unfold squInvalid
  cases p with
  | src x => dsimp only; split; exact h; exact changeSrc_moves _ _ _ _ h
  | bus b => exact setBus_moves _ _ _ h

theorem srcActivated_moves (old : Items) (x : Src) (h : Moves s t) : Moves s (srcActivated old x t) := by
  unfold srcActivated
  split
  · split; exact h; exact changeSrc_moves _ _ _ _ h
  · split; exact changeSrc_moves _ _ _ _ h; exact h

/-! ### LMG -/

theorem shedOne_moves (l : List Sec) (b : Nat) (x : Src) (o : Occasion) (f : Feeder) (h : Moves s t)
    (ok : (t.feeder f).shed = false) : Moves s (shedOne l b x o f t) := by
  unfold shedOne
  dsimp only
  exact .noted (modIsland_moves _ _ (.shed h f ok)) _

theorem shedPass_moves (l : List Sec) (b : Nat) (x : Src) (o : Occasion) (h : Moves s t) :
    Moves s (shedPass l b x o t) := by
  unfold shedPass
  refine h.trans (Moves.foldl _ _ fun u f => ?_)
  split
  · rename_i c
    refine shedOne_moves _ _ _ _ _ .refl ?_
    simp only [State.sheddable, State.carried, Bool.and_eq_true, Bool.not_eq_true'] at c
    exact c.1.2.1.1.1.2
  · exact .refl

theorem overloadPass_moves (i : IslandId) (x : Src) (h : Moves s t) : Moves s (overloadPass i x t) := by
  unfold overloadPass
  dsimp only
  split
  · split
    · split
      · exact shedPass_moves _ _ _ _ (modIsland_moves _ _ h)
      · exact .noted (modIsland_moves _ _ (shedPass_moves _ _ _ _ (modIsland_moves _ _ h))) _
    · exact shedPass_moves _ _ _ _ (modIsland_moves _ _ h)
  · exact modIsland_moves _ _ (shedPass_moves _ _ _ _ (modIsland_moves _ _ h))

theorem superviseOne_moves (i : IslandId) (h : Moves s t) : Moves s (superviseOne i t) := by
  unfold superviseOne
  split
  · exact h
  · split
    · exact modIsland_moves _ _ h
    · split
      · split
        · split
          · exact overloadPass_moves _ _ h
          · exact modIsland_moves _ _ h
        · exact h
      · exact modIsland_moves _ _ h

theorem superviseAll_moves (h : Moves s t) : Moves s (superviseAll t) :=
  h.trans (Moves.foldl _ _ fun _ _ => superviseOne_moves _ .refl)

theorem announce_moves (n : Sec) (e : SecEntry) (h : Moves s t) : Moves s (announce n e t) := by
  unfold announce
  dsimp only
  split
  · exact .other h (by rfl)
  · apply superviseAll_moves
    split
    · exact .noted (shedPass_moves _ _ _ _ (.other h (by rfl))) _
    · exact shedPass_moves _ _ _ _ (.other h (by rfl))

theorem islandFed_moves (n : Sec) (h : Moves s t) : Moves s (islandFed n t) :=
  modIsland_moves _ _ (clearAnn_moves _ h)

theorem formIslands_moves (h : Moves s t) : Moves s (formIslands t) := .other h (by rfl)

theorem reformIslands_moves (h : Moves s t) : Moves s (reformIslands t) := superviseAll_moves (formIslands_moves h)

theorem restoreOne_moves (i : IslandId) (n b : Nat) (f : Feeder) (k : Sec) (h : Moves s t)
    (top : (t.lmg.shedStack.get k).getLast? = some f) : Moves s (restoreOne i n b f t) := by
  unfold restoreOne
  dsimp only
  exact superviseAll_moves (.noted (modIsland_moves _ _ (.pop h k f top)) _)

theorem restoreBlocked_moves (i : IslandId) (r : IslandRec) (n b : Nat) (f : Feeder) (h : Moves s t) :
    Moves s (restoreBlocked i r n b f t) := by
  unfold restoreBlocked
  split
  · exact h
  · exact .noted (modIsland_moves _ _ h) _

/-- A restore candidate stands at the top of a stack. -/
theorem candidate_top {i : IslandId} {f : Feeder} (h : t.candidate i = some f) :
    ∃ n, (t.lmg.shedStack.get n).getLast? = some f := by
  unfold State.candidate at h
  cases i with
  | bus1 => exact ⟨.sec1, h⟩
  | bus2 => exact ⟨.sec2, h⟩
  | both =>
    dsimp only at h
    split at h
    · rename_i a b ha hb
      split at h
      · exact ⟨.sec2, by rw [hb, h]⟩
      · exact ⟨.sec1, by rw [ha, h]⟩
    · rename_i a ha hb
      exact ⟨.sec1, by rw [ha, h]⟩
    · exact ⟨.sec2, h⟩

theorem restoreAttempt_moves (i : IslandId) (r : IslandRec) (x : Src) (h : Moves s t) :
    Moves s (restoreAttempt i r x t) := by
  unfold restoreAttempt
  split
  · exact h
  · rename_i f hf
    obtain ⟨n, top⟩ := candidate_top hf
    split
    · exact restoreOne_moves _ _ _ _ n h top
    · exact restoreBlocked_moves _ _ _ _ _ h

theorem restoreExpiry_moves (i : IslandId) (h : Moves s t) : Moves s (restoreExpiry i t) := by
  unfold restoreExpiry
  split
  · exact h
  · split
    · exact h
    · dsimp only
      apply modIsland_moves
      split
      · split
        · exact restoreAttempt_moves _ _ _ (reach_moves _ h)
        · exact reach_moves _ h
      · exact reach_moves _ h

theorem overloadExpiry_moves (i : IslandId) (h : Moves s t) : Moves s (overloadExpiry i t) := by
  unfold overloadExpiry
  split
  · exact h
  · split
    · exact overloadPass_moves _ _ (reach_moves _ h)
    · exact modIsland_moves _ _ h
    · exact h

theorem reportClassOne_moves (n : Nat) (h : Moves s t) : Moves s (reportClassOne n t) := by
  unfold reportClassOne
  split
  · exact h
  · exact report_moves _ h

theorem setDemand_moves (f : Feeder) (v : Nat) (h : Moves s t) : Moves s (setDemand f v t) :=
  reportClassOne_moves _ (superviseAll_moves (.demand h f _))

theorem unshedForPlan_moves (f : Feeder) (h : Moves s t) (ok : (t.feeder f).shed = true) :
    Moves s (unshedForPlan f t) := by
  unfold unshedForPlan
  dsimp only
  split
  · exact .noted (modIsland_moves _ _ (.back h f ok)) _
  · exact useFree_moves (.noted (modIsland_moves _ _ (.back h f ok)) _)

theorem feederActivated_moves (old : Items) (f : Feeder) (h : Moves s t) : Moves s (feederActivated old f t) := by
  have k : Moves s (if (old.fitted f && !t.plan.fitted f) = true then
      modFeeder f (fun r => { r with demand := t.plan.feeder f .demand }) t else t) := by
    split
    · exact .demand h f _
    · exact h
  unfold feederActivated
  dsimp only
  generalize (if (old.fitted f && !t.plan.fitted f) = true then
      modFeeder f (fun r => { r with demand := t.plan.feeder f .demand }) t else t) = u at k ⊢
  split
  · rename_i c
    refine unshedForPlan_moves _ k ?_
    simp only [Bool.and_eq_true] at c
    exact c.1
  · exact k

theorem linesOnBlock_moves (h : Moves s t) (ok : t.blocked = true) : Moves s (linesOnBlock t) := by
  unfold linesOnBlock
  split
  · exact .drop h ok
  · exact h

theorem loadActivated_moves (old : Items) (one : Nat) (h : Moves s t) : Moves s (loadActivated old one t) := by
  unfold loadActivated
  dsimp only
  apply reportClassOne_moves
  apply superviseAll_moves
  have k := h.trans (Moves.foldl allFeeders (fun t f => feederActivated old f t) fun u f => feederActivated_moves old f .refl)
  split
  · rename_i b
    exact linesOnBlock_moves k b
  · exact k

theorem driveAllLines_moves (h : Moves s t) : Moves s (driveAllLines t) :=
  h.trans (Moves.foldl _ _ fun _ f => .drive .refl f)

/-! ### MDC -/

theorem runStep_moves (x : Src) (h : Moves s t) : Moves s (runStep x t) := by
  unfold runStep
  split
  · exact modRun_moves _ _ h
  · exact h

theorem runAll_moves (h : Moves s t) : Moves s (runAll t) := by
  unfold runAll
  split
  · exact h.trans (Moves.foldl _ _ fun _ _ => runStep_moves _ .refl)
  · exact h

theorem coolExpiry_moves (x : Src) (h : Moves s t) : Moves s (coolExpiry x t) := by
  unfold coolExpiry
  split
  · exact h
  · dsimp only
    split <;> exact modRun_moves _ _ (reach_moves _ h)

theorem startExpiry_moves (x : Src) (h : Moves s t) : Moves s (startExpiry x t) := by
  unfold startExpiry
  split
  · exact h
  · exact .noted (modRun_moves _ _ (reach_moves _ h)) _

theorem runActivated_moves (old : Items) (x : Src) (h : Moves s t) : Moves s (runActivated old x t) := by
  unfold runActivated
  split
  · exact modRun_moves _ _ h
  · exact h

/-! ### BCU -/

theorem closeTrigger_moves (c : Chan) (q : Requester) (h : Moves s t) : Moves s (closeTrigger c q t).1 := by
  unfold closeTrigger
  split
  · exact h
  · rename_i ok
    exact .close h c q ok

theorem tripTrigger_moves (c : Chan) (q : Requester) (h : Moves s t) : Moves s (tripTrigger c q t).1 := by
  unfold tripTrigger
  split
  · exact h
  · rename_i b
    exact .trip h c q (by simpa using b)

theorem chanActivated_moves (old : Items) (c : Chan) (h : Moves s t) : Moves s (chanActivated old c t) := by
  unfold chanActivated
  split
  · exact h
  · exact .learned h c _

/-! ### Sequencers -/

theorem enter_moves (n : Sec) (st : SeqState) (h : Moves s t) : Moves s (enter n st t) := by
  unfold enter
  dsimp only
  have k : Moves s (if st = .decay ∨ st = .sync then modSeq n (·.into st) t
      else setWatch n none (modSeq n (·.into st) t)) := by
    split
    · exact modSeq_moves _ _ h
    · exact setWatch_moves _ _ (modSeq_moves _ _ h)
  split
  · exact k
  · apply report_moves
    split
    · exact clearAnn_moves _ k
    · exact k

theorem setFeed_moves (n : Sec) (e : Option Entry) (h : Moves s t) : Moves s (setFeed n e t) := by
  unfold setFeed
  split
  · exact h
  · exact report_moves _ (modSeq_moves _ _ h)

theorem enterFed_moves (n : Sec) (c : StartCause) (h : Moves s t) : Moves s (enterFed n c t) :=
  report_moves _ (enter_moves _ _ h)

theorem halt_moves (n : Sec) (c : HaltCause) (ch : Option Chan) (h : Moves s t) : Moves s (halt n c ch t) := by
  unfold halt
  dsimp only
  refine .noted (triggerAlarm_moves (enter_moves _ _ (setFeed_moves _ _ (modSeq_moves _ _ ?_)))) _
  unfold releaseAtHalt
  split
  · exact .release h
  · exact h

theorem beginTransfer_moves (n : Sec) (c : StartCause) (b : Bool) (e : SecEntry) (h : Moves s t) :
    Moves s (beginTransfer n c b e t) := by
  unfold beginTransfer
  dsimp only
  exact .noted (modSeq_moves _ _ (announce_moves _ _ (modSeq_moves _ _ h))) _

theorem setDecayWatch_moves (n : Sec) (h : Moves s t) : Moves s (setDecayWatch n t) := setWatch_moves _ _ h

theorem enterDecay_moves (n : Sec) (h : Moves s t) : Moves s (enterDecay n t) := by
  unfold enterDecay
  dsimp only
  exact report_moves _ (setDecayWatch_moves _ (modSeq_moves _ _ (enter_moves _ _ h)))

theorem stopAllPulses_moves (h : Moves s t) : Moves s (stopAllPulses t) :=
  h.trans (Moves.foldl _ _ fun _ c => .stop .refl c)

/-- What a trip trigger gave is a path, whatever it answered. -/
theorem tripTrigger_case (c : Chan) (q : Requester) (h : Moves s t) {u : State} {r : Option Status}
    (e : tripTrigger c q t = (u, r)) : Moves s u := by
  have k := tripTrigger_moves c q h
  rw [e] at k
  exact k

theorem openTransition_moves (n : Sec) (h : Moves s t) : Moves s (openTransition n t) := by
  unfold openTransition
  split
  · exact enterDecay_moves _ h
  · split
    · split
      · rename_i e
        exact halt_moves _ _ _ (tripTrigger_case _ _ h e)
      · rename_i e
        have k := tripTrigger_case _ _ h e
        split
        · exact halt_moves _ _ _ k
        · exact halt_moves _ _ _ k
        · exact enter_moves _ _ k
    · exact enterDecay_moves _ h

theorem takeChoice_moves (n : Sec) (c : StartCause) (l : List SecEntry) (o : Option SecEntry) (h : Moves s t) :
    Moves s (takeChoice n c l o t) := by
  cases o with
  | none => exact enter_moves _ _ h
  | some e =>
    unfold takeChoice
    dsimp only
    split
    · exact report_moves _ (setDecayWatch_moves _ (beginTransfer_moves _ _ _ _ h))
    · exact openTransition_moves _ (beginTransfer_moves _ _ _ _ h)

theorem select_moves (n : Sec) (c : StartCause) (h : Moves s t) : Moves s (select n c t) := by
  unfold select
  split
  · exact enter_moves _ _ h
  · exact takeChoice_moves _ _ _ _ h

theorem selectPast_moves (n : Sec) (l : List SecEntry) (h : Moves s t) : Moves s (selectPast n l t) := by
  unfold selectPast
  split
  · exact enter_moves _ _ h
  · exact takeChoice_moves _ _ _ _ h

theorem loseFeed_moves (n : Sec) (c : StartCause) (b : Bool) (h : Moves s t) : Moves s (loseFeed n c b t) := by
  unfold loseFeed
  dsimp only
  exact select_moves _ _ (setFeed_moves _ _ (modSeq_moves _ _ h))

/-- A close trigger's refusal does not look at the tie owner. -/
theorem closeRefusal_setOwner (c : Chan) (o : Option Sec) (t : State) : (setOwner o t).closeRefusal c = t.closeRefusal c := by
  simp [State.closeRefusal, State.blocked, State.avail]

theorem closeTarget_moves (n : Sec) (e : SecEntry) (h : Moves s t) (auto : t.auto n = true) : Moves s (closeTarget n e t).1 := by
  unfold closeTarget
  split
  · split
    · exact h
    · rename_i pass
      have free : t.owner = none := by
        unfold State.claimTest at pass
        dsimp only at pass
        split at pass
        · cases pass
        · rename_i f
          simpa using f
      unfold closeTrigger
      rw [closeRefusal_setOwner]
      cases ok : t.closeRefusal .bkt with
      | none => exact .claim h n auto free ok
      | some x =>
        refine .other h ?_
        simp [State.guarded, releaseTie, free]
  · have k := closeTrigger_moves (entryChan e) (.seq n) h
    split
    · rename_i eq
      rw [eq] at k
      exact k
    · rename_i eq
      rw [eq] at k
      exact k

/-- What a close of a target gave is a path, whatever it answered. -/
theorem closeTarget_case (n : Sec) (e : SecEntry) (h : Moves s t) (auto : t.auto n = true) {u : State} {r : Option CloseFailReason}
    (q : closeTarget n e t = (u, r)) : Moves s u := by
  have k := closeTarget_moves n e h auto
  rw [q] at k
  exact k

theorem decayClose_moves (n : Sec) (m : Method) (l : List SecEntry) (h : Moves s t) (auto : t.auto n = true) :
    Moves s (decayClose n m l t) := by
  unfold decayClose
  split
  · exact h
  · split
    · rename_i e
      exact selectPast_moves _ _ (.noted (closeTarget_case _ _ h auto e) _)
    · rename_i e
      exact enter_moves _ _ (modSeq_moves _ _ (closeTarget_case _ _ h auto e))

theorem testDecay_moves (n : Sec) (p : Bool) (l : List SecEntry) (h : Moves s t) : Moves s (testDecay n p l t) := by
  unfold testDecay
  split
  · rename_i c
    simp only [Bool.and_eq_true] at c
    split
    · exact decayClose_moves _ _ _ h c.1
    · exact h
  · exact h

theorem enterSync_moves (n : Sec) (h : Moves s t) : Moves s (enterSync n t) := by
  unfold enterSync
  dsimp only
  exact setWatch_moves _ _ (modSeq_moves _ _ (enter_moves _ _ h))

theorem syncClose_moves (n : Sec) (r : PairResult) (h : Moves s t) (auto : t.auto n = true) : Moves s (syncClose n r t) := by
  unfold syncClose
  split
  · exact h
  · split
    · rename_i e
      exact enterFed_moves _ _ (.noted (closeTarget_case _ _ h auto e) _)
    · rename_i e
      exact enter_moves _ _ (modSeq_moves _ _ (closeTarget_case _ _ h auto e))

theorem handResult_moves (n : Sec) (r : PairResult) (h : Moves s t) : Moves s (handResult n r t) := by
  unfold handResult
  split
  · rename_i auto
    dsimp only
    split
    · split
      · exact syncClose_moves _ _ (modSeq_moves _ _ h) auto
      · exact modSeq_moves _ _ h
    · exact testDecay_moves _ _ _ (modSeq_moves _ _ h)
    · exact h
  · exact h

theorem directTransfer_moves (n : Sec) (c : StartCause) (b : Bool) (e : SecEntry) (h : Moves s t) :
    Moves s (directTransfer n c b e t) := by
  unfold directTransfer
  dsimp only
  split
  · exact enterSync_moves _ (beginTransfer_moves _ _ _ _ h)
  · exact openTransition_moves _ (beginTransfer_moves _ _ _ _ h)

theorem evalReturn_moves (n : Sec) (h : Moves s t) : Moves s (evalReturn n t) := by
  unfold evalReturn
  split
  · dsimp only
    split
    · exact report_moves _ (modSeq_moves _ _ (enter_moves _ _ h))
    · exact modSeq_moves _ _ (enter_moves _ _ h)
  · exact h

theorem checkReturn_moves (n : Sec) (h : Moves s t) : Moves s (checkReturn n t) := by
  unfold checkReturn
  split
  · split
    · exact h
    · exact enterFed_moves _ _ h
  · exact enterFed_moves _ _ h

theorem fedTests_moves (n : Sec) (c : StartCause) (h : Moves s t) : Moves s (fedTests n c t) := by
  unfold fedTests
  split
  · split
    · split
      · exact loseFeed_moves _ _ _ h
      · exact evalReturn_moves _ h
    · exact evalReturn_moves _ h
  · exact h

theorem waitTest_moves (n : Sec) (h : Moves s t) : Moves s (waitTest n t) := by
  unfold waitTest
  split
  · exact enterFed_moves _ _ (setFeed_moves _ _ h)
  · exact select_moves _ _ h

theorem retest_moves (n : Sec) (h : Moves s t) : Moves s (retest n t) := by
  unfold retest
  split
  · split
    · exact h
    · exact select_moves _ _ h
  · exact h

theorem syncClaim_moves (n : Sec) (h : Moves s t) : Moves s (syncClaim n t) := by
  unfold syncClaim
  split
  · split
    · exact enterFed_moves _ _ h
    · exact h
  · exact h

theorem reconsider_moves (n : Sec) (w : Bool) (h : Moves s t) : Moves s (reconsider n w t) := by
  unfold reconsider
  split
  · split
    · split
      · exact evalReturn_moves _ h
      · exact h
    · exact checkReturn_moves _ h
    · exact syncClaim_moves _ h
    · split
      · exact waitTest_moves _ h
      · exact h
    · exact retest_moves _ h
    · exact h
    · exact h
    · exact h
    · exact h
  · exact h

theorem clearExclusion_moves (x : Src) (n : Sec) (h : Moves s t) : Moves s (clearExclusion x n t) := by
  unfold clearExclusion
  split
  · split
    · split
      · exact modSeq_moves _ _ h
      · exact h
    · exact h
  · exact h

theorem stopForDown_moves (n : Sec) (h : Moves s t) : Moves s (stopForDown n t) := by
  unfold stopForDown
  split
  · exact modSeq_moves _ _ (.stop h _)
  · exact h

theorem seqSource_moves (n : Sec) (x : Src) (st : SrcState) (h : Moves s t) : Moves s (seqSource n x st t) := by
  unfold seqSource
  split
  · dsimp only
    split
    · split
      · exact loseFeed_moves _ _ _ h
      · exact evalReturn_moves _ h
    · split
      · exact loseFeed_moves _ _ _ h
      · exact checkReturn_moves _ h
    · split
      · exact loseFeed_moves _ _ _ h
      · split
        · exact enterFed_moves _ _ h
        · exact syncClaim_moves _ h
    · split
      · exact modSeq_moves _ _ h
      · exact h
    · split
      · exact stopForDown_moves _ h
      · exact h
    · exact waitTest_moves _ h
    · exact retest_moves _ h
    · exact h
    · exact h
  · exact h

theorem srcReported_moves (x : Src) (st : SrcState) (h : Moves s t) : Moves s (srcReported x st t) := by
  unfold srcReported
  dsimp only
  apply seqSource_moves
  apply seqSource_moves
  split
  · exact modRun_moves _ _ (clearExclusion_moves _ _ (clearExclusion_moves _ _ h))
  · exact h

theorem transferDone_moves (n : Sec) (e : SecEntry) (d m : Nat) (c : StartCause) (h : Moves s t) :
    Moves s (transferDone n e d m c t) := by
  unfold transferDone
  dsimp only
  exact islandFed_moves _ (.noted (enterFed_moves _ _ (setFeed_moves _ _ h)) _)

theorem enterOverlap_moves (n : Sec) (o : Option Entry) (h : Moves s t) : Moves s (enterOverlap n o t) := by
  unfold enterOverlap
  dsimp only
  apply enter_moves
  apply modSeq_moves
  split
  · exact tripTrigger_moves _ _ h
  · exact h

theorem openConfirmed_moves (n : Sec) (c : Chan) (e : SecEntry) (m : Nat) (h : Moves s t) :
    Moves s (openConfirmed n c e m t) := by
  unfold openConfirmed
  dsimp only
  split
  · exact halt_moves _ _ _ h
  · split
    · exact select_moves _ _ h
    · exact transferDone_moves _ _ _ _ _ h

theorem closeConfirmed_moves (c : Chan) (n : Sec) (m : Nat) (h : Moves s t) : Moves s (closeConfirmed c n m t) := by
  unfold closeConfirmed
  split
  · split
    · exact h
    · split
      · exact enterOverlap_moves _ _ h
      · exact openConfirmed_moves _ _ _ _ h
  · exact h

theorem closeFailed_moves (c : Chan) (n : Sec) (h : Moves s t) : Moves s (closeFailed c n t) := by
  unfold closeFailed
  split
  · dsimp only
    split
    · exact enterFed_moves _ _ (.noted h _)
    · split
      · exact select_moves _ _ (modSeq_moves _ _ h)
      · exact halt_moves _ _ _ h
  · exact h

theorem closeWithdrawn_moves (c : Chan) (n : Sec) (h : Moves s t) : Moves s (closeWithdrawn c n t) := by
  unfold closeWithdrawn
  split
  · split
    · exact enterFed_moves _ _ h
    · exact select_moves _ _ h
  · exact h

theorem overlapEnd_moves (n : Sec) (h : Moves s t) : Moves s (overlapEnd n t) := by
  unfold overlapEnd
  split
  · exact h
  · split
    · dsimp only
      split
      · exact select_moves _ _ (setFeed_moves _ _ (.noted h _))
      · exact enterFed_moves _ _ (.noted h _)
    · exact transferDone_moves _ _ _ _ _ h

theorem overlapFail_moves (n : Sec) (c : HaltCause) (ch : Option Chan) (h : Moves s t) :
    Moves s (overlapFail n c ch t) := by
  unfold overlapFail
  dsimp only
  apply halt_moves
  split
  · exact h
  · split
    · exact tripTrigger_moves _ _ h
    · exact h

theorem restOn_moves (n : Sec) (e : Entry) (h : Moves s t) : Moves s (restOn n e t) :=
  enterFed_moves _ _ (setFeed_moves _ _ h)

theorem judgeLeft_moves (n : Sec) (c : Chan) {d : State} (h : Moves s t) (hd : Moves s d) :
    Moves s (judgeLeft n c t d) := by
  unfold judgeLeft
  split
  · exact hd
  · exact restOn_moves _ _ h
  · exact halt_moves _ _ _ h

theorem tripConfirmed_moves (c : Chan) (n : Sec) (h : Moves s t) : Moves s (tripConfirmed c n t) := by
  unfold tripConfirmed
  split
  · split
    · split
      · dsimp only
        refine judgeLeft_moves _ _ (setFeed_moves _ _ (modSeq_moves _ _ h)) ?_
        split
        · split
          · exact enterDecay_moves _ (setFeed_moves _ _ (modSeq_moves _ _ h))
          · exact select_moves _ _ (setFeed_moves _ _ (modSeq_moves _ _ h))
        · exact select_moves _ _ (setFeed_moves _ _ (modSeq_moves _ _ h))
      · exact h
    · split
      · exact overlapEnd_moves _ h
      · exact h
    · exact h
  · exact h

theorem tripFailed_moves (c : Chan) (n : Sec) (h : Moves s t) : Moves s (tripFailed c n t) := by
  unfold tripFailed
  split
  · split
    · split
      · exact halt_moves _ _ _ h
      · exact h
    · split
      · exact overlapFail_moves _ _ _ h
      · exact h
    · exact h
  · exact h

theorem lockoutEnded_moves (c : Chan) (n : Sec) (h : Moves s t) : Moves s (lockoutEnded c n t) := by
  unfold lockoutEnded
  split
  · split
    · split
      · exact halt_moves _ _ _ h
      · exact h
    · split
      · split
        · exact enterFed_moves _ _ (.noted h _)
        · exact halt_moves _ _ _ h
      · exact h
    · split
      · exact halt_moves _ _ _ h
      · exact h
    · exact h
  · exact h

theorem stopTarget_moves (n : Sec) (h : Moves s t) : Moves s (stopTarget n t) := by
  unfold stopTarget
  split
  · exact .stop h _
  · exact h

theorem channelLocked_moves (c : Chan) (n : Sec) (h : Moves s t) : Moves s (channelLocked c n t) := by
  unfold channelLocked
  split
  · dsimp only
    split
    · split
      · exact halt_moves _ _ _ h
      · exact h
    · by_cases k : (if (t.ctx n).closedTrans = true then feedChan n (t.ctx n).feed
          else ((t.ctx n).lost.map fun l => entryChan ⟨n, l.entry⟩)) = some c
      · rw [if_pos k]
        exact halt_moves _ _ _ (stopTarget_moves _ h)
      · rw [if_neg k]
        exact h
    · split
      · exact halt_moves _ _ _ h
      · exact h
    · exact h
  · exact h

theorem track_moves (n : Sec) (h : Moves s t) : Moves s (track n t) := by
  unfold track
  split
  · exact setFeed_moves _ _ h
  · split
    · exact enter_moves _ _ (setFeed_moves _ _ h)
    · exact enter_moves _ _ (setFeed_moves _ _ h)
    · exact h

theorem gainPath_moves (n : Sec) (h : Moves s t) : Moves s (gainPath n t) := by
  unfold gainPath
  dsimp only
  split
  · exact islandFed_moves _ (enterFed_moves _ _ (setFeed_moves _ _ h))
  · exact islandFed_moves _ (enterFed_moves _ _ (setFeed_moves _ _ h))
  · split
    · exact setFeed_moves _ _ h
    · exact islandFed_moves _ (enterFed_moves _ _ (setFeed_moves _ _ (stopTarget_moves _ h)))
  · exact setFeed_moves _ _ h
  · exact setFeed_moves _ _ h
  · split
    · exact h
    · exact enterFed_moves _ _ (setFeed_moves _ _ h)
  · exact h
  · exact h
  · exact h

theorem closeSeen_moves (n : Sec) (c : Chan) (k : ContactKind) (o : Option Operation) (h : Moves s t) :
    Moves s (closeSeen n c k o t) := by
  unfold closeSeen
  split
  · exact h
  · split
    · exact halt_moves _ _ _ h
    · split
      · exact gainPath_moves _ h
      · split
        · exact waitTest_moves _ h
        · exact retest_moves _ h
        · exact h

theorem feedOpened_moves (n : Sec) (c : Chan) (k : ContactKind) (h : Moves s t) : Moves s (feedOpened n c k t) := by
  unfold feedOpened
  split
  · exact halt_moves _ _ _ (setFeed_moves _ _ h)
  · exact judgeLeft_moves _ _ h (loseFeed_moves _ _ _ h)

theorem oldFeedOpened_moves (n : Sec) (c : Chan) (k : ContactKind) (h : Moves s t) :
    Moves s (oldFeedOpened n c k t) := by
  unfold oldFeedOpened
  split
  · exact halt_moves _ _ _ (stopTarget_moves _ h)
  · split
    · exact setFeed_moves _ _ (modSeq_moves _ _ h)
    · exact setFeed_moves _ _ h
    · exact halt_moves _ _ _ h

theorem otherOpened_moves (n : Sec) (h : Moves s t) : Moves s (otherOpened n t) := by
  unfold otherOpened
  split
  · split
    · exact h
    · exact restOn_moves _ _ h
  · exact h

theorem openSeen_moves (n : Sec) (c : Chan) (k : ContactKind) (h : Moves s t) : Moves s (openSeen n c k t) := by
  unfold openSeen
  dsimp only
  split
  · split
    · exact feedOpened_moves _ _ _ h
    · exact otherOpened_moves _ h
  · split
    · exact feedOpened_moves _ _ _ h
    · exact otherOpened_moves _ h
  · split
    · exact feedOpened_moves _ _ _ h
    · exact otherOpened_moves _ h
  · split
    · exact halt_moves _ _ _ h
    · split
      · exact restOn_moves _ _ h
      · exact waitTest_moves _ h
  · split
    · exact restOn_moves _ _ h
    · exact retest_moves _ h
  · split
    · split
      · exact oldFeedOpened_moves _ _ _ h
      · split
        · exact setFeed_moves _ _ h
        · exact h
    · exact h
  · split
    · exact halt_moves _ _ _ h
    · split
      · exact overlapEnd_moves _ h
      · split
        · exact halt_moves _ _ _ h
        · exact h
  · exact h
  · exact h

theorem contactSeen_moves (n : Sec) (c : Chan) (k : ContactKind) (o : Option Operation) (h : Moves s t) :
    Moves s (contactSeen n c k o t) := by
  unfold contactSeen
  split
  · exact track_moves _ h
  · split
    · exact setFeed_moves _ _ h
    · split
      · exact closeSeen_moves _ _ _ _ h
      · exact closeSeen_moves _ _ _ _ h
      · exact closeSeen_moves _ _ _ _ h
      · exact openSeen_moves _ _ _ h
      · exact openSeen_moves _ _ _ h
      · exact openSeen_moves _ _ _ h

theorem returnOver_moves (n : Sec) (h : Moves s t) : Moves s (returnOver n t) := by
  unfold returnOver
  split
  · exact directTransfer_moves _ _ _ _ h
  · exact enterFed_moves _ _ h

theorem syncOver_moves (n : Sec) (h : Moves s t) : Moves s (syncOver n t) := by
  unfold syncOver
  split
  · exact openTransition_moves _ (modSeq_moves _ _ h)
  · exact enterFed_moves _ _ (.noted h _)

theorem decayOver_moves (n : Sec) (h : Moves s t) : Moves s (decayOver n t) := by
  unfold decayOver
  split
  · exact testDecay_moves _ _ _ (modSeq_moves _ _ h)
  · exact halt_moves _ _ _ (modSeq_moves _ _ h)

theorem deadOver_moves (n : Sec) (h : Moves s t) : Moves s (deadOver n t) := testDecay_moves _ _ _ (modSeq_moves _ _ h)

theorem timerOver_moves (n : Sec) (k : SeqTimer) (h : Moves s t) : Moves s (timerOver n k t) := by
  unfold timerOver
  split
  · exact h
  · dsimp only
    have k' := modSeq_moves (s := s) n (·.stopTimer k) (reach_moves ‹Nat› h)
    split
    · split
      · exact returnOver_moves _ k'
      · exact syncOver_moves _ k'
      · exact decayOver_moves _ k'
      · exact deadOver_moves _ k'
      · exact overlapFail_moves _ _ _ k'
      · exact k'
    · exact k'

theorem holdEnded_moves (n : Sec) (h : Moves s t) : Moves s (holdEnded n t) := by
  unfold holdEnded
  split
  · split
    · exact waitTest_moves _ h
    · exact evalReturn_moves _ h
    · exact h
  · exact h

theorem seqBlocked_moves (n : Sec) (h : Moves s t) : Moves s (seqBlocked n t) := by
  unfold seqBlocked
  split
  · split
    · exact halt_moves _ _ _ h
    · exact halt_moves _ _ _ h
    · exact halt_moves _ _ _ h
    · exact enter_moves _ _ h
    · exact enterFed_moves _ _ h
    · exact enterFed_moves _ _ h
    · exact h
    · exact h
    · exact h
  · exact h

theorem seqReleased_moves (n : Sec) (h : Moves s t) : Moves s (seqReleased n t) := by
  unfold seqReleased
  split
  · exact holdEnded_moves _ h
  · exact h

theorem toManual_moves (n : Sec) (h : Moves s t) : Moves s (toManual n t) := by
  unfold toManual
  split
  · exact enter_moves _ _ h
  · exact h

theorem toAuto_moves (n : Sec) (h : Moves s t) : Moves s (toAuto n t) := by
  unfold toAuto
  split
  · split
    · exact h
    · exact fedTests_moves _ _ h
  · split
    · exact h
    · exact waitTest_moves _ h
  · exact h

theorem seqActivated_moves (n : Sec) (h : Moves s t) : Moves s (seqActivated n t) := by
  unfold seqActivated
  split
  · split
    · exact enterFed_moves _ _ h
    · exact evalReturn_moves _ h
    · exact select_moves _ _ h
    · exact h
  · exact h

theorem startRequested_moves (n : Sec) (e : Entry) (h : Moves s t) : Moves s (startRequested n e t) :=
  directTransfer_moves _ _ _ _ h

theorem resumeSection_moves (n : Sec) (h : Moves s t) : Moves s (resumeSection n t) := by
  unfold resumeSection
  dsimp only
  split
  · exact enterFed_moves _ _ (setFeed_moves _ _ (modSeq_moves _ _ h))
  · split
    · exact select_moves _ _ (enter_moves _ _ (setFeed_moves _ _ (modSeq_moves _ _ h)))
    · exact enter_moves _ _ (setFeed_moves _ _ (modSeq_moves _ _ h))
  · exact setFeed_moves _ _ (modSeq_moves _ _ (modSeq_moves _ _ h))

/-! ### Activation and the reports -/

theorem takeEffect_moves (p : PageNo) (h : Moves s t)
    (ok : t.pst.pendingPage = some p ∨ (t.pst.pages.get p).status = .valid) : Moves s (takeEffect p t) := by
  unfold takeEffect tellActivation
  dsimp only
  refine report_moves _ (report_moves _ (report_moves _ ?_))
  refine Moves.trans (loadActivated_moves _ _ ?_) (Moves.foldl _ _ fun _ _ => runActivated_moves _ _ .refl)
  refine Moves.trans ?_ (Moves.foldl _ _ fun _ _ => chanActivated_moves _ _ .refl)
  exact Moves.trans (.activate h p ok) (Moves.foldl _ _ fun _ _ => srcActivated_moves _ _ .refl)

theorem testPending_moves (h : Moves s t) : Moves s (testPending t) := by
  unfold testPending
  split
  · rename_i p e
    split
    · exact takeEffect_moves p h (.inl e)
    · exact h
  · exact h

theorem activationDone_moves (p : PageNo) (o : Option PageNo) (h : Moves s t) : Moves s (activationDone p o t) :=
  .noted (queueWrite_moves _ h) _

theorem computeWatch_moves (p : Point) (nd : Word) (n : Sec) (h : Moves s t) : Moves s (computeWatch p nd n t) := by
  unfold computeWatch
  split
  · split
    · exact handResult_moves _ _ (keep_moves _ _ h)
    · exact h
  · exact h

theorem forSecs_moves (f : Sec → State → State) (step : ∀ n u, Moves u (f n u)) (h : Moves s t) :
    Moves s (forSecs f t) := h.trans ((step _ _).trans (step _ _))

theorem forRequester_moves (q : Requester) (f : Sec → State → State) (step : ∀ n u, Moves u (f n u)) (h : Moves s t) :
    Moves s (forRequester q f t) := by
  unfold forRequester
  split
  · exact h.trans (step _ _)
  · exact h

theorem handle_moves (r : Report) (h : Moves s t) : Moves s (handle r t) := by
  unfold handle
  cases r with
  | srcChanged x p n => exact srcReported_moves _ _ h
  | busChanged b => exact testDecay_moves _ _ _ h
  | pointInvalid p nd => exact report_moves _ (squInvalid_moves _ h)
  | ccuPoint p nd => exact forSecs_moves _ (fun _ _ => computeWatch_moves _ _ _ .refl) h
  | availability c => exact forSecs_moves _ (fun _ _ => reconsider_moves _ _ .refl) h
  | tripConfirmed c => exact forSecs_moves _ (fun _ _ => tripConfirmed_moves _ _ .refl) h
  | tripFailed c => exact forSecs_moves _ (fun _ _ => tripFailed_moves _ _ .refl) h
  | closeConfirmed c q m => exact forRequester_moves _ _ (fun _ _ => closeConfirmed_moves _ _ _ .refl) h
  | closeFailed c q => exact forRequester_moves _ _ (fun _ _ => closeFailed_moves _ _ .refl) h
  | closeWithdrawn c q => exact forRequester_moves _ _ (fun _ _ => closeWithdrawn_moves _ _ .refl) h
  | lockoutEnded c o => exact forSecs_moves _ (fun _ _ => lockoutEnded_moves _ _ .refl) h
  | contact n c k o => exact contactSeen_moves _ _ _ _ h
  | channelLocked c => exact forSecs_moves _ (fun _ _ => channelLocked_moves _ _ .refl) h
  | channelCleared c => exact h
  | seqState n => exact reconsider_moves _ _ (testPending_moves h)
  | seqFeed n => exact reconsider_moves _ _ h
  | tieOwner => exact forSecs_moves _ (fun _ _ => reconsider_moves _ _ .refl) h
  | classOneDemand => exact forSecs_moves _ (fun _ _ => reconsider_moves _ _ .refl) h
  | holdEnded n => exact holdEnded_moves _ h
  | activated n => exact seqActivated_moves _ h
  | fedEntry n c => exact fedTests_moves _ _ h
  | decayTest n l => exact testDecay_moves _ _ _ h
  | timerOver n k => exact timerOver_moves _ _ h
  | activationDone p o => exact activationDone_moves _ _ h

theorem drain_moves (k : Nat) (h : Moves s t) : Moves s (drain k t) := by
  induction k generalizing t with
  | zero => exact h
  | succ k ih =>
    unfold drain
    split
    · exact h
    · exact ih (runAll_moves (handle_moves _ (.other h (by rfl))))

/-- The end of an event is a path: taking every report does nothing but the moves. -/
theorem settle_moves (h : Moves s t) : Moves s (settle t) := drain_moves _ (runAll_moves h)

/-! ### What a path leaves alone -/

/-- The part of the state that no path changes: everything of the head link, the block, the latches, the supervisory line
and its service, the pages with the store, the modes, and the queue of commands. -/
structure Unmoved where
  inReset   : Bool
  loaded    : Bool
  adopted   : Bool
  pages     : ByPage Page
  edit      : PageNo
  stored    : StoredPtr
  linkMap   : LinkMap
  store     : Store
  hlc       : HlcState
  modes     : BySec Mode
  hostBlock : Bool
  blk       : InputPin
  latches   : BitVec 4
  baud      : BitVec 2
  hmDe      : Bool
  rx        : Rx
  rxGap     : Option Nat
  service   : Option Service
  pending   : List Instr
  deriving DecidableEq

/-- What no path changes, from the guarded part. -/
def Guarded.unmoved (g : Guarded) : Unmoved :=
  { inReset := g.inReset, loaded := g.loaded, adopted := g.adopted, pages := g.pages, edit := g.edit, stored := g.stored,
    linkMap := g.linkMap, store := g.store, hlc := g.hlc, modes := g.modes, hostBlock := g.hostBlock, blk := g.blk,
    latches := g.latches, baud := g.spt.baud, hmDe := g.spt.hmDe, rx := g.spt.rx, rxGap := g.spt.rxGap,
    service := g.spt.service, pending := g.pending }

/-- What no path changes of a state. -/
def State.unmoved (s : State) : Unmoved := s.guarded.unmoved

theorem post_unmoved (n : Note) (s : State) : (post n s).unmoved = s.unmoved := by
  simp [State.unmoved, State.guarded, Guarded.unmoved]

theorem modChan_unmoved (c : Chan) (f : ChanRec → ChanRec) (s : State) : (modChan c f s).unmoved = s.unmoved := by
  simp [State.unmoved, State.guarded, Guarded.unmoved]

theorem setOwner_unmoved (o : Option Sec) (s : State) : (setOwner o s).unmoved = s.unmoved := by
  simp [State.unmoved, State.guarded, Guarded.unmoved]

theorem report_unmoved (r : Report) (s : State) : (report r s).unmoved = s.unmoved := rfl

theorem driveLine_unmoved (f : Feeder) (b : Bool) (s : State) : (driveLine f b s).unmoved = s.unmoved := by
  simp [State.unmoved, State.guarded, Guarded.unmoved]

theorem startTrip_unmoved (c : Chan) (q : Requester) (s : State) : (startTrip c q s).unmoved = s.unmoved := by
  unfold startTrip
  dsimp only
  split
  · unfold releaseTieFor
    split
    · exact (setOwner_unmoved _ _).trans ((report_unmoved _ _).trans (modChan_unmoved _ _ _))
    · exact (report_unmoved _ _).trans (modChan_unmoved _ _ _)
  · exact modChan_unmoved _ _ _

namespace Moves

variable {s t : State}

/-- A path changes nothing of what it leaves alone. -/
theorem unmoved (h : Moves s t) : t.unmoved = s.unmoved := by
  induction h with
  | refl => rfl
  | other _ e ih => exact (congrArg Guarded.unmoved e).trans ih
  | noted _ n ih => exact (post_unmoved _ _).trans ih
  | close _ c q _ ih => exact (modChan_unmoved _ _ _).trans ih
  | claim _ n _ _ _ ih => exact (modChan_unmoved _ _ _).trans ((setOwner_unmoved _ _).trans ih)
  | release _ ih => exact (setOwner_unmoved _ _).trans ih
  | trip _ c q _ ih => exact (startTrip_unmoved _ _ _).trans ih
  | stop _ c ih => exact (modChan_unmoved _ _ _).trans ih
  | learned _ c v ih => exact (modChan_unmoved _ _ _).trans ih
  | shed _ f _ ih => exact (driveLine_unmoved _ _ _).trans ih
  | back _ f _ ih => exact (driveLine_unmoved _ _ _).trans ih
  | pop _ n f _ ih => exact (driveLine_unmoved _ _ _).trans ih
  | demand _ f v ih => exact ih
  | drive _ f ih => exact (driveLine_unmoved _ _ _).trans ih
  | drop _ _ ih => exact ih
  | activate _ p _ ih => exact ih

theorem inReset_eq (h : Moves s t) : t.inReset = s.inReset := congrArg Unmoved.inReset h.unmoved
theorem loaded_eq (h : Moves s t) : t.loaded = s.loaded := congrArg Unmoved.loaded h.unmoved
theorem adopted_eq (h : Moves s t) : t.adopted = s.adopted := congrArg Unmoved.adopted h.unmoved
theorem pages_eq (h : Moves s t) : t.pst.pages = s.pst.pages := congrArg Unmoved.pages h.unmoved
theorem edit_eq (h : Moves s t) : t.pst.edit = s.pst.edit := congrArg Unmoved.edit h.unmoved
theorem stored_eq (h : Moves s t) : t.pst.storedActive = s.pst.storedActive := congrArg Unmoved.stored h.unmoved
theorem linkMap_eq (h : Moves s t) : t.pst.linkMap = s.pst.linkMap := congrArg Unmoved.linkMap h.unmoved
theorem store_eq (h : Moves s t) : t.pst.store = s.pst.store := congrArg Unmoved.store h.unmoved
theorem hlc_eq (h : Moves s t) : t.hlc = s.hlc := congrArg Unmoved.hlc h.unmoved
theorem modes_eq (h : Moves s t) : t.mdc.modes = s.mdc.modes := congrArg Unmoved.modes h.unmoved
theorem hostBlock_eq (h : Moves s t) : t.mdc.hostBlock = s.mdc.hostBlock := congrArg Unmoved.hostBlock h.unmoved
theorem blk_eq (h : Moves s t) : t.mdc.blk = s.mdc.blk := congrArg Unmoved.blk h.unmoved
theorem latches_eq (h : Moves s t) : t.mdc.latches = s.mdc.latches := congrArg Unmoved.latches h.unmoved
theorem baud_eq (h : Moves s t) : t.spt.baud = s.spt.baud := congrArg Unmoved.baud h.unmoved
theorem hmDe_eq (h : Moves s t) : t.spt.hmDe = s.spt.hmDe := congrArg Unmoved.hmDe h.unmoved
theorem rx_eq (h : Moves s t) : t.spt.rx = s.spt.rx := congrArg Unmoved.rx h.unmoved
theorem rxGap_eq (h : Moves s t) : t.spt.rxGap = s.spt.rxGap := congrArg Unmoved.rxGap h.unmoved
theorem service_eq (h : Moves s t) : t.spt.service = s.spt.service := congrArg Unmoved.service h.unmoved
theorem pending_eq (h : Moves s t) : t.pending = s.pending := congrArg Unmoved.pending h.unmoved

theorem blocked_eq (h : Moves s t) : t.blocked = s.blocked := by
  unfold State.blocked
  rw [h.hostBlock_eq, h.blk_eq]

end Moves

end Sys2Proof.Machine
end

