-- ==== Sys2Proof/Laws/Acts.lean ====
section
/-! SUPPORT. What a command can do to a state, said once: `Acts s t` says that t comes from s by the moves of `Moves` and
the further moves below, each a whole act of a block. `exec_cases` and `step_cases` say that no command and no step does
anything else, so that a law of every step is proved move by move, with no command unfolded again. -/

namespace Sys2Proof.Machine

/-- A channel record changed in what the coils, the position and the contacts do not show. -/
def ChanRec.Alike (r r' : ChanRec) : Prop :=
  r'.position = r.position ∧ r'.op = r.op ∧ r'.closeEnd = r.closeEnd ∧ r'.tripEnd = r.tripEnd ∧
  r'.aux.accepted = r.aux.accepted

/-- A channel's record replaced, with nothing reported. -/
def setChan (c : Chan) (r : ChanRec) (s : State) : State := { s with bcu := s.bcu.set c r }

/-- t comes from s by the moves that a command outside reset is made of. -/
inductive Acts (s : State) : State → Prop
  | refl : Acts s s
  | moves {t u : State} (h : Acts s t) (k : Moves t u) : Acts s u
  | line {t : State} (h : Acts s t) (p : SptState) (e : p.queue = t.spt.queue) : Acts s { t with spt := p }
  | taken {t : State} (h : Acts s t) (n : Notice) (rest : List Notice) (o : Bool) (e : t.spt.queue = n :: rest) :
      Acts s { t with spt := { t.spt with queue := rest, overflow := o } }
  | link {t : State} (h : Acts s t) (x : HlcState) : Acts s { t with hlc := x }
  | stored {t : State} (h : Acts s t) (q : PstState)
      (e : q.pages = t.pst.pages ∧ q.active = t.pst.active ∧ q.pendingPage = t.pst.pendingPage) :
      Acts s { t with pst := q }
  | page {t : State} (h : Acts s t) (p : PageNo) (f : Page → Page)
      (ok : t.pageInUse p = true → (t.pst.pages.get p).status = .valid → (f (t.pst.pages.get p)).status = .valid) :
      Acts s (modPage p f t)
  | waiting {t : State} (h : Acts s t) (w : Option PageNo)
      (ok : ∀ p, w = some p → (t.pst.pages.get p).status = .valid) :
      Acts s (modPst (fun q => { q with pendingPage := w }) t)
  | pins {t : State} (h : Acts s t) (c : Chan) (r : ChanRec) (e : (t.bcu.get c).Alike r) : Acts s (setChan c r t)
  | closeOver {t : State} (h : Acts s t) (c : Chan) : Acts s (setChan c { t.bcu.get c with closeEnd := none } t)
  | tripOver {t : State} (h : Acts s t) (c : Chan) : Acts s (setChan c { t.bcu.get c with tripEnd := none } t)
  | auxLate {t : State} (h : Acts s t) (c : Chan) (l : Bool) (e : (t.bcu.get c).aux.accepted ≠ l)
      (ad : t.adopted = true) : Acts s (tieFromBoard (modChan c (fun r => r.auxChanged l t.now) t))
  | auxEarly {t : State} (h : Acts s t) (c : Chan) (l : Bool) (e : (t.bcu.get c).aux.accepted ≠ l)
      (ad : t.adopted = false) : Acts s (modChan c (fun r => r.auxChanged l t.now) t)
  | tie {t : State} (h : Acts s t) (ad : t.adopted = true) : Acts s (tieFromBoard t)
  | lock {t : State} (h : Acts s t) (c : Chan)
      (ok : t.adopted = true → ∀ o, (t.bcu.get c).op = some o → o.kind = .trip) :
      Acts s (modChan c ChanRec.lockedOut t)
  | lockTie {t : State} (h : Acts s t) (c : Chan) : Acts s (releaseTieFor c (modChan c ChanRec.lockedOut t))
  | failClose {t : State} (h : Acts s t) (c : Chan) : Acts s (releaseTieFor c (modChan c (·.failed .failToClose) t))
  | failTrip {t : State} (h : Acts s t) (c : Chan) (e : t.closed c = true) : Acts s (modChan c (·.failed .failToOpen) t)
  | tripDone {t : State} (h : Acts s t) (c : Chan) (e : t.closed c = false)
      (k : ∃ o, (t.bcu.get c).op = some o ∧ o.kind = .trip) : Acts s (modChan c ChanRec.opened t)
  | clear {t : State} (h : Acts s t) (c : Chan)
      (e : (t.bcu.get c).position = .faulted ∨ (t.bcu.get c).position = .locked) : Acts s (modChan c ChanRec.cleared t)
  | mode {t : State} (h : Acts s t) (n : Sec) (m : Mode) (ad : t.adopted = true) : Acts s (setMode n m t)
  | control {t : State} (h : Acts s t) (m : MdcState) (e : m.modes = t.mdc.modes)
      (b : (m.blk.accepted || m.hostBlock) = t.blocked) : Acts s { t with mdc := m }
  | blockOn {t : State} (h : Acts s t) (m : MdcState) (e : m.modes = t.mdc.modes)
      (b : (m.blk.accepted || m.hostBlock) = true) : Acts s (stopAllPulses { t with mdc := m })
  | blockOff {t : State} (h : Acts s t) (m : MdcState) (e : m.modes = t.mdc.modes) (b : t.blocked = true)
      (u : (m.blk.accepted || m.hostBlock) = false) : Acts s (driveAllLines { t with mdc := m })
  | load {t : State} (h : Acts s t) (q : PstState) (it : Items)
      (ok : ∀ p, q.active = some p ∨ q.pendingPage = some p → (q.pages.get p).status = .valid) :
      Acts s { t with
        pst := q, loaded := true
        lmg := { t.lmg with feeders := feedersFrom it, shedStack := .all [], lines := linesOff } }
  | adopted {t : State} (h : Acts s t) : Acts s { adoptModes t with adopted := true }

namespace Acts

variable {s t u : State}

theorem other (h : Acts s t) (e : u.guarded = t.guarded) : Acts s u := .moves h (.other .refl e)

theorem noted (h : Acts s t) (n : Note) : Acts s (post n t) := .moves h (.noted .refl n)

theorem trans (h : Acts s t) (k : Acts t u) : Acts s u := by
  induction k with
  | refl => exact h
  | moves _ k ih => exact .moves ih k
  | line _ p e ih => exact .line ih p e
  | taken _ n r o e ih => exact .taken ih n r o e
  | link _ x ih => exact .link ih x
  | stored _ q e ih => exact .stored ih q e
  | page _ p f ok ih => exact .page ih p f ok
  | waiting _ w ok ih => exact .waiting ih w ok
  | pins _ c r e ih => exact .pins ih c r e
  | closeOver _ c ih => exact .closeOver ih c
  | tripOver _ c ih => exact .tripOver ih c
  | auxLate _ c l e ad ih => exact .auxLate ih c l e ad
  | auxEarly _ c l e ad ih => exact .auxEarly ih c l e ad
  | tie _ ad ih => exact .tie ih ad
  | lock _ c ok ih => exact .lock ih c ok
  | lockTie _ c ih => exact .lockTie ih c
  | failClose _ c ih => exact .failClose ih c
  | failTrip _ c e ih => exact .failTrip ih c e
  | tripDone _ c e k ih => exact .tripDone ih c e k
  | clear _ c e ih => exact .clear ih c e
  | mode _ n m ad ih => exact .mode ih n m ad
  | control _ m e b ih => exact .control ih m e b
  | blockOn _ m e b ih => exact .blockOn ih m e b
  | blockOff _ m e b u ih => exact .blockOff ih m e b u
  | load _ q it ok ih => exact .load ih q it ok
  | adopted _ ih => exact .adopted ih

/-- A fold of moves is made of moves. -/
theorem foldl {α : Type} (l : List α) (f : State → α → State) (step : ∀ t a, Acts t (f t a)) :
    Acts t (l.foldl f t) := by
  induction l generalizing t with
  | nil => exact .refl
  | cons a l ih => exact trans (step t a) ih

end Acts

variable {s t : State}

theorem settle_acts (h : Acts s t) : Acts s (settle t) := .moves h (settle_moves .refl)
theorem report_acts (r : Report) (h : Acts s t) : Acts s (report r t) := .moves h (report_moves r .refl)
theorem reach_acts (d : Nat) (h : Acts s t) : Acts s (reach d t) := .moves h (reach_moves d .refl)
theorem modHlc_acts (f : HlcState → HlcState) (h : Acts s t) : Acts s (modHlc f t) := .link h _
theorem modPoint_acts (p : Point) (f : PointRec → PointRec) (h : Acts s t) : Acts s (modPoint p f t) := .link h _
theorem setService_acts (k g : Byte) (ph : Phase) (h : Acts s t) : Acts s (setService k g ph t) := .line h _ rfl
theorem setRx_acts (r : Rx) (g : Option Nat) (h : Acts s t) : Acts s (setRx r g t) := .line h _ rfl

theorem formReply_acts (k : Byte) (r : Reply) (h : Acts s t) : Acts s (formReply k r t) := by
  unfold formReply
  split
  · split
    · exact .line h _ rfl
    · exact h
  · exact h

/-- A change of a channel's record whose report is nothing but a report. -/
theorem modChan_setChan (c : Chan) (f : ChanRec → ChanRec) (t : State) :
    (modChan c f t).guarded = (setChan c (f (t.bcu.get c)) t).guarded := by
  unfold modChan setChan
  dsimp only
  split <;> rfl

theorem modChan_acts {c : Chan} {f : ChanRec → ChanRec} (h : Acts s (setChan c (f (t.bcu.get c)) t)) :
    Acts s (modChan c f t) := .other h (modChan_setChan c f t)

/-! ### BCU -/

theorem reportContact_acts (c : Chan) (k : ContactKind) (o : Option Operation) (m : Nat) (h : Acts s t) :
    Acts s (reportContact c k o m t) := by
  have step : ∀ (b : Bool) (r : Report) (u : State), Acts s u → Acts s (if b = true then report r u else u) := by
    intro b r u hu
    split
    · exact report_acts _ hu
    · exact hu
  have k2 := step (t.told c .sec2) (.contact .sec2 c k o) _ (step (t.told c .sec1) (.contact .sec1 c k o) _ h)
  unfold reportContact
  dsimp only
  split
  · exact report_acts _ k2
  · exact report_acts _ k2
  · exact k2

theorem auxAccept_acts (c : Chan) (l : Bool) (h : Acts s t) : Acts s (auxAccept c l t) := by
  unfold auxAccept
  dsimp only
  split
  · rename_i e
    refine modChan_acts (.pins h c _ ⟨rfl, rfl, rfl, rfl, ?_⟩)
    simp [InputPin.accept, e]
  · rename_i e
    split
    · rename_i ad
      have k := Acts.auxLate h c l e ad
      refine reportContact_acts _ _ _ _ (.moves ?_ (reformIslands_moves .refl))
      split
      · exact .noted k _
      · exact k
    · rename_i ad
      exact .auxEarly h c l e (by simpa using ad)

theorem prtAccept_acts (c : Chan) (l : Bool) (h : Acts s t) : Acts s (prtAccept c l t) := by
  unfold prtAccept
  dsimp only
  split
  · exact modChan_acts (.pins h c _ ⟨rfl, rfl, rfl, rfl, rfl⟩)
  · split
    · refine .other (t := post _ _) (.noted (report_acts _ ?_) _) rfl
      split
      · rename_i o e
        refine report_acts _ ?_
        split
        · exact .lockTie h c
        · rename_i k
          refine .lock h c fun _ o' e' => ?_
          rw [e] at e'
          cases e'
          cases q : o.kind with
          | close => exact absurd q k
          | trip => rfl
      · rename_i e
        refine .lock h c fun _ o' e' => ?_
        rw [e] at e'
        cases e'
    · rename_i ad
      exact .lock h c fun q => absurd q ad

theorem readyAccept_acts (c : Chan) (w : RdyRck) (l : Bool) (h : Acts s t) : Acts s (readyAccept c w l t) := by
  unfold readyAccept
  refine modChan_acts (.pins h c _ ?_)
  cases w <;> exact ⟨rfl, rfl, rfl, rfl, rfl⟩

theorem closePulseOver_acts (c : Chan) (h : Acts s t) : Acts s (closePulseOver c t) := by
  unfold closePulseOver
  split
  · exact modChan_acts (.closeOver (reach_acts _ h) c)
  · exact h

theorem tripPulseOver_acts (c : Chan) (h : Acts s t) : Acts s (tripPulseOver c t) := by
  unfold tripPulseOver
  split
  · exact modChan_acts (.tripOver (reach_acts _ h) c)
  · exact h

theorem noteFault_acts (c : Chan) (f : ChanFault) (q : Requester) (h : Acts s t) : Acts s (noteFault c f q t) :=
  .other (.noted h _) rfl

theorem closeDeadline_acts (c : Chan) (h : Acts s t) : Acts s (closeDeadline c t) := by
  unfold closeDeadline
  split
  · split
    · exact report_acts _ (noteFault_acts _ _ _ (.failClose (reach_acts _ h) c))
    · exact h
  · exact h

theorem tripDeadline_acts (c : Chan) (h : Acts s t) : Acts s (tripDeadline c t) := by
  unfold tripDeadline
  split
  · rename_i o eo
    split
    · rename_i ek
      dsimp only
      split
      · rename_i e
        exact report_acts _ (noteFault_acts _ _ _ (.failTrip (reach_acts _ h) c e))
      · rename_i e
        exact report_acts _ (.tripDone (reach_acts _ h) c (by simpa using e) ⟨o, eo, ek⟩)
    · exact h
  · exact h

theorem clearChan_acts (c : Chan) (h : Acts s t)
    (e : (t.bcu.get c).position = .faulted ∨ (t.bcu.get c).position = .locked) : Acts s (clearChan c t) :=
  report_acts _ (.clear h c e)

/-! ### The block and the timers -/

theorem blockEntry_moves (h : Moves s t) (b : t.blocked = true) :
    Moves s (loadBlocked (seqBlocked .sec2 (seqBlocked .sec1 t))) := by
  have k := seqBlocked_moves .sec2 (seqBlocked_moves (s := t) .sec1 .refl)
  have b' : (seqBlocked .sec2 (seqBlocked .sec1 t)).blocked = true := by
    rw [← b]
    unfold State.blocked
    rw [k.hostBlock_eq, k.blk_eq]
  refine h.trans (k.trans ?_)
  unfold loadBlocked
  have m : Moves (seqBlocked .sec2 (seqBlocked .sec1 t))
      ((seqBlocked .sec2 (seqBlocked .sec1 t)).islandIds.foldl
        (fun t i => modIsland i (fun r => { r with overloadAt := none }) t) (seqBlocked .sec2 (seqBlocked .sec1 t))) :=
    Moves.foldl _ _ fun _ _ => modIsland_moves _ _ .refl
  refine linesOnBlock_moves m ?_
  rw [← b']
  unfold State.blocked
  rw [m.hostBlock_eq, m.blk_eq]

theorem changeBlock_acts (f : MdcState → MdcState) (h : Acts s t) (e : (f t.mdc).modes = t.mdc.modes) :
    Acts s (changeBlock f t) := by
  unfold changeBlock
  dsimp only
  have key : ({ t with mdc := f t.mdc } : State).blocked = ((f t.mdc).blk.accepted || (f t.mdc).hostBlock) := rfl
  split
  · rename_i b u
    unfold blockEntry
    refine .moves (.blockOn h (f t.mdc) e (key ▸ u)) (blockEntry_moves .refl ?_)
    have k : Moves ({ t with mdc := f t.mdc } : State) (stopAllPulses { t with mdc := f t.mdc }) :=
      Moves.foldl _ _ fun _ c => .stop .refl c
    rw [← u]
    unfold State.blocked
    rw [k.hostBlock_eq, k.blk_eq]
  · rename_i b u
    unfold blockRelease
    exact .moves (.blockOff h (f t.mdc) e b (key ▸ u))
      (superviseAll_moves (seqReleased_moves _ (seqReleased_moves _ .refl)))
  · rename_i n1 n2
    refine .control h (f t.mdc) e ?_
    rw [← key]
    cases b : t.blocked <;> cases u : ({ t with mdc := f t.mdc } : State).blocked
    · rfl
    · exact absurd u (fun q => n1 b q)
    · exact absurd u (fun q => n2 b q)
    · rfl

theorem settleOver_acts (n : Sec) (h : Acts s t) : Acts s (settleOver n t) := by
  unfold settleOver
  split
  · exact h
  · dsimp only
    have k : Acts s { reach ‹Nat› t with
        mdc := { (reach ‹Nat› t).mdc with settle := (reach ‹Nat› t).mdc.settle.set n none } } :=
      .control (reach_acts _ h) _ rfl rfl
    split
    · exact k
    · exact report_acts _ k

theorem alarmOver_acts (h : Acts s t) : Acts s (alarmOver t) := by
  unfold alarmOver
  split
  · exact h
  · exact .other (reach_acts _ h) rfl

/-! ### SQU -/

theorem pickExpired_acts (x : Src) (h : Acts s t) : Acts s (pickExpired x t) := by
  unfold pickExpired
  split
  · exact .moves (reach_acts _ h) (changeSrc_moves _ _ _ _ .refl)
  · exact h

theorem dropExpired_acts (x : Src) (h : Acts s t) : Acts s (dropExpired x t) := by
  unfold dropExpired
  split
  · exact .moves (reach_acts _ h) (changeSrc_moves _ _ _ _ .refl)
  · exact .moves (reach_acts _ h) (changeSrc_moves _ _ _ _ .refl)
  · exact h

theorem startPickup_moves (x : Src) (h : Moves s t) : Moves s (startPickup x t) := by
  unfold startPickup
  split <;> exact changeSrc_moves _ _ _ _ h

theorem startDropout_moves (x : Src) (c e : Cause) (k : QTimer) (d : Nat) (h : Moves s t) :
    Moves s (startDropout x c e k d t) := by
  unfold startDropout
  split <;> exact changeSrc_moves _ _ _ _ h

theorem deadInDropout_moves (x : Src) (h : Moves s t) : Moves s (deadInDropout x t) := by
  unfold deadInDropout
  dsimp only
  split
  · exact changeSrc_moves _ _ _ _ h
  · split
    · exact .other h rfl
    · exact .other h rfl

theorem judgeSrc_moves (x : Src) (m : Summary) (h : Moves s t) : Moves s (judgeSrc x m t) := by
  unfold judgeSrc
  dsimp only
  split
  · exact h
  · split
    · exact startPickup_moves _ h
    · exact changeSrc_moves _ _ _ _ h
  · split
    · exact startPickup_moves _ h
    · exact setCause_moves _ _ h
  · split
    · exact h
    · exact changeSrc_moves _ _ _ _ h
  · split
    · exact h
    · split <;> exact startDropout_moves _ _ _ _ _ h
  · split
    · exact changeSrc_moves _ _ _ _ h
    · split
      · exact deadInDropout_moves _ h
      · exact setCause_moves _ _ h

theorem judge_moves (p : Point) (m : Summary) (h : Moves s t) : Moves s (judge p m t) := by
  unfold judge
  cases p with
  | src x => exact judgeSrc_moves _ _ h
  | bus b => exact setBus_moves _ _ _ h

/-! ### HLC -/

theorem reportInvalid_acts (w : Bool) (p : Point) (nd : Word) (h : Acts s t) : Acts s (reportInvalid w p nd t) := by
  unfold reportInvalid
  split
  · exact report_acts _ h
  · exact h

theorem headLost_acts (p : Point) (h : Acts s t) : Acts s (headLost p t) := by
  unfold headLost
  dsimp only
  split
  · split
    · exact reportInvalid_acts _ _ _ (.noted (modPoint_acts _ _ h) _)
    · exact h
  · exact h

theorem recordStale_acts (p : Point) (h : Acts s t) : Acts s (recordStale p t) := by
  unfold recordStale
  dsimp only
  split
  · exact reportInvalid_acts _ _ _ (modPoint_acts _ _ h)
  · exact h

theorem badFrame_acts (p : Point) (h : Acts s t) : Acts s (badFrame p t) := by
  unfold badFrame
  dsimp only
  split
  · exact headLost_acts _ h
  · exact modPoint_acts _ _ h

theorem goodFrame_acts (p : Point) (a : HeadPlace) (l : InLine) (h : Acts s t) : Acts s (goodFrame p a l t) := by
  unfold goodFrame
  dsimp only
  split
  · exact .noted (modPoint_acts _ _ h) _
  · exact modPoint_acts _ _ h

theorem arrive_acts (p : Point) (m : Summary) (h : Acts s t) : Acts s (arrive p m t) :=
  report_acts _ (.moves (modPoint_acts _ _ h) (judge_moves _ _ .refl))

theorem pointFrame_acts (lines : BySix InLine) (n : Word) (p : Point) (h : Acts s t) :
    Acts s (pointFrame lines n p t) := by
  unfold pointFrame
  split
  · exact h
  · rename_i a ea
    dsimp only
    have key : ∀ u, Acts s u → Acts s (if ((settle u).hlc.points.get p).aged n = true
        then settle (recordStale p (settle u)) else settle u) := by
      intro u hu
      split
      · exact settle_acts (recordStale_acts _ (settle_acts hu))
      · exact settle_acts hu
    apply key
    split
    · split
      · exact arrive_acts _ _ (goodFrame_acts _ _ _ h)
      · exact goodFrame_acts _ _ _ h
    · exact badFrame_acts _ h

theorem allPointFrames_acts (lines : BySix InLine) (n : Word) (h : Acts s t) : Acts s (allPointFrames lines n t) := by
  unfold allPointFrames
  dsimp only
  refine Acts.trans ?_ (Acts.foldl _ _ fun _ _ => pointFrame_acts _ _ _ .refl)
  have k := h.trans (Acts.foldl (t := t) (allPoints.filter fun p => !(allPoints.filter (t.eventful lines n)).contains p)
    (fun t p => pointFrame lines n p t) fun _ _ => pointFrame_acts _ _ _ .refl)
  split
  · exact .other k rfl
  · exact k

theorem freeSlot_acts (h : Acts s t) : Acts s (freeSlot t) := .link h _
theorem takeSlot_acts (c : HeadCmd) (h : Acts s t) : Acts s (takeSlot c t) := .link h _

theorem readComplete_acts (d : Half) (h : Acts s t) : Acts s (readComplete d t) := by
  unfold readComplete
  split
  · split
    · exact formReply_acts _ _ (freeSlot_acts h)
    · exact h
  · exact h

theorem readTimeout_acts (h : Acts s t) : Acts s (readTimeout t) := by
  unfold readTimeout
  split
  · split
    · exact formReply_acts _ _ (freeSlot_acts h)
    · exact h
  · exact h

theorem writePosted_acts (h : Acts s t) : Acts s (writePosted t) := by
  unfold writePosted
  split
  · split
    · exact formReply_acts _ _ (freeSlot_acts h)
    · exact h
  · exact h

theorem commandFrame_acts (lines : BySix InLine) (n : Word) (h : Acts s t) : Acts s (commandFrame lines n t) := by
  unfold commandFrame
  split
  · exact h
  · split
    · exact h
    · dsimp only
      split
      · exact writePosted_acts h
      · split
        · exact h
        · split
          · split
            · exact readComplete_acts _ h
            · split
              · exact readTimeout_acts h
              · exact h
          · split
            · exact readTimeout_acts h
            · exact h

theorem unbind_acts (nd : Word) (p : Point) (h : Acts s t) : Acts s (unbind nd p t) :=
  reportInvalid_acts _ _ _ (modPoint_acts _ _ h)

theorem linkStart_acts (h : Acts s t) : Acts s (linkStart t) :=
  (modHlc_acts _ h).trans (Acts.foldl _ _ fun _ _ => unbind_acts _ _ .refl)

theorem beginFrame_acts (n : Word) (a : Six) (h : Acts s t) : Acts s (beginFrame n a t) := .link h _

theorem resetReleased_acts (h : Acts s t) : Acts s (resetReleased t) := by
  unfold resetReleased
  split
  · exact h
  · exact beginFrame_acts _ _ (modHlc_acts _ (reach_acts _ h))

theorem discoverRead_acts (a : Six) (h : Acts s t) : Acts s (discoverRead a t) := takeSlot_acts _ (modHlc_acts _ h)

theorem bindPoint_acts (p : Point) (a : HeadPlace) (h : Acts s t) : Acts s (bindPoint p a t) := .link h _

theorem bindAll_acts (h : Acts s t) : Acts s (bindAll t) := by
  refine h.trans (Acts.foldl _ _ fun u p => ?_)
  split
  · exact bindPoint_acts _ _ .refl
  · exact .refl

theorem decideBinding_acts (h : Acts s t) : Acts s (decideBinding t) := by
  unfold decideBinding
  dsimp only
  split
  · exact modHlc_acts _ (bindAll_acts (modHlc_acts _ h))
  · exact .noted (modHlc_acts _ (modHlc_acts _ h)) _

theorem adoptSection_acts (n : Sec) (h : Acts s t) : Acts s (adoptSection n t) := .other h rfl

theorem adopt_acts (h : Acts s t) : Acts s (adopt t) := by
  unfold adopt
  dsimp only
  have k0 : Acts s (adoptSection .sec2 (adoptSection .sec1 t)) := adoptSection_acts _ (adoptSection_acts _ h)
  have k := Acts.adopted k0
  have k3 := Acts.moves (.tie k rfl) (runAll_moves (driveAllLines_moves (formIslands_moves .refl)))
  refine .moves (.noted ?_ _) (superviseAll_moves .refl)
  split
  · exact .moves k3 (triggerAlarm_moves .refl)
  · exact k3

theorem linkStartEnd_acts (h : Acts s t) : Acts s (linkStartEnd t) := by
  unfold linkStartEnd
  dsimp only
  have k := formReply_acts 0x62 (decideBinding t).restartAnswer (decideBinding_acts h)
  split
  · exact k
  · exact adopt_acts k

theorem readEnded_acts (a : Six) (e : HeadEntry) (h : Acts s t) : Acts s (readEnded a e t) := by
  unfold readEnded
  dsimp only
  split
  · exact discoverRead_acts _ (modHlc_acts _ h)
  · exact linkStartEnd_acts (modHlc_acts _ h)

theorem readyEnd_acts (h : Acts s t) : Acts s (readyEnd t) := by
  unfold readyEnd
  split
  · exact discoverRead_acts _ h
  · exact h

theorem readSilent_acts (h : Acts s t) : Acts s (readSilent t) := by
  unfold readSilent
  split
  · exact readEnded_acts _ _ h
  · exact h

theorem discoveryFrame_acts (lines : BySix InLine) (n : Word) (h : Acts s t) : Acts s (discoveryFrame lines n t) := by
  unfold discoveryFrame
  split
  · exact h
  · dsimp only
    split
    · exact readyEnd_acts (modHlc_acts _ h)
    · exact modHlc_acts _ h
  · split
    · exact h
    · dsimp only
      split
      · exact h
      · split
        · split
          · exact readSilent_acts h
          · exact h
        · exact readEnded_acts _ _ h

theorem frameEnd_acts (lines : BySix InLine) (h : Acts s t) : Acts s (frameEnd lines t) := by
  unfold frameEnd
  split
  · dsimp only
    exact beginFrame_acts _ _ (settle_acts (discoveryFrame_acts _ _ (commandFrame_acts _ _
      (allPointFrames_acts _ _ (modHlc_acts _ h)))))
  · exact h

theorem rebind_acts (p : Point) (h : Acts s t) : Acts s (rebind p t) := by
  unfold rebind
  dsimp only
  split
  · exact h
  · split
    · exact bindPoint_acts _ _ (unbind_acts _ _ h)
    · exact unbind_acts _ _ h

theorem bindDiscovered_acts (h : Acts s t) : Acts s (bindDiscovered t) := by
  unfold bindDiscovered
  dsimp only
  have k := modHlc_acts (fun h => { h with link := .bound })
    (h.trans (Acts.foldl (t := t) allPoints (fun t p => rebind p t) fun _ _ => rebind_acts _ .refl))
  refine .moves (Acts.stored k _ ?_) (queueWrite_moves _ .refl)
  exact ⟨rfl, rfl, rfl⟩

/-! ### Requests -/

/-- What the service of a request gives is made of moves. -/
def Served.Made (s : State) : Served → Prop
  | .done t _ => Acts s t
  | .after t _ => Acts s t
  | .waits t => Acts s t

theorem conclude_acts (k g : Byte) {v : Served} (h : v.Made s) : Acts s (conclude k g v) := by
  unfold conclude
  cases v with
  | done t r => exact setService_acts _ _ _ h
  | after t f => exact setService_acts _ _ _ (settle_acts h)
  | waits t => exact settle_acts h

theorem refuse_made (e : Status) : (refuse e s).Made s := Acts.refl
theorem answerNow_made (b : Body) (h : Acts s t) : (answerNow b t).Made s := h
theorem answerOk_made (h : Acts s t) : (answerOk t).Made s := h

theorem withArg_made {α : Type} (o : Option α) (f : α → Served) (h : ∀ a, o = some a → (f a).Made s) :
    (withArg o s f).Made s := by
  unfold withArg
  cases o with
  | some a => exact h a rfl
  | none => exact refuse_made _

theorem afterStart_made (v : Served) (h : s.adopted = true → v.Made s) : (afterStart s v).Made s := by
  unfold afterStart
  split
  · rename_i e
    exact h e
  · exact refuse_made _

theorem serveNotice_made : (serveNotice s).Made s := by
  unfold serveNotice
  split
  · exact Acts.refl
  · rename_i n rest e
    exact Acts.taken .refl n rest _ e

theorem servePair_made (i b m k : Byte) : (servePair i b m k s).Made s := by
  refine withArg_made _ _ fun p _ => withArg_made _ _ fun new _ => withArg_made _ _ fun set _ => ?_
  dsimp only
  split
  · exact answerNow_made _ (.moves .refl (keep_moves _ _ .refl))
  · exact answerNow_made _ .refl

theorem operated_made (c : Chan) (r : State × Option Status) (h : Acts s r.1) : (operated c r).Made s := by
  unfold operated
  split <;> exact h

theorem manualClose_made (c : Chan) : (manualClose c s).Made s := by
  unfold manualClose
  split
  · dsimp only
    have k : Acts s (keep (manualPair c)
        (s.coincidence (manualPair c) .closedItems (manualPair c).busSec s.lastFrame) s) := .moves .refl (keep_moves _ _ .refl)
    split
    · exact operated_made _ _ (.moves k (closeTrigger_moves _ _ .refl))
    · exact k
  · exact operated_made _ _ (.moves .refl (closeTrigger_moves _ _ .refl))

theorem serveOperate_made (c a : Byte) : (serveOperate c a s).Made s := by
  refine withArg_made _ _ fun c _ => withArg_made _ _ fun a _ => afterStart_made _ fun _ => ?_
  split
  · exact refuse_made _
  · split
    · exact manualClose_made _
    · exact operated_made _ _ (.moves .refl (tripTrigger_moves _ _ .refl))
    · exact operated_made _ _ (.moves .refl (.stop .refl _))

theorem serveClear_made (c : Byte) : (serveClear c s).Made s := by
  refine withArg_made _ _ fun c _ => ?_
  dsimp only
  split
  · rename_i e
    split
    · exact refuse_made _
    · exact clearChan_acts _ .refl (.inr e)
  · rename_i e
    exact clearChan_acts _ .refl (.inl e)
  · exact Acts.refl
  · exact Acts.refl
  · exact Acts.refl
  · exact Acts.refl

theorem serveMode_made (n m : Byte) : (serveMode n m s).Made s := by
  refine withArg_made _ _ fun n _ => withArg_made _ _ fun m _ => afterStart_made _ fun ad => ?_
  dsimp only
  split
  · exact Acts.refl
  · split
    · split
      · have k : Acts s (toManual n (setMode n .manual s)) := .moves (.mode .refl n .manual ad) (toManual_moves _ .refl)
        unfold Served.Made goManual
        dsimp only
        split
        · exact report_acts _ k
        · exact k
      · exact refuse_made _
    · split
      · exact refuse_made _
      · exact Acts.moves (.mode .refl n .auto ad) (toAuto_moves _ .refl)

theorem serveBlock_made (v : Byte) : (serveBlock v s).Made s :=
  withArg_made _ _ fun _ _ => changeBlock_acts _ .refl rfl

theorem serveTransfer_made (n e : Byte) : (serveTransfer n e s).Made s := by
  refine withArg_made _ _ fun n _ => withArg_made _ _ fun e _ => afterStart_made _ fun _ => ?_
  split
  · exact Acts.refl
  · exact refuse_made _
  · exact Acts.moves .refl (startRequested_moves _ _ .refl)

theorem serveResume_made (n : Byte) : (serveResume n s).Made s := by
  refine withArg_made _ _ fun n _ => afterStart_made _ fun _ => ?_
  split
  · exact Acts.refl
  · split
    · exact refuse_made _
    · exact Acts.moves .refl (resumeSection_moves _ .refl)

theorem serveFeeder_made (f : Byte) : (serveFeeder f s).Made s := by
  unfold serveFeeder
  split
  · exact Acts.refl
  · exact withArg_made _ _ fun _ _ => Acts.refl

theorem serveDemand_made (f : Byte) (d : Half) : (serveDemand f d s).Made s :=
  withArg_made _ _ fun _ _ => Acts.moves .refl (setDemand_moves _ _ .refl)

theorem serveSelect_made (p : Byte) : (serveSelect p s).Made s :=
  withArg_made _ _ fun _ _ => Acts.stored .refl _ ⟨rfl, rfl, rfl⟩

theorem serveRead_made (g i f : Byte) : (serveRead g i f s).Made s := withArg_made _ _ fun _ _ => Acts.refl

theorem serveWrite_made (g i f : Byte) (v : Word) : (serveWrite g i f v s).Made s := by
  refine withArg_made _ _ fun a _ => ?_
  obtain ⟨a, d⟩ := a
  dsimp only
  split
  · exact refuse_made _
  · rename_i u
    split
    · exact refuse_made _
    · exact Acts.page .refl _ _ fun q => absurd q u

theorem serveCopy_made (p q : Byte) : (serveCopy p q s).Made s := by
  refine withArg_made _ _ fun p _ => withArg_made _ _ fun q _ => ?_
  split
  · exact Acts.refl
  · split
    · exact refuse_made _
    · rename_i u
      exact Acts.page .refl _ _ fun w => absurd w u

theorem serveCheck_made (p : Byte) : (serveCheck p s).Made s := by
  refine withArg_made _ _ fun p _ => ?_
  split
  · exact Acts.refl
  · split
    · exact Acts.page .refl _ _ fun _ _ => rfl
    · exact Acts.refl

theorem serveActivate_made (p : Byte) : (serveActivate p s).Made s := by
  refine withArg_made _ _ fun p _ => afterStart_made _ fun _ => ?_
  split
  · exact refuse_made _
  · rename_i v
    have v' : (s.pst.pages.get p).status = .valid := by simpa using v
    split
    · exact Acts.waiting .refl none fun _ e => nomatch e
    · split
      · exact Acts.refl
      · split
        · exact Acts.moves .refl (takeEffect_moves p .refl (.inr v'))
        · refine Acts.waiting .refl (some p) fun q e => ?_
          cases e
          exact v'

theorem serveSave_made (p : Byte) : (serveSave p s).Made s :=
  withArg_made _ _ fun _ _ => Acts.moves (.page .refl _ _ fun _ v => v) (queueWrite_moves _ .refl)

theorem withHead_made (p : Point) (f : HeadPlace → Served) (h : ∀ a, (f a).Made s) : (withHead p s f).Made s := by
  unfold withHead
  split
  · exact refuse_made _
  · split
    · exact refuse_made _
    · exact h _

theorem serveHeadRead_made (p i : Byte) : (serveHeadRead p i s).Made s := by
  refine withArg_made _ _ fun p _ => withArg_made _ _ fun i _ => withHead_made _ _ fun a => ?_
  split
  · exact Acts.refl
  · exact takeSlot_acts _ .refl

theorem serveHeadWrite_made (p i : Byte) (d : Half) : (serveHeadWrite p i d s).Made s := by
  refine withArg_made _ _ fun p _ => withArg_made _ _ fun i _ => withHead_made _ _ fun a => ?_
  unfold Served.Made
  dsimp only
  split
  · exact .link (takeSlot_acts _ .refl) _
  · exact takeSlot_acts _ .refl

theorem serveRestart_made : (serveRestart s).Made s := by
  unfold serveRestart
  split
  · exact refuse_made _
  · exact linkStart_acts .refl

theorem serveBind_made : (serveBind s).Made s := by
  unfold serveBind
  split
  · exact refuse_made _
  · split
    · exact refuse_made _
    · exact bindDiscovered_acts .refl

theorem serveOutput_made (l v : Byte) : (serveOutput l v s).Made s :=
  withArg_made _ _ fun _ _ => withArg_made _ _ fun _ _ => Acts.control .refl _ rfl rfl

theorem serveSilence_made : (serveSilence s).Made s := Acts.control .refl _ rfl rfl

theorem serveGenTest_made (x v : Byte) : (serveGenTest x v s).Made s := by
  refine withArg_made _ _ fun x _ => withArg_made _ _ fun b _ => afterStart_made _ fun _ => ?_
  split
  · exact refuse_made _
  · exact Acts.moves .refl (modRun_moves _ _ .refl)

theorem serve_made (r : Request) : (serve r s).Made s := by
  cases r with
  | ping => exact Acts.refl
  | statusGet => exact Acts.refl
  | noticeGet => exact serveNotice_made
  | pointGet p => exact withArg_made _ _ fun _ _ => Acts.refl
  | pairGet i b m k => exact servePair_made _ _ _ _
  | breakerGet c => exact withArg_made _ _ fun _ _ => Acts.refl
  | breakerOperate c a => exact serveOperate_made _ _
  | channelClear c => exact serveClear_made _
  | sectionGet n => exact withArg_made _ _ fun _ _ => afterStart_made _ fun _ => Acts.refl
  | modeSet n m => exact serveMode_made _ _
  | blockSet v => exact serveBlock_made _
  | transferRequest n e => exact serveTransfer_made _ _
  | resume n => exact serveResume_made _
  | feederGet f => exact serveFeeder_made _
  | feederDemandSet f d => exact serveDemand_made _ _
  | planSelect p => exact serveSelect_made _
  | planRead g i f => exact serveRead_made _ _ _
  | planWrite g i f v => exact serveWrite_made _ _ _ _
  | planCopy p q => exact serveCopy_made _ _
  | planCheck p => exact serveCheck_made _
  | planActivate p => exact serveActivate_made _
  | planSave p => exact serveSave_made _
  | headRead p i => exact serveHeadRead_made _ _
  | headWrite p i d => exact serveHeadWrite_made _ _ _
  | linkRestart => exact serveRestart_made
  | headsBind => exact serveBind_made
  | outputSet l v => exact serveOutput_made _ _
  | alarmSilence => exact serveSilence_made
  | genTest x v => exact serveGenTest_made _ _

/-- A service made of moves from a state is made of moves from an earlier one. -/
theorem made_trans {v : Served} (h : Acts s t) (k : v.Made t) : v.Made s := by
  cases v <;> exact h.trans k

theorem serveNow_acts (k g : Byte) (r : Request) (h : Acts s t) : Acts s (serveNow k g r t) :=
  conclude_acts _ _ (made_trans (setService_acts k g .deferred h) (serve_made r))

theorem takeRequest_acts (g : Byte) (r : Request) (h : Acts s t) : Acts s (takeRequest g r t) := by
  unfold takeRequest
  split
  · exact h
  · split
    · exact setService_acts _ _ _ h
    · exact serveNow_acts _ _ _ h

theorem serveHeld_acts (h : Acts s t) : Acts s (serveHeld t) := by
  unfold serveHeld
  split
  · exact serveNow_acts _ _ _ h
  · exact h

theorem takeFrame_acts (k g : Byte) (l : List Byte) (h : Acts s t) : Acts s (takeFrame k g l t) := by
  unfold takeFrame
  split
  · exact h
  · split
    · exact takeRequest_acts _ _ h
    · exact setService_acts _ _ _ h

theorem frameComplete_acts (l : List Byte) (h : Acts s t) : Acts s (frameComplete l t) := by
  unfold frameComplete
  split
  · dsimp only
    split
    · exact takeFrame_acts _ _ _ h
    · exact h
  · exact h

theorem takeByte_acts (b : Byte) (g : Bool) (h : Acts s t) : Acts s (takeByte b g t) := by
  unfold takeByte
  split
  · exact h
  · split
    · split
      · exact setRx_acts _ _ h
      · exact h
    · split
      · unfold frameByte
        split
        · exact setRx_acts _ _ h
        · split
          · exact frameComplete_acts _ (setRx_acts _ _ h)
          · exact setRx_acts _ _ h
      · exact setRx_acts _ _ h

theorem byteGapOver_acts (h : Acts s t) : Acts s (byteGapOver t) := by
  unfold byteGapOver
  split
  · exact setRx_acts _ _ (reach_acts _ h)
  · exact h

theorem startReply_acts (h : Acts s t) : Acts s (startReply t) := by
  unfold startReply
  split
  · exact .line h _ rfl
  · exact h

theorem endReply_acts (h : Acts s t) : Acts s (endReply t) := by
  unfold endReply
  split
  · exact .line h _ rfl
  · exact h

/-! ### The store -/

theorem setImage_acts (p : PageNo) (l : List Byte) (h : Acts s t) : Acts s (setImage p l t) :=
  .stored h _ ⟨rfl, rfl, rfl⟩

theorem nextWrite_acts (h : Acts s t) : Acts s (nextWrite t) := .stored h _ ⟨rfl, rfl, rfl⟩

theorem pageWritten_acts (p : PageNo) (g : Bool) (h : Acts s t) : Acts s (pageWritten p g t) := by
  unfold pageWritten
  split
  · exact .page (setImage_acts _ _ h) _ _ fun _ v => v
  · exact .other (setImage_acts _ _ h) rfl

theorem endPageWrite_acts (g : Bool) (h : Acts s t) : Acts s (endPageWrite g t) := by
  unfold endPageWrite
  split
  · exact formReply_acts _ _ (nextWrite_acts (pageWritten_acts _ _ h))
  · exact h

theorem endPointerWrite_acts (g : Bool) (h : Acts s t) : Acts s (endPointerWrite g t) := by
  unfold endPointerWrite
  split
  · exact nextWrite_acts (.stored h _ ⟨rfl, rfl, rfl⟩)
  · exact h

theorem linkMapWritten_acts (m : LinkMap) (g : Bool) (h : Acts s t) : Acts s (linkMapWritten m g t) := by
  unfold linkMapWritten
  split
  · exact .stored h _ ⟨rfl, rfl, rfl⟩
  · exact .other (.stored h { t.pst with store := { t.pst.store with linkMap := Config.tornMap t.freeCount } }
      ⟨rfl, rfl, rfl⟩) rfl

theorem endLinkMapWrite_acts (g : Bool) (h : Acts s t) : Acts s (endLinkMapWrite g t) := by
  unfold endLinkMapWrite
  split
  · exact formReply_acts _ _ (nextWrite_acts (linkMapWritten_acts _ _ h))
  · exact h

theorem loadEnded_acts (h : Acts s t) : Acts s (loadEnded t) := by
  unfold loadEnded takeInitial
  dsimp only
  refine .moves (t := { ({ loadStore t with loaded := true } : State) with
      squ := .start _, lmg := { t.lmg with feeders := feedersFrom _, shedStack := .all [], lines := linesOff } }) ?_
    (Moves.foldl _ _ fun _ c => .learned .refl c _)
  refine .other (.load h (loadStore t).pst ({ loadStore t with loaded := true } : State).plan ?_) rfl
  intro p e
  simp only [loadStore, modPst, reduceCtorEq, or_false] at e ⊢
  unfold loadedActive at e
  split at e
  · split at e
    · cases e
      assumption
    · cases e
  · cases e

theorem endLoad_acts (h : Acts s t) : Acts s (endLoad t) := by
  unfold endLoad
  split
  · exact h
  · exact serveHeld_acts (settle_acts (linkStart_acts (loadEnded_acts h)))

/-! ### Every command and every step -/

/-- The outcome of a command: in reset nothing but the release, outside it moves alone, or the assertion of RSTn. -/
def CommandMakes (s t : State) : Prop :=
  t = s ∨ (s.inReset = false ∧ Acts s t) ∨ t = assertReset s ∨
  ∃ baud pins, s.inReset = true ∧ t = State.boot baud pins s.pst.store s.freeCount s.pending

theorem act_makes {f : State → State} (h : Acts s (f s)) : ∃ t, act f s = .next t ∧ CommandMakes s t := by
  refine ⟨live f s, rfl, ?_⟩
  unfold live
  split
  · exact .inl rfl
  · rename_i e
    exact .inr (.inl ⟨by simpa using e, h⟩)

theorem event_makes {f : State → State} (h : Acts s (f s)) : ∃ t, event f s = .next t ∧ CommandMakes s t :=
  act_makes (settle_acts h)

/-- What a command can do, said once. -/
theorem exec_cases (c : Instr) (s : State) : ∃ t, exec c s = .next t ∧ CommandMakes s t := by
  cases c with
  | resetAssert => exact ⟨_, rfl, .inr (.inr (.inl rfl))⟩
  | resetRelease b p =>
    refine ⟨_, rfl, ?_⟩
    unfold releaseReset
    split
    · rename_i e
      exact .inr (.inr (.inr ⟨b, p, e, rfl⟩))
    · exact .inl rfl
  | storeLoadEnd => exact act_makes (endLoad_acts .refl)
  | pageWriteEnd g => exact act_makes (endPageWrite_acts g .refl)
  | pointerWriteEnd g => exact act_makes (endPointerWrite_acts g .refl)
  | linkMapWriteEnd g => exact act_makes (endLinkMapWrite_acts g .refl)
  | activationTakesEffect => exact event_makes (.moves .refl (testPending_moves .refl))
  | linkResetRelease => exact act_makes (resetReleased_acts .refl)
  | headFrameEnd l => exact act_makes (frameEnd_acts l .refl)
  | headLost p => exact event_makes (headLost_acts p .refl)
  | recordStale p => exact event_makes (recordStale_acts p .refl)
  | headReadComplete d => exact act_makes (readComplete_acts d .refl)
  | headReadTimeout => exact act_makes (readTimeout_acts .refl)
  | headWritePosted => exact act_makes (writePosted_acts .refl)
  | discoveryReadyEnd => exact act_makes (readyEnd_acts .refl)
  | discoveryReadSilent => exact event_makes (readSilent_acts .refl)
  | pickExpiry x => exact event_makes (pickExpired_acts x .refl)
  | dropFastExpiry x => exact event_makes (dropExpired_acts x .refl)
  | auxAccepted c l => exact event_makes (auxAccept_acts c l .refl)
  | prtAccepted c l => exact event_makes (prtAccept_acts c l .refl)
  | rdyRckAccepted c w l => exact event_makes (readyAccept_acts c w l .refl)
  | closePulseEnd c => exact act_makes (closePulseOver_acts c .refl)
  | tripPulseEnd c => exact act_makes (tripPulseOver_acts c .refl)
  | closeConfirmDeadline c => exact event_makes (closeDeadline_acts c .refl)
  | tripConfirmDeadline c => exact event_makes (tripDeadline_acts c .refl)
  | tReturnExpiry n => exact event_makes (.moves .refl (timerOver_moves n _ .refl))
  | tSyncWaitExpiry n => exact event_makes (.moves .refl (timerOver_moves n _ .refl))
  | tDecayMaxExpiry n => exact event_makes (.moves .refl (timerOver_moves n _ .refl))
  | tDeadExpiry n => exact event_makes (.moves .refl (timerOver_moves n _ .refl))
  | tOverlapExpiry n => exact event_makes (.moves .refl (timerOver_moves n _ .refl))
  | settleExpiry n => exact event_makes (settleOver_acts n .refl)
  | blknAccepted a => exact event_makes (changeBlock_acts _ .refl rfl)
  | restoreTimerExpiry i => exact act_makes (.moves .refl (restoreExpiry_moves i .refl))
  | overloadTimerExpiry i => exact act_makes (.moves .refl (overloadExpiry_moves i .refl))
  | coolDownExpiry x => exact act_makes (.moves .refl (coolExpiry_moves x .refl))
  | startTimerExpiry x => exact act_makes (.moves .refl (startExpiry_moves x .refl))
  | alarmEnd => exact act_makes (alarmOver_acts .refl)
  | frameReceived b => exact act_makes (takeByte_acts b _ .refl)
  | frameByteTimeout => exact act_makes (byteGapOver_acts .refl)
  | replySent => exact act_makes (endReply_acts .refl)
  | ping t => exact act_makes (takeRequest_acts _ _ .refl)
  | statusGet t => exact act_makes (takeRequest_acts _ _ .refl)
  | noticeGet t => exact act_makes (takeRequest_acts _ _ .refl)
  | pointGet t p => exact act_makes (takeRequest_acts _ _ .refl)
  | pairGetLast t i b k => exact act_makes (takeRequest_acts _ _ .refl)
  | pairGetNew t i b k => exact act_makes (takeRequest_acts _ _ .refl)
  | breakerGet t c => exact act_makes (takeRequest_acts _ _ .refl)
  | breakerOperateClose t c => exact act_makes (takeRequest_acts _ _ .refl)
  | breakerOperateTrip t c => exact act_makes (takeRequest_acts _ _ .refl)
  | breakerOperateStop t c => exact act_makes (takeRequest_acts _ _ .refl)
  | channelClear t c => exact act_makes (takeRequest_acts _ _ .refl)
  | sectionGet t n => exact act_makes (takeRequest_acts _ _ .refl)
  | modeSetManual t n => exact act_makes (takeRequest_acts _ _ .refl)
  | modeSetAuto t n => exact act_makes (takeRequest_acts _ _ .refl)
  | blockSet t v => exact act_makes (takeRequest_acts _ _ .refl)
  | transferRequest t n e => exact act_makes (takeRequest_acts _ _ .refl)
  | resume t n => exact act_makes (takeRequest_acts _ _ .refl)
  | feederGet t f => exact act_makes (takeRequest_acts _ _ .refl)
  | feederDemandSet t f d => exact act_makes (takeRequest_acts _ _ .refl)
  | planSelect t p => exact act_makes (takeRequest_acts _ _ .refl)
  | planRead t g i f => exact act_makes (takeRequest_acts _ _ .refl)
  | planWrite t g i f v => exact act_makes (takeRequest_acts _ _ .refl)
  | planCopy t p q => exact act_makes (takeRequest_acts _ _ .refl)
  | planCheck t p => exact act_makes (takeRequest_acts _ _ .refl)
  | planActivate t p => exact act_makes (takeRequest_acts _ _ .refl)
  | planSave t p => exact act_makes (takeRequest_acts _ _ .refl)
  | headRead t p i => exact act_makes (takeRequest_acts _ _ .refl)
  | headWrite t p i d => exact act_makes (takeRequest_acts _ _ .refl)
  | linkRestart t => exact act_makes (takeRequest_acts _ _ .refl)
  | headsBind t => exact act_makes (takeRequest_acts _ _ .refl)
  | outputSet t l v => exact act_makes (takeRequest_acts _ _ .refl)
  | alarmSilence t => exact act_makes (takeRequest_acts _ _ .refl)
  | genTest t x v => exact act_makes (takeRequest_acts _ _ .refl)
  | lineByteReceived b g => exact act_makes (takeByte_acts b g .refl)
  | replyStart => exact act_makes (startReply_acts .refl)

/-- What a step can do, said once: a command on the state with the queue's rest, a tick, or an event put in the queue. -/
theorem step_cases {s t : State} (h : step s = .next t) :
    (∃ c rest, s.pending = c :: rest ∧ CommandMakes { s with pending := rest } t) ∨
    (s.pending = [] ∧ (t = s ∨ t = tick s ∨ ∃ c k, t = { s with pending := [c], freeCount := k })) := by
  unfold step at h
  split at h
  · rename_i c rest e
    obtain ⟨u, eu, m⟩ := exec_cases c { s with pending := rest }
    rw [eu] at h
    cases h
    exact .inl ⟨c, rest, e, m⟩
  · rename_i e
    refine .inr ⟨e, ?_⟩
    cases h
    unfold idle
    split
    · exact .inl rfl
    · split
      · exact .inr (.inl rfl)
      · exact .inr (.inr ⟨_, s.freeCount, rfl⟩)
      · split
        · exact .inr (.inr ⟨_, s.freeCount + 1, rfl⟩)
        · exact .inl rfl

end Sys2Proof.Machine
end

