-- ==== Sys2Proof/Laws/Settle.lean ====
section
/-! SUPPORT. The end of an event in the cases where little happens: no report waits, or every waiting report finds both
sections in MANUAL. -/

namespace Sys2Proof.Machine

variable {s : State}

/-! ### The run requests (R171) -/

theorem runStep_eq (x : Src) (s : State) :
    runStep x s = { s with mdc := { s.mdc with runs := (runStep x s).mdc.runs } } := by
  unfold runStep
  split <;> rfl

theorem runSteps_eq (l : List Src) (s : State) : l.foldl (fun t x => runStep x t) s =
    { s with mdc := { s.mdc with runs := (l.foldl (fun t x => runStep x t) s).mdc.runs } } := by
  induction l generalizing s with
  | nil => rfl
  | cons x l ih =>
    rw [List.foldl_cons, ih, runStep_eq]

/-- Forming the run requests changes the run records alone. -/
theorem runAll_eq (s : State) : runAll s = { s with mdc := { s.mdc with runs := (runAll s).mdc.runs } } := by
  unfold runAll
  split
  · exact runSteps_eq _ _
  · rfl

@[simp] theorem runAll_agenda (s : State) : (runAll s).agenda = s.agenda := by rw [runAll_eq]
@[simp] theorem runAll_bcu (s : State) : (runAll s).bcu = s.bcu := by rw [runAll_eq]
@[simp] theorem runAll_pst (s : State) : (runAll s).pst = s.pst := by rw [runAll_eq]
@[simp] theorem runAll_hlc (s : State) : (runAll s).hlc = s.hlc := by rw [runAll_eq]
@[simp] theorem runAll_squ (s : State) : (runAll s).squ = s.squ := by rw [runAll_eq]
@[simp] theorem runAll_ccu (s : State) : (runAll s).ccu = s.ccu := by rw [runAll_eq]
@[simp] theorem runAll_seqs (s : State) : (runAll s).seqs = s.seqs := by rw [runAll_eq]
@[simp] theorem runAll_owner (s : State) : (runAll s).owner = s.owner := by rw [runAll_eq]
@[simp] theorem runAll_lmg (s : State) : (runAll s).lmg = s.lmg := by rw [runAll_eq]
@[simp] theorem runAll_spt (s : State) : (runAll s).spt = s.spt := by rw [runAll_eq]
@[simp] theorem runAll_now (s : State) : (runAll s).now = s.now := by rw [runAll_eq]
@[simp] theorem runAll_adopted (s : State) : (runAll s).adopted = s.adopted := by rw [runAll_eq]
@[simp] theorem runAll_loaded (s : State) : (runAll s).loaded = s.loaded := by rw [runAll_eq]
@[simp] theorem runAll_inReset (s : State) : (runAll s).inReset = s.inReset := by rw [runAll_eq]
@[simp] theorem runAll_freeCount (s : State) : (runAll s).freeCount = s.freeCount := by rw [runAll_eq]
@[simp] theorem runAll_pending (s : State) : (runAll s).pending = s.pending := by rw [runAll_eq]
@[simp] theorem runAll_modes (s : State) : (runAll s).mdc.modes = s.mdc.modes := by rw [runAll_eq]

/-- With no generator on the page in use no run record moves. -/
theorem runAll_noGenerator (h : s.NoGenerator) : runAll s = s := by
  have k : ∀ x, runStep x s = s := fun x => by unfold runStep; rw [if_neg (h x)]
  unfold runAll allSrcs
  simp [k]

/-! ### Taking the reports -/

theorem drain_none (k : Nat) (h : s.agenda = []) : drain k s = s := by
  cases k with
  | zero => rfl
  | succ k => unfold drain; rw [h]

/-- An event that makes no report ends with the run requests formed again. -/
theorem settle_none (h : s.agenda = []) : settle s = runAll s := drain_none _ (by simpa using h)

/-- A report on which no sequencer acts in MANUAL, and no other block while no activation waits. -/
def Report.inert : Report → Bool
  | .srcChanged .. | .pointInvalid .. | .ccuPoint .. | .contact .. | .activationDone .. => false
  | .busChanged .. | .availability _ | .tripConfirmed _ | .tripFailed _ | .closeConfirmed .. | .closeFailed .. => true
  | .closeWithdrawn .. | .lockoutEnded .. | .channelLocked _ | .channelCleared _ | .seqState _ | .seqFeed _ => true
  | .tieOwner | .classOneDemand | .holdEnded _ | .activated _ | .fedEntry .. | .decayTest .. => true
  | .timerOver .. => false

theorem auto_of_manual (m : s.BothManual) (n : Sec) : s.auto n = false := by
  unfold State.auto
  rw [m n]
  rfl

theorem handle_inert {r : Report} (i : r.inert = true) (m : s.BothManual) (p : s.pst.pendingPage = none) :
    handle r s = s := by
  have a := auto_of_manual m
  cases r with
  | srcChanged x q n c => cases i
  | pointInvalid q nd => cases i
  | ccuPoint q nd => cases i
  | contact n c k o => cases i
  | activationDone q o => cases i
  | timerOver n k => cases i
  | busChanged b _ _ => simp [handle, testDecay, a]
  | availability c => simp [handle, forSecs, reconsider, a]
  | tripConfirmed c => simp [handle, forSecs, tripConfirmed, a]
  | tripFailed c => simp [handle, forSecs, tripFailed, a]
  | closeConfirmed c q m => cases q <;> simp [handle, forRequester, closeConfirmed, a]
  | closeFailed c q => cases q <;> simp [handle, forRequester, closeFailed, a]
  | closeWithdrawn c q => cases q <;> simp [handle, forRequester, closeWithdrawn, a]
  | lockoutEnded c o => simp [handle, forSecs, lockoutEnded, a]
  | channelLocked c => simp [handle, forSecs, channelLocked, a]
  | channelCleared c => rfl
  | seqState n => simp [handle, reconsider, testPending, p, a]
  | seqFeed n => simp [handle, reconsider, a]
  | tieOwner => simp [handle, forSecs, reconsider, a]
  | classOneDemand => simp [handle, forSecs, reconsider, a]
  | holdEnded n => simp [handle, holdEnded, a]
  | activated n => simp [handle, seqActivated, a]
  | fedEntry n c => simp [handle, fedTests, a]
  | decayTest n _ => simp [handle, testDecay, a]

/-- In MANUAL, with no generator and no activation waiting, reports on which nothing acts are taken and nothing more. -/
theorem drain_inert (k : Nat) (m : s.BothManual) (g : s.NoGenerator) (p : s.pst.pendingPage = none)
    (i : ∀ r ∈ s.agenda, r.inert = true) (len : s.agenda.length ≤ k) : drain k s = { s with agenda := [] } := by
  induction k generalizing s with
  | zero =>
    have e : s.agenda = [] := List.length_eq_zero_iff.mp (Nat.le_zero.mp len)
    unfold drain
    rw [← e]
  | succ k ih =>
    cases e : s.agenda with
    | nil => rw [drain_none _ e, ← e]
    | cons r rest =>
      rw [drain]
      rw [e] at i len ⊢
      dsimp only
      have m' : ({ s with agenda := rest } : State).BothManual := m
      have g' : ({ s with agenda := rest } : State).NoGenerator := g
      rw [handle_inert (i r List.mem_cons_self) m' p, runAll_noGenerator g',
        ih m' g' p (fun q hq => i q (List.mem_cons_of_mem _ hq)) (by simpa using len)]

theorem settle_inert (m : s.BothManual) (g : s.NoGenerator) (p : s.pst.pendingPage = none)
    (i : ∀ r ∈ s.agenda, r.inert = true) (len : s.agenda.length ≤ 4096) : settle s = { s with agenda := [] } := by
  unfold settle
  rw [runAll_noGenerator g]
  exact drain_inert _ m g p i len

/-- The next report is taken, with the run requests formed again. -/
theorem drain_cons (k : Nat) {r : Report} {rest : List Report} (h : s.agenda = r :: rest) :
    drain (k + 1) s = drain k (runAll (handle r { s with agenda := rest })) := by
  rw [drain]
  rw [h]

end Sys2Proof.Machine
end

