-- ==== Sys2Proof/Laws/HeadLink.lean ====
section
/-! SUPPORT. What a link start and HEADS_BIND can change: the head link's state and the reports of points that stop being
valid. -/

namespace Sys2Proof.Machine

variable {s t u : State}

/-- t is s but for the head link's state and the waiting reports. -/
def HeadOnly (s t : State) : Prop := t = { s with hlc := t.hlc, agenda := t.agenda }

namespace HeadOnly

theorem refl (s : State) : HeadOnly s s := rfl

theorem trans (h : HeadOnly s t) (g : HeadOnly t u) : HeadOnly s u := by
  unfold HeadOnly at *
  rw [g, h]

theorem foldl {α : Type} (f : State → α → State) (h : ∀ t a, HeadOnly t (f t a)) (l : List α) (s : State) :
    HeadOnly s (l.foldl f s) := by
  induction l generalizing s with
  | nil => exact refl _
  | cons a l ih => exact (h s a).trans (ih _)

end HeadOnly

theorem unbind_head (nd : Word) (p : Point) (s : State) : HeadOnly s (unbind nd p s) := by
  unfold unbind reportInvalid
  split <;> rfl

/-- A point that is unbound has its record reset (R28). -/
theorem unbind_hlc (nd : Word) (p : Point) (s : State) :
    (unbind nd p s).hlc = { s.hlc with points := s.hlc.points.set p .unbound } := by
  unfold unbind reportInvalid
  split <;> rfl

/-- Unbinding every point resets every record. -/
theorem unbindAll_hlc (nd : Word) (s : State) :
    (allPoints.foldl (fun t p => unbind nd p t) s).hlc = { s.hlc with points := .all .unbound } := by
  unfold allPoints
  simp only [List.foldl, unbind_hlc]
  rfl

theorem linkStart_head (s : State) : HeadOnly s (linkStart s) :=
  HeadOnly.trans (t := modHlc _ s) rfl (HeadOnly.foldl _ (fun _ _ => unbind_head _ _ _) _ _)

theorem rebind_head (p : Point) (s : State) : HeadOnly s (rebind p s) := by
  unfold rebind
  dsimp only
  split
  · rfl
  · split
    · exact HeadOnly.trans (unbind_head _ _ _) rfl
    · exact unbind_head _ _ _

end Sys2Proof.Machine
end

