-- ==== Sys2Proof/Laws/Layouts.lean ====
section
/-! SUPPORT. How long the replies are: every answer the part forms keeps LEN to 250 (R183, section 11.2), whatever the free
widths, absent forms and list marks are. -/

namespace Sys2Proof.Machine

/-! ### The open fields -/

@[simp] theorem be16_length (n : Nat) : (be16 n).length = 2 := rfl
@[simp] theorem be24_length (n : Nat) : (be24 n).length = 3 := rfl
@[simp] theorem be32_length (n : Nat) : (be32 n).length = 4 := rfl
@[simp] theorem signed16_length (v : Int) : (signed16 v).length = 2 := rfl
@[simp] theorem deadField_length (n : Nat) : (deadField n).length = 3 := rfl

@[simp] theorem signedField_length (v : Option Int) : (signedField v).length = 2 := by cases v <;> rfl

@[simp] theorem angleSlipField_length (v : Option (Int × Int)) : (angleSlipField v).length = 4 := by cases v <;> rfl

@[simp] theorem beN_length (w n : Nat) : (beN w n).length = w := by
  induction w generalizing n with
  | zero => rfl
  | succ w ih => simp [beN, ih]

theorem openNum_length_le (f : OpenField) (n : Nat) : (openNum f n).length ≤ 4 := by
  have := (Config.width f).isLt
  simp only [openNum, beN_length]; omega

theorem absentField_length_le (f : OpenField) : (absentField f).length ≤ 8 := by
  simp only [absentField, List.length_take]; omega

theorem listMark_length_le (f : OpenField) (n : Nat) : (listMark f n).length ≤ 4 := by
  simp only [listMark, List.length_take]; omega

theorem optField_length_le {α : Type} (f : OpenField) (g : α → List Byte) (b : Nat) (hb : 8 ≤ b)
    (h : ∀ x, (g x).length ≤ b) (o : Option α) : (optField f g o).length ≤ b := by
  cases o with
  | none => exact (absentField_length_le f).trans hb
  | some x => exact h x

/-! ### The answers -/

theorem PointRec.bytes_length_le (r : PointRec) : r.bytes.length ≤ 60 := by
  have h1 := optField_length_le .headPlace HeadPlace.bytes 8 (by omega) (fun _ => by simp [HeadPlace.bytes]) r.bound
  have h2 := optField_length_le .summary Summary.bytes 25 (by omega) (fun m => by
    have := openNum_length_le .summaryVolts m.v1
    have := openNum_length_le .summaryVolts m.v2
    have := openNum_length_le .summaryVolts m.v3
    have := openNum_length_le .summaryFreq m.freq
    have := openNum_length_le .summaryAngle m.angle
    simp only [Summary.bytes, List.length_append, List.length_cons, List.length_nil, be32_length]; omega) r.last
  have h3 := openNum_length_le .lossCount r.loss
  simp only [PointRec.bytes, List.length_append, List.length_cons, List.length_nil, be16_length]; omega

theorem qualBytes_length_le (q : QualRec × Nat) : (qualBytes q).length ≤ 11 := by
  have := openNum_length_le .qualLeft q.2
  have := openNum_length_le .entered q.1.entered
  simp only [qualBytes, List.length_append, List.length_cons, List.length_nil]; omega

theorem BusRec.bytes_length_le (b : BusRec) : b.bytes.length ≤ 9 := by
  have := openNum_length_le .busVolts b.vmax
  have := openNum_length_le .entered b.entered
  simp only [BusRec.bytes, List.length_append, List.length_cons, List.length_nil]; omega

theorem PointAns.bytes_length_le (a : PointAns) : a.bytes.length ≤ 90 := by
  obtain ⟨r, v, d, l, q, b⟩ := a
  have h1 := r.bytes_length_le
  have h2 := optField_length_le .headPlace HeadPlace.bytes 8 (by omega) (fun _ => by simp [HeadPlace.bytes]) d
  have h3 : ∀ q, (qualBytes q).length ≤ 11 := qualBytes_length_le
  have h4 : ∀ b : BusRec, b.bytes.length ≤ 9 := BusRec.bytes_length_le
  cases q with
  | none =>
    cases b with
    | none => simp only [PointAns.bytes, List.length_append, List.length_cons, List.length_nil]; omega
    | some b => have := h4 b; simp only [PointAns.bytes, List.length_append, List.length_cons, List.length_nil]; omega
  | some q =>
    have := h3 q
    cases b with
    | none => simp only [PointAns.bytes, List.length_append, List.length_cons, List.length_nil]; omega
    | some b => have := h4 b; simp only [PointAns.bytes, List.length_append, List.length_cons, List.length_nil]; omega

theorem PairResult.bytes_length_le (r : PairResult) : r.bytes.length ≤ 50 := by
  have h1 : r.formed.head.length ≤ 2 := by cases r.formed <;> simp [Formed.head]
  have h2 := optField_length_le .frames (fun v : PairValues => be32 v.ni.toNat ++ be32 v.nb.toNat) 8 (by omega)
    (fun _ => by simp) r.formed.values
  have h3 := optField_length_le .closeTime (fun v : PairValues => openNum .closeTime v.tc) 8 (by omega)
    (fun v => (openNum_length_le _ _).trans (by omega)) r.formed.values
  have h4 := optField_length_le .horizon (fun v : PairValues => openNum .horizon v.hor) 8 (by omega)
    (fun v => (openNum_length_le _ _).trans (by omega)) r.formed.values
  have h5 := optField_length_le .permit permitBytes 8 (by omega)
    (fun v => by unfold permitBytes; split <;> simp) r.formed.values
  simp only [PairResult.bytes, List.length_append, List.length_cons, List.length_nil, be32_length, signedField_length]
  omega

theorem pulseBytes_length_le (b : Bool) (n : Nat) : (pulseBytes b n).length ≤ 5 := by
  have := openNum_length_le .pulseLeft n
  cases b <;> simp only [pulseBytes, List.length_cons, if_true, Bool.false_eq_true, if_false, List.length_nil] <;> omega

theorem BreakerAns.bytes_length_le (a : BreakerAns) : a.bytes.length ≤ 50 := by
  have h1 := pulseBytes_length_le a.record.closeEnd.isSome a.closeLeft
  have h2 := pulseBytes_length_le a.record.tripEnd.isSome a.tripLeft
  have h3 := optField_length_le .operation (fun o : Operation =>
    [Config.code .opKind o.kind.ix, o.requester.code] ++ openNum .confirmLeft a.confirmLeft) 8 (by omega) (fun o => by
      have := openNum_length_le .confirmLeft a.confirmLeft
      simp only [List.length_append, List.length_cons, List.length_nil]; omega) a.record.op
  have h4 := openNum_length_le .closeTime a.record.tc
  have h5 := optField_length_le .measured (openNum .measured) 8 (by omega)
    (fun _ => (openNum_length_le _ _).trans (by omega)) a.record.lastM
  simp only [BreakerAns.bytes, List.length_append, List.length_cons, List.length_nil]; omega

theorem SectionAns.bytes_length_le (a : SectionAns) : a.bytes.length ≤ 90 := by
  have h0 := absentField_length_le .lostFlag
  have h1 := openNum_length_le .trigTime a.ctx.closeRec.trigAt
  have h2 := openNum_length_le .timerLeft a.tReturnLeft
  have h3 := openNum_length_le .timerLeft a.tSyncLeft
  have h4 := openNum_length_le .timerLeft a.tDecayLeft
  have h5 := openNum_length_le .timerLeft a.tDeadLeft
  have h6 := openNum_length_le .timerLeft a.tOverlapLeft
  have h7 := openNum_length_le .startTime a.ctx.startMs
  have h8 := openNum_length_le .openTime a.ctx.openMs
  have h9 := openNum_length_le .settleLeft a.settleLeft
  simp only [SectionAns.bytes]
  split <;> simp only [List.length_append, List.length_cons, List.length_nil, angleSlipField_length] <;> omega

theorem stackBytes_length_le (l : List Feeder) : (stackBytes l).length ≤ l.length + 4 := by
  have := listMark_length_le .stack l.length
  simp only [stackBytes, List.length_append, List.length_map]; omega

theorem IslandAns.bytes_length_le (i : IslandAns) : i.bytes.length ≤ 25 := by
  have h1 := optField_length_le .islandBudget be16 8 (by omega) (fun _ => by simp) i.budget
  have h2 := openNum_length_le .islandTimer i.restoreLeft
  have h3 := openNum_length_le .islandTimer i.overloadLeft
  simp only [IslandAns.bytes, List.length_append, List.length_cons, List.length_nil, be32_length]; omega

theorem islandBytes_length_le (l : List IslandAns) : (l.flatMap IslandAns.bytes).length ≤ 25 * l.length := by
  induction l with
  | nil => simp
  | cons i l ih =>
    have := i.bytes_length_le
    simp only [List.flatMap_cons, List.length_append, List.length_cons]; omega

/-- A load manager's summary within what State can hold: at most twelve feeders on a stack (R147) and two islands (R148). -/
def SummaryAns.Short (a : SummaryAns) : Prop := (∀ n, (a.shedStack.get n).length ≤ 12) ∧ a.islands.length ≤ 2

theorem SummaryAns.bytes_length_le (a : SummaryAns) (h : a.Short) : a.bytes.length ≤ 110 := by
  have h1 := stackBytes_length_le a.shedStack.sec1
  have h2 := stackBytes_length_le a.shedStack.sec2
  have h3 := optField_length_le .announcement (annBytes .sec1) 8 (by omega) (fun _ => by simp [annBytes]) a.anns.sec1
  have h4 := optField_length_le .announcement (annBytes .sec2) 8 (by omega) (fun _ => by simp [annBytes]) a.anns.sec2
  have h5 := listMark_length_le .islands a.islands.length
  have h6 := islandBytes_length_le a.islands
  have h7 : a.shedStack.sec1.length ≤ 12 := h.1 .sec1
  have h8 : a.shedStack.sec2.length ≤ 12 := h.1 .sec2
  have h9 := h.2
  simp only [SummaryAns.bytes, List.length_append, be32_length]; omega

theorem Note.fields_length_le (n : Note) : n.fields.length ≤ 12 := by
  cases n <;> simp [Note.fields]

/-- Every answer but an overlong summary leaves room for STATUS within the 250 bytes of LEN (R183, section 11.2). -/
theorem Body.bytes_length_le (b : Body) (h : ∀ a, b = .summary a → a.Short) : b.bytes.length + 1 ≤ 250 := by
  cases b with
  | point a => have := a.bytes_length_le; simp only [Body.bytes]; omega
  | pair r w1 w2 =>
    have := optField_length_le .result PairResult.bytes 50 (by omega) PairResult.bytes_length_le r
    simp only [Body.bytes, List.length_append, List.length_cons, List.length_nil]; omega
  | breaker a => have := a.bytes_length_le; simp only [Body.bytes]; omega
  | sectionView a => have := a.bytes_length_le; simp only [Body.bytes]; omega
  | coincidence r => have := r.bytes_length_le; simp only [Body.bytes]; omega
  | summary a => have := a.bytes_length_le (h a rfl); simp only [Body.bytes]; omega
  | notice n left o =>
    cases n with
    | none => simp [Body.bytes, noticeBytes]
    | some n => have := n.note.fields_length_le; simp [Body.bytes, noticeBytes]; omega
  | _ => simp [Body.bytes, StatusAns.bytes, FeederAns.bytes]

/-- The feeders of one section are twelve (R8), so a stack that holds each once holds at most twelve (R147). -/
theorem stack_length_le {s : State} {n : Sec} (h : s.StackRight n) : (s.lmg.shedStack.get n).length ≤ 12 := by
  have hs : (s.lmg.shedStack.get n).toFinset ⊆ Finset.univ.filter fun f => feederSec f = n := fun f hf => by
    simpa using ((h.2 f).1 (List.mem_toFinset.1 hf)).1
  have hc : (Finset.univ.filter fun f : Feeder => feederSec f = n).card ≤ 12 := by cases n <;> decide
  have := (Finset.card_le_card hs).trans hc
  rwa [List.toFinset_card_of_nodup h.1] at this

/-- The answer of FEEDER_GET 0 is never overlong where the stacks are right (R147, R148, R162). -/
theorem summaryAns_short {s : State} (h : s.StacksRight) : s.summaryAns.Short := by
  refine ⟨fun n => stack_length_le (h n), (List.length_filterMap_le _ _).trans ?_⟩
  unfold State.islandIds
  split <;> simp

end Sys2Proof.Machine
end

