-- ==== Sys2Proof/Laws/Load.lean ====
section
/-! SUPPORT. What the load manager can change, said once: its own state, the notices it posts, and the count of free
values. -/

namespace Sys2Proof.Machine

variable {s t u : State}

/-- t is s but for the load manager's state, the notice queue and the count of free values. -/
def LoadOnly (s t : State) : Prop :=
  t = { s with
    lmg := t.lmg, freeCount := t.freeCount
    spt := { s.spt with queue := t.spt.queue, overflow := t.spt.overflow } }

namespace LoadOnly

theorem refl (s : State) : LoadOnly s s := rfl

theorem trans (h : LoadOnly s t) (g : LoadOnly t u) : LoadOnly s u := by
  unfold LoadOnly at *
  rw [g, h]

theorem foldl {α : Type} (f : State → α → State) (h : ∀ t a, LoadOnly t (f t a)) (l : List α) (s : State) :
    LoadOnly s (l.foldl f s) := by
  induction l generalizing s with
  | nil => exact refl _
  | cons a l ih => exact (h s a).trans (ih _)

theorem post (n : Note) (h : LoadOnly s t) : LoadOnly s (Machine.post n t) :=
  h.trans (by unfold Machine.post; split <;> rfl)

theorem modIsland (i : IslandId) (g : IslandRec → IslandRec) (h : LoadOnly s t) : LoadOnly s (Machine.modIsland i g t) :=
  h.trans rfl

theorem modFeeder (f : Feeder) (g : FeederRec → FeederRec) (h : LoadOnly s t) : LoadOnly s (Machine.modFeeder f g t) :=
  h.trans rfl

theorem setStack (n : Sec) (l : List Feeder) (h : LoadOnly s t) : LoadOnly s (Machine.setStack n l t) := h.trans rfl

theorem driveLine (f : Feeder) (b : Bool) (h : LoadOnly s t) : LoadOnly s (Machine.driveLine f b t) :=
  h.trans (by unfold Machine.driveLine; split <;> rfl)

theorem useFree (h : LoadOnly s t) : LoadOnly s (Machine.useFree t) := h.trans rfl

end LoadOnly

theorem shedOne_load (l : List Sec) (b : Nat) (x : Src) (o : Occasion) (f : Feeder) (s : State) :
    LoadOnly s (shedOne l b x o f s) := by
  unfold shedOne
  exact .post _ (.modIsland _ _ (.driveLine _ _ (.setStack _ _ (.modFeeder _ _ (.refl _)))))

theorem shedPass_load (l : List Sec) (b : Nat) (x : Src) (o : Occasion) (s : State) : LoadOnly s (shedPass l b x o s) := by
  unfold shedPass
  apply LoadOnly.foldl
  intro t f
  split
  · exact shedOne_load _ _ _ _ _ _
  · exact .refl _

theorem overloadPass_load (i : IslandId) (x : Src) (s : State) : LoadOnly s (overloadPass i x s) := by
  have a := (LoadOnly.modIsland i (fun r => { r with overloadAt := none }) (.refl s)).trans
    (shedPass_load (islandSecs i) (s.plan.budget x) x .overload _)
  unfold overloadPass
  dsimp only
  split
  · split
    · split
      · exact a
      · exact .post _ (.modIsland _ _ a)
    · exact a
  · exact .modIsland _ _ a

theorem superviseOne_load (i : IslandId) (s : State) : LoadOnly s (superviseOne i s) := by
  unfold superviseOne
  split
  · rfl
  · split
    · rfl
    · split
      · split
        · split
          · exact overloadPass_load _ _ _
          · rfl
        · rfl
      · rfl

theorem superviseAll_load (s : State) : LoadOnly s (superviseAll s) := LoadOnly.foldl _ (fun t i => superviseOne_load i t) _ _

theorem unshedForPlan_load (f : Feeder) (s : State) : LoadOnly s (unshedForPlan f s) := by
  unfold unshedForPlan
  dsimp only
  split
  · exact .post _ (.modIsland _ _ (.driveLine _ _ (.modFeeder _ _ (.setStack _ _ (.refl _)))))
  · exact .useFree (.post _ (.modIsland _ _ (.driveLine _ _ (.modFeeder _ _ (.setStack _ _ (.refl _))))))

theorem feederActivated_load (old : Items) (f : Feeder) (s : State) : LoadOnly s (feederActivated old f s) := by
  unfold feederActivated
  dsimp only
  have a : LoadOnly s (if (old.fitted f && !s.plan.fitted f) = true then
      modFeeder f (fun r => { r with demand := s.plan.feeder f .demand }) s else s) := by
    split
    · exact .modFeeder _ _ (.refl _)
    · exact .refl _
  generalize (if (old.fitted f && !s.plan.fitted f) = true then
    modFeeder f (fun r => { r with demand := s.plan.feeder f .demand }) s else s) = w at *
  split
  · exact a.trans (unshedForPlan_load _ _)
  · exact a

theorem linesOnBlock_load (s : State) : LoadOnly s (linesOnBlock s) := by
  unfold linesOnBlock
  split <;> rfl

theorem reformIslands_load (s : State) : LoadOnly s (reformIslands s) :=
  LoadOnly.trans (t := formIslands s) rfl (superviseAll_load _)

theorem announce_load (n : Sec) (e : SecEntry) (s : State) : LoadOnly s (announce n e s) := by
  have a (x : Option Announcement) : LoadOnly s { s with lmg := { s.lmg with anns := s.lmg.anns.set n x } } := rfl
  unfold announce
  dsimp only
  split
  · exact a _
  · refine LoadOnly.trans ?_ (superviseAll_load _)
    have b := fun x l k o => (a x).trans (shedPass_load l k o .target _)
    split
    · exact .post _ (b _ _ _ _)
    · exact b _ _ _ _

/-- An activation's part in the load manager, but for its report of the class-1 demand (R146). -/
theorem loadActivated_cases (old : Items) (one : Nat) (s : State) :
    ∃ u, LoadOnly s u ∧ (loadActivated old one s = u ∨ loadActivated old one s = report .classOneDemand u) := by
  have a : LoadOnly s (allFeeders.foldl (fun t f => feederActivated old f t) s) :=
    LoadOnly.foldl _ (fun t f => feederActivated_load _ _ _) _ _
  unfold loadActivated
  dsimp only
  generalize allFeeders.foldl (fun t f => feederActivated old f t) s = w at *
  have b : LoadOnly s (if w.blocked then linesOnBlock w else w) := by
    split
    · exact a.trans (linesOnBlock_load _)
    · exact a
  generalize (if w.blocked then linesOnBlock w else w) = v at *
  refine ⟨superviseAll v, b.trans (superviseAll_load _), ?_⟩
  unfold reportClassOne
  split
  · exact .inl rfl
  · exact .inr rfl

end Sys2Proof.Machine
end

