-- ==== Sys2Proof/Laws/Requests.lean ====
section
/-! SUPPORT. Request service said once: a supervisory command takes its request, and a part that is ready serves it. -/

namespace Sys2Proof.Machine

variable {s : State} {c : Instr} {tag : Byte} {r : Request}

/-- A supervisory command takes its request, outside reset. -/
theorem exec_request (h : c.request = some (tag, r)) : exec c s = .next (live (takeRequest tag r) s) := by
  cases c <;> simp only [Instr.request, Option.some.injEq, Prod.mk.injEq, reduceCtorEq] at h <;>
    obtain ⟨rfl, rfl⟩ := h <;> rfl

theorem live_on (f : State → State) (h : s.inReset = false) : live f s = f s := by
  unfold live
  rw [if_neg (by simp [h])]

/-- A ready part serves the request at once (R181). -/
theorem exec_ready (h : c.request = some (tag, r)) (k : s.Ready) :
    exec c s = .next (conclude r.kind tag (serve r (s.awaiting r.kind tag))) := by
  obtain ⟨⟨a, -⟩, l, v⟩ := k
  rw [exec_request h, live_on _ a]
  unfold takeRequest
  rw [if_neg (by simp [v]), if_neg (by simp [l])]
  rfl

/-- A reply at once leaves its state with the reply formed. -/
theorem conclude_done (k g : Byte) (t : State) (st : Status) (b : Body) :
    conclude k g (.done t ⟨st, b⟩) = t.replied k g st b := rfl

/-- A reply formed after an event that makes no report. -/
theorem conclude_after (k g : Byte) {t : State} (f : State → Reply) (h : t.agenda = []) :
    conclude k g (.after t f) = setService k g (.formed (f (runAll t))) (runAll t) := by
  unfold conclude
  dsimp only
  rw [settle_none h]

/-- An operation begun with no report made. -/
theorem conclude_waits (k g : Byte) {t : State} (h : t.agenda = []) : conclude k g (.waits t) = runAll t := settle_none h

@[simp] theorem replied_twice (k g k' g' : Byte) (st : Status) (b : Body) :
    (s.awaiting k g).replied k' g' st b = s.replied k' g' st b := rfl

/-- A request answered at once. -/
theorem exec_done (h : c.request = some (tag, r)) (k : s.Ready) {t u : State} {st : Status} {b : Body}
    (d : serve r (s.awaiting r.kind tag) = .done t ⟨st, b⟩) (e : t.replied r.kind tag st b = u) : exec c s = .next u := by
  rw [exec_ready h k, d, ← e]
  rfl

/-- A request whose reply is formed after the event. -/
theorem exec_after (h : c.request = some (tag, r)) (k : s.Ready) {t : State} {f : State → Reply}
    (d : serve r (s.awaiting r.kind tag) = .after t f) :
    exec c s = .next (setService r.kind tag (.formed (f (settle t))) (settle t)) := by
  rw [exec_ready h k, d]
  rfl

/-- A request whose reply waits, begun with no report made. -/
theorem exec_waits (h : c.request = some (tag, r)) (k : s.Ready) {t u : State}
    (d : serve r (s.awaiting r.kind tag) = .waits t) (a : t.agenda = []) (e : runAll t = u) : exec c s = .next u := by
  rw [exec_ready h k, d, conclude_waits _ _ a, e]

/-! ### The codes of operands -/

@[simp] theorem secOf_secCode (n : Sec) : secOf (secCode n) = some n := by cases n <;> rfl
@[simp] theorem srcOf_srcCode (x : Src) : srcOf (srcCode x) = some x := by cases x <;> rfl
@[simp] theorem chanOfCode_chanCode (c : Chan) : chanOfCode (chanCode c) = some c := by cases c <;> rfl
@[simp] theorem pageOf_pageCode (p : PageNo) : pageOf (pageCode p) = some p := by cases p <;> rfl
@[simp] theorem pointOfCode_pointCode (p : Point) : pointOfCode (pointCode p) = some p := by
  rcases p with n | n <;> cases n <;> rfl
@[simp] theorem feederOf_feederCode (f : Feeder) : feederOf (feederCode f) = some f := by revert f; decide
@[simp] theorem entryOfCode_entryCode (e : Entry) : entryOfCode (entryCode e).toNat = some e := by cases e <;> rfl
theorem feederCode_ne_zero (f : Feeder) : feederCode f ≠ 0 := by revert f; decide

@[simp] theorem withArg_some {α : Type} (a : α) (t : State) (f : α → Served) : withArg (some a) t f = f a := rfl
theorem afterStart_on {t : State} (a : t.adopted = true) (v : Served) : afterStart t v = v := if_pos a

/-- A page in use is the active or the pending one (R14, R15). -/
theorem pageInUse_iff {p : PageNo} : s.pageInUse p = true ↔ s.pst.active = some p ∨ s.pst.pendingPage = some p := by
  simp [State.pageInUse]

end Sys2Proof.Machine
end

