-- ==== Sys2Proof/Laws/Manual.lean ====
section
/-! SUPPORT. Events with both sections in MANUAL: which reports change nothing, and what every report then leaves as it
is. -/

namespace Sys2Proof.Machine

variable {s t u : State}

/-! ### Reports that change nothing -/

/-- A report on which nothing acts in MANUAL, whatever activation waits. -/
def Report.idle : Report → Bool
  | .srcChanged _ _ new _ => new != .healthy
  | .seqState _ => false
  | r => r.inert

theorem handle_idle {r : Report} (i : r.idle = true) (m : s.BothManual) : handle r s = s := by
  have a := auto_of_manual m
  cases r with
  | srcChanged x q n _ =>
    have h : ¬n = SrcState.healthy := by simpa [Report.idle] using i
    simp [handle, srcReported, h, seqSource, a]
  | pointInvalid q nd => cases i
  | ccuPoint q nd => cases i
  | contact n c k o => cases i
  | activationDone q o => cases i
  | timerOver n k => cases i
  | seqState n => cases i
  | busChanged b _ _ => simp [handle, testDecay, a]
  | availability c => simp [handle, forSecs, reconsider, a]
  | tripConfirmed c => simp [handle, forSecs, tripConfirmed, a]
  | tripFailed c => simp [handle, forSecs, tripFailed, a]
  | closeConfirmed c q m => cases q <;> simp [handle, forRequester, closeConfirmed, a]
  | closeFailed c q => cases q <;> simp [handle, forRequester, closeFailed, a]
  | closeWithdrawn c q => cases q <;> simp [handle, forRequester, closeWithdrawn, a]
  | lockoutEnded c o => simp [handle, forSecs, lockoutEnded, a]
  | channelLocked c => simp [handle, forSecs, channelLocked, a]
  | channelCleared c => rfl
  | seqFeed n => simp [handle, reconsider, a]
  | tieOwner => simp [handle, forSecs, reconsider, a]
  | classOneDemand => simp [handle, forSecs, reconsider, a]
  | holdEnded n => simp [handle, holdEnded, a]
  | activated n => simp [handle, seqActivated, a]
  | fedEntry n c => simp [handle, fedTests, a]
  | decayTest n _ => simp [handle, testDecay, a]

/-- Reports on which nothing acts are passed over; only the run records may move. -/
theorem drain_idle (l : List Report) (k : Nat) (s : State) (m : s.BothManual) (i : ∀ r ∈ l, r.idle = true) :
    ∃ v, drain (l.length + k) { s with agenda := l ++ s.agenda } =
      drain k { s with mdc := { s.mdc with runs := v } } := by
  induction l generalizing s with
  | nil => exact ⟨s.mdc.runs, by rw [List.length_nil, Nat.zero_add]; rfl⟩
  | cons r l ih =>
    rw [List.length_cons, Nat.add_right_comm]
    rw [drain_cons (r := r) (rest := l ++ s.agenda) _ rfl]
    have e := handle_idle (s := { s with agenda := l ++ s.agenda }) (i r List.mem_cons_self) m
    have f : ({ ({ s with agenda := r :: l ++ s.agenda } : State) with agenda := l ++ s.agenda } : State) =
      { s with agenda := l ++ s.agenda } := rfl
    rw [f, e, runAll_eq]
    obtain ⟨v, hv⟩ := ih { s with mdc := { s.mdc with runs := (runAll { s with agenda := l ++ s.agenda }).mdc.runs } } m
      (fun q hq => i q (List.mem_cons_of_mem _ hq))
    exact ⟨v, hv⟩

/-! ### What every report leaves in MANUAL -/

/-- t is s but for the records that reports move in MANUAL: the sequencers' feeds, states and timers, the qualification
and coincidence records, announcements, run records, the waiting writes and the notice queue. -/
structure Quiet (s t : State) : Prop where
  bcu     : t.bcu = s.bcu
  hlc     : t.hlc = s.hlc
  owner   : t.owner = s.owner
  pst     : t.pst = { s.pst with writes := t.pst.writes }
  feeders : t.lmg.feeders = s.lmg.feeders
  sheds   : t.lmg.shedStack = s.lmg.shedStack
  lines   : t.lmg.lines = s.lmg.lines
  islands : t.lmg.islands = s.lmg.islands
  mdc     : t.mdc = { s.mdc with runs := t.mdc.runs }
  roles   : ∀ n, (t.ctx n).role = (s.ctx n).role
  service : t.spt.service = s.spt.service
  flags   : t.inReset = s.inReset ∧ t.loaded = s.loaded ∧ t.adopted = s.adopted

namespace Quiet

theorem refl (s : State) : Quiet s s :=
  ⟨rfl, rfl, rfl, rfl, rfl, rfl, rfl, rfl, rfl, fun _ => rfl, rfl, rfl, rfl, rfl⟩

theorem trans (h : Quiet s t) (k : Quiet t u) : Quiet s u where
  bcu := k.bcu.trans h.bcu
  hlc := k.hlc.trans h.hlc
  owner := k.owner.trans h.owner
  pst := by rw [k.pst, h.pst]
  feeders := k.feeders.trans h.feeders
  sheds := k.sheds.trans h.sheds
  lines := k.lines.trans h.lines
  islands := k.islands.trans h.islands
  mdc := by rw [k.mdc, h.mdc]
  roles n := (k.roles n).trans (h.roles n)
  service := k.service.trans h.service
  flags := ⟨k.flags.1.trans h.flags.1, k.flags.2.1.trans h.flags.2.1, k.flags.2.2.trans h.flags.2.2⟩

theorem manual (h : Quiet s t) (m : s.BothManual) : t.BothManual := by
  intro n
  unfold State.mode
  rw [h.mdc]
  exact m n

theorem pending (h : Quiet s t) (p : s.pst.pendingPage = none) : t.pst.pendingPage = none := by
  rw [h.pst]
  exact p

end Quiet

theorem runAll_quiet (s : State) : Quiet s (runAll s) := by
  rw [runAll_eq]
  exact ⟨rfl, rfl, rfl, rfl, rfl, rfl, rfl, rfl, rfl, fun _ => rfl, rfl, rfl, rfl, rfl⟩

theorem report_quiet (r : Report) (s : State) : Quiet s (report r s) :=
  ⟨rfl, rfl, rfl, rfl, rfl, rfl, rfl, rfl, rfl, fun _ => rfl, rfl, rfl, rfl, rfl⟩

theorem post_quiet (n : Note) (s : State) : Quiet s (post n s) := by
  unfold post
  split <;> exact ⟨rfl, rfl, rfl, rfl, rfl, rfl, rfl, rfl, rfl, fun _ => rfl, rfl, rfl, rfl, rfl⟩

theorem modSeq_quiet (n : Sec) (f : SecCtx → SecCtx) (h : ∀ c, (f c).role = c.role) (s : State) : Quiet s (modSeq n f s) := by
  refine ⟨rfl, rfl, rfl, rfl, rfl, rfl, rfl, rfl, rfl, fun m => ?_, rfl, rfl, rfl, rfl⟩
  unfold State.ctx modSeq
  simp only [BySec.get_set]
  split
  · rename_i e; subst e; exact h _
  · rfl

theorem enter_quiet (n : Sec) (st : SeqState) (s : State) : Quiet s (enter n st s) := by
  have c : ∀ x : State, Quiet x (clearAnn n x) := fun x =>
    ⟨rfl, rfl, rfl, rfl, rfl, rfl, rfl, rfl, rfl, fun _ => rfl, rfl, rfl, rfl, rfl⟩
  have w : ∀ x : State, Quiet x (setWatch n none x) := fun x =>
    ⟨rfl, rfl, rfl, rfl, rfl, rfl, rfl, rfl, rfl, fun _ => rfl, rfl, rfl, rfl, rfl⟩
  unfold enter
  dsimp only
  have a := modSeq_quiet n (·.into st) (fun _ => rfl) s
  have b : Quiet s (if st = .decay ∨ st = .sync then modSeq n (·.into st) s else setWatch n none (modSeq n (·.into st) s)) := by
    split
    · exact a
    · exact a.trans (w _)
  have d : ∀ x : State, Quiet x (if st.atRest then clearAnn n x else x) := by
    intro x
    split
    · exact c x
    · exact .refl _
  split
  · exact b
  · exact (b.trans (d _)).trans (report_quiet _ _)

theorem setFeed_quiet (n : Sec) (e : Option Entry) (s : State) : Quiet s (setFeed n e s) := by
  unfold setFeed
  split
  · exact .refl _
  · exact (modSeq_quiet n (fun c => { c with feed := e }) (fun _ => rfl) s).trans (report_quiet _ _)

theorem track_quiet (n : Sec) (s : State) : Quiet s (track n s) := by
  unfold track
  split
  · exact setFeed_quiet _ _ _
  · split
    · exact (setFeed_quiet _ _ _).trans (enter_quiet _ _ _)
    · exact (setFeed_quiet _ _ _).trans (enter_quiet _ _ _)
    · exact .refl _

theorem changeSrc_quiet (x : Src) (n : SrcState) (c : Cause) (q : Option (QTimer × Nat)) (s : State) :
    Quiet s (changeSrc x n c q s) := by
  unfold changeSrc
  dsimp only
  have a : Quiet s { s with squ := { s.squ with srcs := s.squ.srcs.set x ⟨n, c, q, s.now⟩ } } :=
    ⟨rfl, rfl, rfl, rfl, rfl, rfl, rfl, rfl, rfl, fun _ => rfl, rfl, rfl, rfl, rfl⟩
  split
  · exact (a.trans (post_quiet _ _)).trans (report_quiet _ _)
  · exact a.trans (report_quiet _ _)

theorem setBus_quiet (b : Sec) (st : BusState) (v : Nat) (s : State) : Quiet s (setBus b st v s) := by
  unfold setBus
  dsimp only
  split <;> exact ⟨rfl, rfl, rfl, rfl, rfl, rfl, rfl, rfl, rfl, fun _ => rfl, rfl, rfl, rfl, rfl⟩

theorem squInvalid_quiet (p : Point) (s : State) : Quiet s (squInvalid p s) := by
  cases p with
  | src x =>
    unfold squInvalid
    dsimp only
    split
    · exact .refl _
    · exact changeSrc_quiet _ _ _ _ _
  | bus b => exact setBus_quiet _ _ _ _

theorem keep_quiet (p : Pair) (r : PairResult) (s : State) : Quiet s (keep p r s) := by
  cases p <;> exact ⟨rfl, rfl, rfl, rfl, rfl, rfl, rfl, rfl, rfl, fun _ => rfl, rfl, rfl, rfl, rfl⟩

theorem computeWatch_manual (p : Point) (nd : Word) (n : Sec) (m : s.BothManual) :
    computeWatch p nd n s = s ∨ ∃ q r, computeWatch p nd n s = keep q r s := by
  unfold computeWatch
  split
  · split
    · rename_i w _ _
      refine .inr ⟨w.pair, s.coincidence w.pair w.set w.judging nd, ?_⟩
      unfold handResult
      exact if_neg (by rw [auto_of_manual ((keep_quiet _ _ _).manual m)]; decide)
    · exact .inl rfl
  · exact .inl rfl

theorem computeWatch_quiet (p : Point) (nd : Word) (n : Sec) (m : s.BothManual) : Quiet s (computeWatch p nd n s) := by
  rcases computeWatch_manual p nd n m with e | ⟨q, r, e⟩
  · rw [e]; exact .refl _
  · rw [e]; exact keep_quiet _ _ _

theorem runHealthy_quiet (x : Src) (s : State) : Quiet s (runHealthy x s) :=
  ⟨rfl, rfl, rfl, rfl, rfl, rfl, rfl, rfl, rfl, fun _ => rfl, rfl, rfl, rfl, rfl⟩

theorem clearExclusion_quiet (x : Src) (n : Sec) (s : State) : Quiet s (clearExclusion x n s) := by
  unfold clearExclusion
  split
  case isFalse => exact .refl _
  split
  · split
    · apply modSeq_quiet
      intro _
      rfl
    · exact .refl _
  · exact .refl _

theorem srcReported_quiet (x : Src) (new : SrcState) (m : s.BothManual) : Quiet s (srcReported x new s) := by
  have base : Quiet s (if new = .healthy then runHealthy x (clearExclusion x .sec2 (clearExclusion x .sec1 s)) else s) := by
    split
    · exact ((clearExclusion_quiet _ _ _).trans (clearExclusion_quiet _ _ _)).trans (runHealthy_quiet _ _)
    · exact .refl _
  unfold srcReported
  dsimp only
  have a := auto_of_manual (base.manual m)
  have e : ∀ n, seqSource n x new
      (if new = .healthy then runHealthy x (clearExclusion x .sec2 (clearExclusion x .sec1 s)) else s) =
      (if new = .healthy then runHealthy x (clearExclusion x .sec2 (clearExclusion x .sec1 s)) else s) := by
    intro n
    rw [seqSource.eq_def, if_neg (by rw [a n]; decide)]
  rw [e .sec1, e .sec2]
  exact base

theorem timerOver_quiet (n : Sec) (k : SeqTimer) (m : s.BothManual) : Quiet s (timerOver n k s) := by
  unfold timerOver
  split
  · exact .refl _
  · dsimp only
    rw [if_neg (by rw [auto_of_manual m n]; decide)]
    have r : ∀ d, Quiet s (reach d s) := fun d =>
      ⟨rfl, rfl, rfl, rfl, rfl, rfl, rfl, rfl, rfl, fun _ => rfl, rfl, rfl, rfl, rfl⟩
    exact (r _).trans (modSeq_quiet _ _ (fun c => by cases k <;> rfl) _)

/-- In MANUAL, with no activation waiting, a report leaves all that `Quiet` names. -/
theorem handle_quiet (r : Report) (m : s.BothManual) (p : s.pst.pendingPage = none) : Quiet s (handle r s) := by
  by_cases i : r.inert = true
  · rw [handle_inert i m p]; exact .refl _
  · cases r with
    | srcChanged x q n _ => exact srcReported_quiet x n m
    | pointInvalid q nd => exact (squInvalid_quiet q s).trans (report_quiet _ _)
    | ccuPoint q nd =>
      have a := computeWatch_quiet q nd .sec1 m
      exact a.trans (computeWatch_quiet q nd .sec2 (a.manual m))
    | contact n c k o =>
      show Quiet s (contactSeen n c k o s)
      unfold contactSeen
      rw [if_pos (by rw [auto_of_manual m n]; rfl)]
      exact track_quiet n s
    | activationDone q o =>
      show Quiet s (post _ (queueWrite _ s))
      have a : Quiet s (queueWrite (.pointer q) s) :=
        ⟨rfl, rfl, rfl, rfl, rfl, rfl, rfl, rfl, rfl, fun _ => rfl, rfl, rfl, rfl, rfl⟩
      exact a.trans (post_quiet _ _)
    | timerOver n k => exact timerOver_quiet n k m
    | _ => exact absurd rfl i

theorem drain_quiet (k : Nat) (m : s.BothManual) (p : s.pst.pendingPage = none) : Quiet s (drain k s) := by
  induction k generalizing s with
  | zero => exact .refl _
  | succ k ih =>
    cases e : s.agenda with
    | nil => rw [drain_none _ e]; exact .refl _
    | cons r rest =>
      rw [drain_cons _ e]
      have a : Quiet s { s with agenda := rest } :=
        ⟨rfl, rfl, rfl, rfl, rfl, rfl, rfl, rfl, rfl, fun _ => rfl, rfl, rfl, rfl, rfl⟩
      have b := (a.trans (handle_quiet r (a.manual m) (a.pending p))).trans (runAll_quiet _)
      exact b.trans (ih (b.manual m) (b.pending p))

/-- In MANUAL, with no activation waiting, the end of an event leaves all that `Quiet` names. -/
theorem settle_quiet (m : s.BothManual) (p : s.pst.pendingPage = none) : Quiet s (settle s) := by
  have a := runAll_quiet s
  exact a.trans (drain_quiet _ (a.manual m) (a.pending p))

end Sys2Proof.Machine
end

