-- ==== Sys2Proof/Laws/Still.lean ====
section
/-! SUPPORT. Events in a still state: what changing a channel, the owner of the tie or the notice queue can do, and the end
of an event whose reports no block acts on. -/

namespace Sys2Proof.Machine

variable {s t u : State}

/-! ### What single changes can do -/

/-- A change of a channel record stores it, and reports at most that the channel's availability has changed. -/
theorem modChan_cases (c : Chan) (f : ChanRec → ChanRec) (s : State) :
    ∃ l : List Report, modChan c f s = { s with bcu := s.bcu.set c (f (s.bcu.get c)), agenda := s.agenda ++ l } ∧
      (∀ r ∈ l, r.inert = true) ∧ l.length ≤ 1 := by
  unfold modChan
  dsimp only
  split
  · exact ⟨[.availability c], rfl, by simp [Report.inert], by simp⟩
  · exact ⟨[], by simp, by simp, by simp⟩

/-- A change that leaves the channel's availability makes no report. -/
theorem modChan_silent (c : Chan) (f : ChanRec → ChanRec) (s : State)
    (h : (f (s.bcu.get c)).available = (s.bcu.get c).available) :
    modChan c f s = { s with bcu := s.bcu.set c (f (s.bcu.get c)) } := by
  unfold modChan
  dsimp only
  rw [if_neg]
  simp [h]

/-- Setting the owner of the tie sets it, and reports at most that. -/
theorem setOwner_cases (o : Option Sec) (s : State) :
    ∃ l : List Report, setOwner o s = { s with owner := o, agenda := s.agenda ++ l } ∧
      (∀ r ∈ l, r.inert = true) ∧ l.length ≤ 1 := by
  unfold setOwner
  split
  · rename_i e
    exact ⟨[], by rw [← e]; simp, by simp, by simp⟩
  · exact ⟨[.tieOwner], by unfold report; simp, by simp [Report.inert], by simp⟩

/-- Releasing the tie for a channel clears the owner where the channel is BKT. -/
theorem releaseTieFor_cases (c : Chan) (s : State) :
    ∃ l : List Report, releaseTieFor c s =
        { s with owner := if c = .bkt then none else s.owner, agenda := s.agenda ++ l } ∧
      (∀ r ∈ l, r.inert = true) ∧ l.length ≤ 1 := by
  unfold releaseTieFor releaseTie
  split
  · exact setOwner_cases _ _
  · exact ⟨[], by simp, by simp, by simp⟩

/-- A notice changes the port alone. -/
theorem post_eq (n : Note) (s : State) : post n s = { s with spt := (post n s).spt } := by
  unfold post
  split <;> rfl

/-! ### The end of a still event -/

/-- An event in a still state whose reports no block acts on ends with those reports taken and nothing else. -/
theorem settle_still {l : List Report} (h : s.Still) (e : t = { u with agenda := l }) (m : u.mdc.modes = s.mdc.modes)
    (p : u.pst = s.pst) (a : u.agenda = []) (i : ∀ r ∈ l, r.inert = true) (len : l.length ≤ 4096) : settle t = u := by
  obtain ⟨_, m', g, p'⟩ := h
  rw [e, settle_inert (s := { u with agenda := l }) _ _ _ i len]
  · rw [← a]
  · intro n
    unfold State.mode
    show u.mdc.modes.get n = _
    rw [m]
    exact m' n
  · intro x
    unfold State.plan
    dsimp only
    rw [p]
    exact g x
  · dsimp only
    rw [p]
    exact p'

/-- An event command in a still state. -/
theorem event_still {f : State → State} {l : List Report} (h : s.Still) (e : f s = { u with agenda := l })
    (m : u.mdc.modes = s.mdc.modes) (p : u.pst = s.pst) (a : u.agenda = []) (i : ∀ r ∈ l, r.inert = true)
    (len : l.length ≤ 4096) : event f s = .next u := by
  unfold event
  rw [live_on _ h.1.1, settle_still h e m p a i len]

/-- Both sections in MANUAL let a manual operation reach every channel (R166). -/
theorem manualChan_of_manual (m : s.BothManual) (c : Chan) : s.manualChan c = true := by
  unfold State.manualChan
  simp [allSecs, m .sec1, m .sec2]

@[simp] theorem actionOf_close : actionOf 1 = some .close := rfl
@[simp] theorem actionOf_trip : actionOf 2 = some .trip := rfl
@[simp] theorem actionOf_stop : actionOf 3 = some .stop := rfl

end Sys2Proof.Machine
end

