-- ==== Sys2Proof/Tests/Slice0.lean ====
section
/-! SUPPORT. The model's own tests: the checks of WellFormed, the manual's worked values, one small step per command, and
a witness for the hypotheses of each statement. Expected values come from the spec's worked examples and tables, or
are worked by hand from its rules. -/

namespace Sys2Proof.Tests

set_option maxRecDepth 20000

open Sys2Proof Sys2Proof.Machine

/-! ### Helpers -/

/-- What a command leaves, seen through one reading of the state; none where it gives no next state. -/
def after {α : Type} (c : Instr) (s : State) (view : State → α) : Option α :=
  match exec c s with
  | .next t => some (view t)
  | _ => none

/-- The default items with some addressed items changed: group, index, field, value. -/
def itemsWith (l : List (Nat × Nat × Nat × Nat)) : Items :=
  l.foldl (fun it e => match itemAt e.1 e.2.1 e.2.2.1 with
    | some (k, _) => it.put k (BitVec.ofNat 32 e.2.2.2)
    | none => it) defaultItems

/-- Every breaker open, ready and racked in, no lockout, BLKn released. -/
def readySamples : FirstSamples := ⟨.all ⟨false, true, true, false⟩, false⟩

/-- A board after its power-up sequence, every breaker open and available, both sections in MANUAL. -/
def board : State := { State.boot 0 readySamples .unwritten 0 [] with loaded := true, adopted := true }

/-- The board with a set of items on PAGE1, VALID and active. -/
def boardOn (it : Items) : State :=
  { board with pst := { board.pst with pages := board.pst.pages.set .p1 ⟨it, .valid, true⟩, active := some .p1 } }

/-- One channel's record changed. -/
def onChan (c : Chan) (f : ChanRec → ChanRec) (s : State) : State := { s with bcu := s.bcu.set c (f (s.bcu.get c)) }

/-- One section's context changed. -/
def onSec (n : Sec) (f : SecCtx → SecCtx) (s : State) : State := { s with seqs := s.seqs.set n (f (s.seqs.get n)) }

/-- One source's qualification record set. -/
def onSrc (x : Src) (q : QualRec) (s : State) : State := { s with squ := { s.squ with srcs := s.squ.srcs.set x q } }

/-- One point's measurement record set. -/
def onPoint (p : Point) (r : PointRec) (s : State) : State :=
  { s with hlc := { s.hlc with points := s.hlc.points.set p r } }

/-- A channel closed: AUX accepted closed and the position CLOSED. -/
def shut (c : Chan) : State → State :=
  onChan c fun r => { r with aux := .first true, position := .isClosed, cmdClosed := true }

/-- A source HEALTHY since tick 0. -/
def sound (x : Src) : State → State := onSrc x ⟨.healthy, .none, none, 0⟩

/-- A section in AUTO. -/
def auto (n : Sec) (s : State) : State := { s with mdc := { s.mdc with modes := s.mdc.modes.set n .auto } }

/-- The status and the body of the formed reply, if one is formed. -/
def answer (s : State) : Option (Status × Body) :=
  match s.spt.service with
  | some ⟨_, _, .formed r⟩ => some (r.status, r.body)
  | _ => none

/-- The status of the formed reply. -/
def statusOf (s : State) : Option Status := (answer s).map (·.1)

/-- The notices in the queue, oldest first. -/
def notes (s : State) : List Note := s.spt.queue.map (·.note)

/-! ### WellFormed: one ill-formed command per check, each refused -/

theorem test_wf_point : (Instr.pointGet 0 7).wellFormed = false := by decide
theorem test_wf_pair_last : (Instr.pairGetLast 0 1 6 0).wellFormed = false := by decide
theorem test_wf_pair_new : (Instr.pairGetNew 0 5 5 0).wellFormed = false := by decide
theorem test_wf_pair_items : (Instr.pairGetNew 0 1 5 2).wellFormed = false := by decide
theorem test_wf_breaker : (Instr.breakerGet 0 6).wellFormed = false := by decide
theorem test_wf_close : (Instr.breakerOperateClose 0 0).wellFormed = false := by decide
theorem test_wf_trip : (Instr.breakerOperateTrip 0 6).wellFormed = false := by decide
theorem test_wf_stop : (Instr.breakerOperateStop 0 255).wellFormed = false := by decide
theorem test_wf_clear : (Instr.channelClear 0 0).wellFormed = false := by decide
theorem test_wf_section : (Instr.sectionGet 0 3).wellFormed = false := by decide
theorem test_wf_manual : (Instr.modeSetManual 0 0).wellFormed = false := by decide
theorem test_wf_auto : (Instr.modeSetAuto 0 3).wellFormed = false := by decide
theorem test_wf_block : (Instr.blockSet 0 2).wellFormed = false := by decide
theorem test_wf_transfer_section : (Instr.transferRequest 0 3 1).wellFormed = false := by decide
theorem test_wf_transfer_entry : (Instr.transferRequest 0 1 0).wellFormed = false := by decide
theorem test_wf_resume : (Instr.resume 0 0).wellFormed = false := by decide
theorem test_wf_feeder : (Instr.feederGet 0 25).wellFormed = false := by decide
theorem test_wf_demand : (Instr.feederDemandSet 0 0 100).wellFormed = false := by decide
theorem test_wf_select : (Instr.planSelect 0 4).wellFormed = false := by decide
theorem test_wf_read : (Instr.planRead 0 6 1 1).wellFormed = false := by decide
theorem test_wf_write : (Instr.planWrite 0 1 1 19 0).wellFormed = false := by decide
theorem test_wf_copy_source : (Instr.planCopy 0 4 0).wellFormed = false := by decide
theorem test_wf_copy_dest : (Instr.planCopy 0 0 4).wellFormed = false := by decide
theorem test_wf_check : (Instr.planCheck 0 4).wellFormed = false := by decide
theorem test_wf_activate : (Instr.planActivate 0 4).wellFormed = false := by decide
theorem test_wf_save : (Instr.planSave 0 4).wellFormed = false := by decide
theorem test_wf_head_read : (Instr.headRead 0 1 32).wellFormed = false := by decide
theorem test_wf_head_write_low : (Instr.headWrite 0 1 0 0).wellFormed = false := by decide
theorem test_wf_head_write_high : (Instr.headWrite 0 1 31 0).wellFormed = false := by decide
theorem test_wf_output_line : (Instr.outputSet 0 5 0).wellFormed = false := by decide
theorem test_wf_output_value : (Instr.outputSet 0 1 2).wellFormed = false := by decide
theorem test_wf_gen_source : (Instr.genTest 0 0 1).wellFormed = false := by decide
theorem test_wf_gen_value : (Instr.genTest 0 1 2).wellFormed = false := by decide

/-- No row of the table has bits, so no word spells a command. -/
theorem test_no_word_spells : decodeTableWord 32 0x12345678 = none := rfl

/-! ### The manual's worked values -/

/-- The check value of the frame's CRC (R194). -/
theorem test_crc_check : crc16 [0x31, 0x32, 0x33, 0x34, 0x35, 0x36, 0x37, 0x38, 0x39] = 0x29B1 := by decide

/-- The items of the worked computation: section 1's open window 250 and open slip limit 1000 (section 4.6). -/
def workedItems : Items := itemsWith [(1, 3, 1, 1), (3, 1, 5, 250), (3, 1, 6, 1000)]

/-- A bound point with a summary. -/
def measured (place : HeadPlace) (v f a : Nat) (arrival : Word) : PointRec :=
  ⟨some place, .present, 0, some ⟨v, v, v, f, a, false, arrival⟩, true, 0⟩

/-- The worked board: the target SRC3 (kind UTILITY) HEALTHY, BK3's close time 80, and one summary of each point. -/
def workedBoard (ni ti nb tb fb vb : Nat) : State :=
  let s := onPoint (.src .src3) (measured ⟨.n2, .n0⟩ 2300 50000 ti (BitVec.ofNat 32 ni))
    (onPoint (.bus .sec1) (measured ⟨.n4, .n0⟩ vb fb tb (BitVec.ofNat 32 nb)) (sound .src3 (boardOn workedItems)))
  { s with squ := { s.squ with buses := s.squ.buses.set .sec1 ⟨.live, vb, 0⟩ } }

/-- The worked result: difference, slip, horizon, prediction, and the test that failed. -/
def worked (s : State) (nd : Word) : Option (Int × Int × Nat × Int × Option NoPermit) :=
  match (s.coincidence (.incomer .src3) .openItems .sec1 nd).formed with
  | .available v => some (v.d0, v.slip, v.hor, v.dp, v.fails)
  | .notAvailable _ => none

/-- Section 4.6, the first computation: a permit at 20.2°. -/
theorem test_worked_first :
    worked (workedBoard 1003 1420 1000 1200 49600 1720) 1005 = some (86, 400, 80500, 202, none) := by decide

/-- Section 4.6, the second computation: 30.8° is outside the window. -/
theorem test_worked_second :
    worked (workedBoard 1003 1420 1080 1150 49400 1560) 1080 = some (135, 600, 80000, 308, some .window) := by decide

/-- Section 4.6, the later computation: a permit at 14.1° behind. -/
theorem test_worked_later :
    worked (workedBoard 4523 1420 4600 1685 49100 1480) 4600 = some (-400, 900, 80000, -141, none) := by decide

/-- Section 4.6, rounding: a negative half of stage 4 and a positive half of stage 2. -/
theorem test_rounding : turn (-500) (horizon 2 62) = -113 ∧ advance 45000 1 = 41 ∧ advance 49600 3 = 134 := by decide

/-- Section 4.6, wrapping: downward, at half a turn, and over several turns. -/
theorem test_wrapping : wrapAngle (-1830) = 1770 ∧ wrapAngle 1800 = 1800 ∧ wrapAngle 59500 = -1700 := by decide

/-- Section 4.6, learning: the worked close time, both clamps, and the measurement discarded. -/
theorem test_learning : learn 80 93 = 83 ∧ learn 500 1000 = 500 ∧ learn 20 10 = 20 ∧ learn 80 8 = 80 := by decide

/-! ### One small step per command -/

/-- RESET_ASSERT with a close pulse running: the coil is off and HL_RSTn is low (R175). -/
theorem test_reset_assert :
    after .resetAssert (onChan .bk1 (fun r => { r with closeEnd := some 50 }) board)
      (fun t => (t.inReset, t.closeCoil .bk1, t.headReset)) = some (true, false, true) := by decide

/-- RESET_RELEASE: BK1 closed and BK2 locked out by their first samples (R79). -/
theorem test_reset_release :
    after (.resetRelease 2 ⟨⟨⟨true, true, true, false⟩, ⟨true, true, true, true⟩, ⟨false, true, true, false⟩,
        ⟨false, true, true, false⟩, ⟨false, true, true, false⟩⟩, true⟩) { board with inReset := true }
      (fun t => ((t.bcu.get .bk1).position, (t.bcu.get .bk2).position, (t.bcu.get .bk2).cmdClosed, t.spt.baud,
        t.blocked, t.loaded)) = some (.isClosed, .locked, true, 2, true, false) := by decide

/-- STORE_LOAD_END with an unreadable store: default pages, no active page, and the link start begins (R22, R37). -/
theorem test_store_load_end :
    after .storeLoadEnd State.reset (fun t => (t.loaded, (t.pst.pages.get .p3).status, t.pst.active, t.hlc.rstEnd))
      = some (true, .blank, none, some 1) := by decide

/-- A board with store writes waiting. -/
def writing (l : List StoreWrite) : State := { board with pst := { board.pst with writes := l } }

/-- PAGE_WRITE_END: the page is saved and the next write is in progress (R20, R21). -/
theorem test_page_write_end :
    after (.pageWriteEnd true) (writing [.page .p2, .pointer .p0])
      (fun t => ((t.pst.pages.get .p2).saved, t.pst.writes)) = some (true, [.pointer .p0]) := by decide

/-- POINTER_WRITE_END, good and failed (R21). -/
theorem test_pointer_write_end :
    after (.pointerWriteEnd true) (writing [.pointer .p3]) (fun t => t.pst.storedActive) = some (.page .p3) ∧
    after (.pointerWriteEnd false) (writing [.pointer .p3]) (fun t => t.pst.storedActive) = some .unreadable := by decide

/-- LINK_MAP_WRITE_END stores the record (R41). -/
theorem test_link_map_write_end :
    after (.linkMapWriteEnd true) (writing [.linkMap (.all none)])
      (fun t => (t.pst.store.linkMap.isSome, t.pst.writes)) = some (true, []) := by decide

/-- The board with PAGE2 VALID and pending beside PAGE1 active, its alarm time 7 s and BK4's close time 90 ms. -/
def pendingBoard : State :=
  let s := boardOn defaultItems
  { s with pst := { s.pst with
    pages := s.pst.pages.set .p2 ⟨itemsWith [(6, 0, 8, 7), (4, 4, 5, 90)], .valid, false⟩, pendingPage := some .p2 } }

/-- ACTIVATION_TAKES_EFFECT: PAGE2 is active, its pointer write waits, and BK4's close time is reloaded (R18, R75). -/
theorem test_activation_takes_effect :
    after .activationTakesEffect pendingBoard
      (fun t => (t.pst.active, t.pst.pendingPage, t.pst.writes, (t.bcu.get .bk4).tc, (t.bcu.get .bk3).tc))
      = some (some .p2, none, [.pointer .p2], 90, 80) := by decide

/-- A board in a link start, in a phase of discovery. -/
def starting (d : Discovery) (slot : Option HeadCmd) : State :=
  { board with hlc := { board.hlc with discovery := d, slot := slot, running := true } }

/-- LINK_RESET_RELEASE: frames run from frame 0 and the first phase of discovery begins (R37, R38). -/
theorem test_link_reset_release :
    after .linkResetRelease { board with hlc := { board.hlc with rstEnd := some 1 } }
      (fun t => (t.hlc.running, t.hlc.rstLow, t.hlc.frameNo, t.hlc.outFrame.tag, t.now))
      = some (true, false, 0, 0x800000, 1) := by decide

/-- DISCOVERY_READY_END: the head at address 0 is asked for its identity (R38). -/
theorem test_discovery_ready_end :
    after .discoveryReadyEnd (starting (.ready (.all true)) none) (fun t => (t.hlc.discovery, t.hlc.slot.map (·.index)))
      = some (.reading .n0, some 0) := by decide

/-- DISCOVERY_READ_SILENT: address 0 is silent and address 1 is read next (R38, R39). -/
theorem test_discovery_read_silent :
    after .discoveryReadSilent (starting (.reading .n0) (some ⟨false, none, ⟨.n0, .n0⟩, 0, 0, some 800⟩))
      (fun t => (t.hlc.heads.get .n0, t.hlc.discovery)) = some (.silent, .reading .n1) := by decide

/-- A running link on which one point is bound to address 3 on line HL_IN0. -/
def linked (p : Point) (r : PointRec) : State :=
  onPoint p r { board with hlc := { board.hlc with
    link := .bound, rstLow := false, running := true, frameNo := 500, lastEnded := some 499, outTurn := .n5 } }

/-- A silent line. -/
def dumb : InLine := ⟨0, 0, 0, 0, 0, 0, 0, 0, 0⟩

/-- A frame of the head at address 3 with slots 3 to 8 valid, its TAG written out from R195: READY in bit 23, slots 3 to
8 in bits 20 to 15, the address in bits 14 to 12. -/
def spoken (v freq angle : Nat) : BySix InLine :=
  ⟨⟨0x9FB000, 0, 0, BitVec.ofNat 24 v, BitVec.ofNat 24 v, BitVec.ofNat 24 v, BitVec.ofNat 24 freq,
    BitVec.ofNat 24 angle, 0x00BEEF⟩, dumb, dumb, dumb, dumb, dumb⟩

/-- A bound head that has brought nothing yet. -/
def fresh3 : PointRec := { PointRec.unbound with bound := some ⟨.n3, .n0⟩, status := .present }

/-- HEAD_FRAME_END: a summary of SRC1 at its nominal values starts PICKUP with t_pick 5000 (R27, R48). -/
theorem test_head_frame_end :
    after (.headFrameEnd (spoken 2300 50000 900)) (linked (.src .src1) fresh3)
      (fun t => (t.hlc.frameNo, t.hlc.outTurn, (t.hlc.points.get (.src .src1)).input, t.squ.srcs.get .src1))
      = some (501, .n0, 0xBEEF, ⟨.pickup, .none, some (.pick, 5000), 0⟩) := by decide

/-- HEAD_FRAME_END: at v_nom 2315 and v_pick_lo 905, 2095 is below the pickup band and 2096 inside it (section 3.2.1). -/
theorem test_band_edge :
    let it := itemsWith [(1, 1, 2, 2315), (1, 1, 5, 905)]
    let m (v : Nat) : Summary := ⟨v, 2315, 2315, 50000, 0, false, 0⟩
    it.causeIn .src1 (it.pickupBand .src1) (m 2095) = .undervolt ∧
    it.causeIn .src1 (it.pickupBand .src1) (m 2096) = .none := by decide

/-- The bus states at their thresholds with the default items (section 3.2.1). -/
theorem test_bus_states :
    defaultItems.busState .sec1 1610 = .live ∧ defaultItems.busState .sec1 1609 = .decaying ∧
    defaultItems.busState .sec1 575 = .dead ∧ defaultItems.busState .sec1 576 = .decaying := by decide

/-- HEAD_LOST: the head is LOST and its notice posted (R30). -/
theorem test_head_lost :
    after (.headLost (.src .src1)) (linked (.src .src1) { fresh3 with loss := 31 })
      (fun t => ((t.hlc.points.get (.src .src1)).status, notes t)) = some (.lost, [.headLost (.src .src1) ⟨.n3, .n0⟩]) := by
  decide

/-- RECORD_STALE: a HEALTHY source whose record goes stale is UNKNOWN with cause MEAS (R29, R53). -/
theorem test_record_stale :
    after (.recordStale (.src .src1)) (sound .src1 (onPoint (.src .src1) (measured ⟨.n3, .n0⟩ 2300 50000 0 100) board))
      (fun t => t.squ.srcs.get .src1) = some ⟨.unknown, .meas, none, 0⟩ := by decide

/-- A head read of index 7 of SRC1, outstanding since frame 400, with its request in service. -/
def reading (write : Bool) : State :=
  let s := linked (.src .src1) fresh3
  ({ s with hlc := { s.hlc with slot := some ⟨write, some (.src .src1), ⟨.n3, .n0⟩, 7, 0x55, some 400⟩ } }.awaiting
    (if write then 0x61 else 0x60) 9)

/-- HEAD_READ_COMPLETE answers with the index and the data and frees the slot (R33). -/
theorem test_head_read_complete :
    after (.headReadComplete 0xABCD) (reading false) (fun t => (t.hlc.slot.isNone, answer t))
      = some (true, some (.ok, .headData 7 0xABCD)) := by decide

/-- HEAD_READ_TIMEOUT answers HEAD_TIMEOUT (R33). -/
theorem test_head_read_timeout :
    after .headReadTimeout (reading false) (fun t => (t.hlc.slot.isNone, statusOf t)) = some (true, some .headTimeout) := by
  decide

/-- HEAD_WRITE_POSTED answers OK (R34). -/
theorem test_head_write_posted :
    after .headWritePosted (reading true) (fun t => (t.hlc.slot.isNone, statusOf t)) = some (true, some .ok) := by decide

/-- PICK_EXPIRY at its deadline: HEALTHY, with the notice (R50, R56). -/
theorem test_pick_expiry :
    after (.pickExpiry .src2) (onSrc .src2 ⟨.pickup, .none, some (.pick, 5000), 0⟩ board)
      (fun t => (t.squ.srcs.get .src2, notes t))
      = some (⟨.healthy, .none, none, 5000⟩, [.sourceState .src2 .healthy .pickup .none]) := by decide

/-- DROP_FAST_EXPIRY: DOWN with the cause held (R52). -/
theorem test_drop_fast_expiry :
    after (.dropFastExpiry .src2) (onSrc .src2 ⟨.dropout, .underfreq, some (.drop, 2000), 0⟩ board)
      (fun t => t.squ.srcs.get .src2) = some ⟨.down, .underfreq, none, 2000⟩ := by decide

/-- A channel in CLOSING since tick 0. -/
def closingNow (c : Chan) : State → State :=
  onChan c fun r => { r with
    position := .closing, cmdClosed := true, closeEnd := some 200, op := some ⟨.close, .mdc, 0, 300, false⟩ }

/-- AUX_ACCEPTED confirms a close after 93 ms, and the close time is learned (R84, R76, section 4.6). -/
theorem test_aux_accepted :
    after (.auxAccepted .bk3 true) { closingNow .bk3 board with now := 93 }
      (fun t => let r := t.bcu.get .bk3; (r.position, r.op, r.closeEnd, r.lastM, r.tc))
      = some (.isClosed, none, none, some 93, 83) := by decide

/-- PRT_ACCEPTED locks the channel out, triggers the ALARM for 60 s and posts LOCKOUT (R90, R97). -/
theorem test_prt_accepted :
    after (.prtAccepted .bk3 true) (shut .bk3 board)
      (fun t => ((t.bcu.get .bk3).position, t.mdc.alarm, notes t))
      = some (.locked, some 60000, [.lockout .bk3 .isClosed true]) := by decide

/-- RDY_RCK_ACCEPTED: a channel not ready is not available (R78, R92). -/
theorem test_rdy_rck_accepted :
    after (.rdyRckAccepted .bk3 .rdy false) board (fun t => ((t.bcu.get .bk3).available, (t.bcu.get .bk4).available))
      = some (false, true) := by decide

/-- CLOSE_PULSE_END ends the pulse and leaves the operation (R83). -/
theorem test_close_pulse_end :
    after (.closePulseEnd .bk1) (closingNow .bk1 board)
      (fun t => ((t.bcu.get .bk1).closeEnd, (t.bcu.get .bk1).position, t.now)) = some (none, .closing, 200) := by decide

/-- TRIP_PULSE_END ends the pulse (R83). -/
theorem test_trip_pulse_end :
    after (.tripPulseEnd .bk1) (onChan .bk1 (fun r => { r with tripEnd := some 200 }) board)
      (fun t => ((t.bcu.get .bk1).tripEnd, t.now)) = some (none, 200) := by decide

/-- CLOSE_CONFIRM_DEADLINE: FAULTED with FAIL_TO_CLOSE (R84). -/
theorem test_close_confirm_deadline :
    after (.closeConfirmDeadline .bk1) (closingNow .bk1 board)
      (fun t => ((t.bcu.get .bk1).position, (t.bcu.get .bk1).fault, notes t))
      = some (.faulted, .failToClose, [.breakerFault .bk1 .failToClose .mdc]) := by decide

/-- TRIP_CONFIRM_DEADLINE with AUX still closed: FAULTED with FAIL_TO_OPEN (R85). -/
theorem test_trip_confirm_deadline :
    after (.tripConfirmDeadline .bk1) (onChan .bk1 (fun r => { r with
        position := .opening, tripEnd := some 200, op := some ⟨.trip, .mdc, 0, 150, false⟩ }) (shut .bk1 board))
      (fun t => ((t.bcu.get .bk1).position, (t.bcu.get .bk1).fault, (t.bcu.get .bk1).tripEnd, t.now))
      = some (.faulted, .failToOpen, none, 150) := by decide

/-- Section 1 in AUTO and fed by OWN_A (SRC1 through BK1), with SRC1 and SRC3 sound and OWN_B on the list. -/
def fedBoard (extra : List (Nat × Nat × Nat × Nat)) : State :=
  onSec .sec1 (fun c => { c with state := .fed, feed := some .ownA })
    (auto .sec1 (shut .bk1 (sound .src1 (sound .src3
      (boardOn (itemsWith ([(1, 3, 1, 1), (3, 1, 1, 1), (3, 1, 2, 2), (3, 1, 3, 0)] ++ extra)))))))

/-- The fed board with section 1 fed by OWN_B and its return to OWN_A due at tick 700. -/
def returningBoard (method : Nat) : State :=
  onSec .sec1 (fun c => { c with state := .returnWait, feed := some .ownB, tReturn := some 700 })
    (auto .sec1 (shut .bk3 (sound .src1 (sound .src3
      (boardOn (itemsWith [(1, 3, 1, 1), (3, 1, 1, 1), (3, 1, 2, 2), (3, 1, 3, 0), (3, 1, 13, method)]))))))

/-- T_RETURN_EXPIRY, an open return: BK3 is tripped and the section is OPENING towards OWN_A (R111, R122). -/
theorem test_t_return_expiry :
    after (.tReturnExpiry .sec1) (returningBoard 0)
      (fun t => ((t.ctx .sec1).state, (t.ctx .sec1).target, (t.bcu.get .bk3).position, (t.bcu.get .bk3).tripEnd))
      = some (.opening, some ⟨.sec1, .ownA⟩, .opening, some 900) := by decide

/-- Section 1 in a state of a transfer from OWN_A to OWN_B. -/
def transferring (st : SeqState) (extra : List (Nat × Nat × Nat × Nat)) (f : SecCtx → SecCtx) : State :=
  onSec .sec1 (fun c => f { c with
    state := st, origin := some ⟨.sec1, .ownA⟩, target := some ⟨.sec1, .ownB⟩ }) (fedBoard extra)

/-- T_SYNC_WAIT_EXPIRY without fallback: back to FED with SYNC_TIMEOUT (R124). -/
theorem test_t_sync_wait_expiry :
    after (.tSyncWaitExpiry .sec1)
      (transferring .sync [(3, 1, 17, 0), (3, 1, 11, 0)] fun c => { c with closedTrans := true, tSyncWait := some 9 })
      (fun t => ((t.ctx .sec1).state, (t.ctx .sec1).target, notes t))
      = some (.fed, none, [.syncTimeout .sec1 (some ⟨.sec1, .ownB⟩) none]) := by decide

/-- The transfer of the board once BK1 has opened. -/
def openBoard (extra : List (Nat × Nat × Nat × Nat)) (f : SecCtx → SecCtx) : State :=
  onChan .bk1 (fun r => { r with aux := .first false, position := .isOpen, cmdClosed := false })
    (transferring .decay extra f)

/-- T_DECAY_MAX_EXPIRY without close_on_timeout: HALTED with DECAY_TIMEOUT (R117). -/
theorem test_t_decay_max_expiry :
    after (.tDecayMaxExpiry .sec1) (openBoard [(3, 1, 10, 0)] fun c => { c with tDecayMax := some 3000 })
      (fun t => ((t.ctx .sec1).state, (t.ctx .sec1).haltCause, t.now)) = some (.halted, .decayTimeout, 3000) := by decide

/-- T_DEAD_EXPIRY under TIMED: BK3 is closed with method TIMED (R116). -/
theorem test_t_dead_expiry :
    after (.tDeadExpiry .sec1) (openBoard [(3, 1, 4, 2)] fun c => { c with tDead := some 1000, tDecayMax := some 3000 })
      (fun t => ((t.ctx .sec1).state, (t.ctx .sec1).method, (t.bcu.get .bk3).position, (t.bcu.get .bk3).closeEnd))
      = some (.closing, .timed, .closing, some 1200) := by decide

/-- T_OVERLAP_EXPIRY: the target's breaker is tripped again and the section is HALTED with OVERLAP_FAIL (R126). -/
theorem test_t_overlap_expiry :
    after (.tOverlapExpiry .sec1) (shut .bk3 (transferring .overlap [] fun c => { c with
        closedTrans := true, outgoing := some .ownA, tOverlap := some 100 }))
      (fun t => ((t.ctx .sec1).state, (t.ctx .sec1).haltCause, (t.bcu.get .bk3).position))
      = some (.halted, .overlapFail, .opening) := by decide

/-- SETTLE_EXPIRY: the timer is idle (R177). -/
theorem test_settle_expiry :
    after (.settleExpiry .sec2) { board with mdc := { board.mdc with settle := ⟨none, some 10000⟩ } }
      (fun t => (t.mdc.settle.get .sec2, t.now)) = some (none, 10000) := by decide

/-- BLKN_ACCEPTED: the block stops a running close pulse (R80, R169). -/
theorem test_blkn_accepted :
    after (.blknAccepted true) (closingNow .bk1 board) (fun t => (t.blocked, (t.bcu.get .bk1).closeEnd))
      = some (true, none) := by decide

/-- The worked feeders of section 8.8 on BUS1, with SRC3 a source of 900 kW, F03 to F06 as given shed, demand of F02. -/
def shedBoard (f02 : Nat) (shed : List Feeder) (i : IslandRec) : State :=
  let feeder (n cls d surge : Nat) : List (Nat × Nat × Nat × Nat) := [(5, n, 1, 1), (5, n, 2, cls), (5, n, 3, d), (5, n, 4, surge)]
  let s := shut .bk3 (boardOn (itemsWith ([(1, 3, 1, 2), (1, 3, 15, 1000), (1, 3, 16, 90)] ++ feeder 1 1 300 10 ++
    feeder 2 2 250 10 ++ feeder 3 3 200 10 ++ feeder 4 5 180 15 ++ feeder 5 6 150 10 ++ feeder 6 8 120 10)))
  let t : State := { s with lmg := { s.lmg with
    feeders := feedersFrom s.plan, shedStack := ⟨shed, []⟩, islands := .apart i ⟨.dead, none, none, none, false, none⟩ } }
  let u : State := { t with lmg := { t.lmg with
    feeders := t.lmg.feeders.set 1 { t.feeder 1 with demand := f02 } } }
  shed.foldl (fun (a : State) (f : Feeder) => { a with lmg := { a.lmg with
    feeders := a.lmg.feeders.set f { a.feeder f with shed := true }, lines := a.lmg.lines.set f true } }) u

/-- The island of BUS1 fed from SRC3 with its restore timer at a tick. -/
def fedIsland (restore overload : Option Nat) : IslandRec := ⟨.fed, some .src3, restore, overload, false, none⟩

/-- Section 8.8: the pass at the announcement sheds F06, F05 and F04, and stops at 750. -/
theorem test_worked_shed :
    let t := shedPass [.sec1] 900 .src3 .target (shedBoard 250 [] (fedIsland none none))
    (t.lmg.shedStack.get .sec1, t.sumOf [.sec1], t.lmg.lines.toList.filter id |>.length) = ([5, 4, 3], 750, 3) := by
  decide

/-- Section 8.8 at 60,653: F04 needs 270 and is blocked; at 70,653 with F02 at 100 it is restored. -/
theorem test_restore_timer_expiry :
    let stack : List Feeder := [5, 4, 3]
    after (.restoreTimerExpiry .bus1) (shedBoard 250 stack (fedIsland (some 60653) none))
      (fun t => (t.lmg.shedStack.get .sec1, notes t)) = some (stack, [.restoreBlocked 3 .sec1 270 750 900]) ∧
    after (.restoreTimerExpiry .bus1) (shedBoard 100 stack (fedIsland (some 70653) none))
      (fun t => (t.lmg.shedStack.get .sec1, t.sumOf [.sec1])) = some ([5, 4], 780) := by decide

/-- OVERLOAD_TIMER_EXPIRY: the pass sheds from the highest class until the sum is within 900 (R151, R155). -/
theorem test_overload_timer_expiry :
    after (.overloadTimerExpiry .bus1) (shedBoard 250 [] (fedIsland none (some 5000)))
      (fun t => (t.lmg.shedStack.get .sec1, (t.island .bus1).map (·.overloadAt))) = some ([5, 4, 3], some none) := by decide

/-- A generator's run record set. -/
def running (x : Src) (r : RunRec) (s : State) : State := { s with mdc := { s.mdc with runs := s.mdc.runs.set x r } }

/-- COOL_DOWN_EXPIRY: the generator is OFF (R172). -/
theorem test_cool_down_expiry :
    after (.coolDownExpiry .src3) (running .src3 ⟨.cool, some 300, none, 0, false, false⟩ board)
      (fun t => ((t.mdc.runs.get .src3).state, t.runLine .src3)) = some (.off, false) := by decide

/-- START_TIMER_EXPIRY: GEN_START_FAIL is posted and the line stays (R173). -/
theorem test_start_timer_expiry :
    after (.startTimerExpiry .src3) (running .src3 ⟨.run, none, some 300, 30, false, true⟩ board)
      (fun t => (notes t, t.runLine .src3)) = some ([.genStartFail .src3 30 .absent .none], true) := by decide

/-- ALARM_END: the one-shot ends (R97). -/
theorem test_alarm_end :
    after .alarmEnd { board with mdc := { board.mdc with alarm := some 60000 } } (fun t => (t.alarmLine, t.now))
      = some (false, 60000) := by decide

/-- A board whose receiver has taken the bytes after SYNC. -/
def hearing (l : List Byte) : State := { board with spt := { board.spt with rx := .receiving l, rxGap := some 5 } }

/-- FRAME_RECEIVED of a frame whose CRC does not match: nothing is answered, and the receiver hunts (R180). -/
theorem test_frame_received :
    after (.frameReceived 0) (hearing [0, 1, 7, 0]) (fun t => (t.spt.rx, t.spt.service.isNone)) = some (.hunting, true) := by
  decide

/-- FRAME_BYTE_TIMEOUT: the receiver hunts (R180). -/
theorem test_frame_byte_timeout :
    after .frameByteTimeout (hearing [0, 1]) (fun t => (t.spt.rx, t.now)) = some (.hunting, 5) := by decide

/-- LINE_BYTE_RECEIVED: a LEN of 251 sends the receiver back to hunting, one of 250 does not (R180). -/
theorem test_line_byte_received :
    after (.lineByteReceived 251 true) (hearing []) (fun t => t.spt.rx) = some .hunting ∧
    after (.lineByteReceived 250 true) (hearing []) (fun t => t.spt.rx) = some (.receiving [250]) := by decide

/-- REPLY_START asserts HM_DE, and REPLY_SENT ends it (R179, R181). -/
theorem test_reply_start_and_sent :
    after .replyStart (board.replied 1 7 .ok .identity) (fun t => t.driverEnable) = some true ∧
    after .replySent { board with spt := { board.spt with hmDe := true, service := some ⟨1, 7, .sending ⟨.ok, .identity⟩⟩ } }
      (fun t => (t.driverEnable, t.spt.service.isNone)) = some (false, true) := by decide

theorem test_ping : after (.ping 7) board answer = some (some (.ok, .identity)) := by decide

/-- STATUS_GET on a board after power-up: no page is active and both sections are in MANUAL (R187). -/
theorem test_status_get :
    after (.statusGet 7) board (fun t => match answer t with
      | some (.ok, .status a) => some (a.ended, a.modes.get .sec2, a.active, a.edit)
      | _ => none) = some (some (true, .manual, none, .p0)) := by decide

/-- NOTICE_GET with an empty queue (R191). -/
theorem test_notice_get :
    after (.noticeGet 7) board answer = some (some (.ok, .notice none 0 false)) := by decide

/-- POINT_GET of an unbound source point (R189). -/
theorem test_point_get :
    after (.pointGet 7 4) board (fun t => match answer t with
      | some (.ok, .point a) => some (a.record.status, a.valid, a.discovered)
      | _ => none) = some (some (.absent, false, none)) := by decide

/-- PAIR_GET of a pair that has no result yet (R72). -/
theorem test_pair_get_last :
    after (.pairGetLast 7 3 5 0) board answer = some (some (.ok, .pair none false false)) := by decide

/-- PAIR_GET NEW at frame 1005 of the worked example: Δp = +202 and the permit, kept (section 4.6). -/
theorem test_pair_get_new :
    let s := workedBoard 1003 1420 1000 1200 49600 1720
    after (.pairGetNew 7 3 5 0) { s with hlc := { s.hlc with lastEnded := some 1005 } }
      (fun t => (t.kept (.incomer .src3)).map fun r => (r.permit, r.angleSlip)) = some (some (true, some (202, 400))) := by
  decide

/-- BREAKER_GET of the tie (R93). -/
theorem test_breaker_get :
    after (.breakerGet 7 5) board (fun t => match answer t with
      | some (.ok, .breaker a) => some (a.record.position, a.available, a.closeLeft)
      | _ => none) = some (some (.isOpen, true, 0)) := by decide

/-- BREAKER_OPERATE, a close: the pulse of 200 ms and the deadline of 300 ms (R81). -/
theorem test_breaker_operate_close :
    after (.breakerOperateClose 7 2) board
      (fun t => let r := t.bcu.get .bk2; (r.position, r.closeEnd, r.op.map (·.deadline), answer t))
      = some (.closing, some 200, some 300, some (.ok, .position .closing)) := by decide

/-- BREAKER_OPERATE, a trip during the close pulse: the close pulse ends at once (R80, R82). -/
theorem test_breaker_operate_trip :
    after (.breakerOperateTrip 7 1) (closingNow .bk1 board)
      (fun t => let r := t.bcu.get .bk1; (r.position, r.closeEnd, r.tripEnd, r.op.map (·.deadline)))
      = some (.opening, none, some 200, some 150) := by decide

/-- BREAKER_OPERATE, a stop: the pulse ends and the operation goes on (R83). -/
theorem test_breaker_operate_stop :
    after (.breakerOperateStop 7 1) (closingNow .bk1 board)
      (fun t => let r := t.bcu.get .bk1; (r.position, r.closeEnd, r.op.isSome)) = some (.closing, none, true) := by decide

/-- CHANNEL_CLEAR of a LOCKED channel whose PRT is released (R91). -/
theorem test_channel_clear :
    after (.channelClear 7 1) (onChan .bk1 (fun r => { r with position := .locked }) board)
      (fun t => ((t.bcu.get .bk1).position, statusOf t)) = some (.isOpen, some .ok) := by decide

/-- SECTION_GET of a section that is fed (R188). -/
theorem test_section_get :
    after (.sectionGet 7 1) (fedBoard []) (fun t => match answer t with
      | some (.ok, .sectionView a) => some (a.ctx.state, a.ctx.feed, a.mode)
      | _ => none) = some (some (.fed, some .ownA, .auto)) := by decide

/-- MODE_SET to MANUAL drops a transfer in DECAY to WAIT_SOURCE (R164). -/
theorem test_mode_set_manual :
    after (.modeSetManual 7 1) (openBoard [] fun c => { c with tDecayMax := some 3000 })
      (fun t => (t.mode .sec1, (t.ctx .sec1).state, (t.ctx .sec1).tDecayMax)) = some (.manual, .waitSource, none) := by
  decide

/-- MODE_SET to AUTO is refused NO_PLAN while no page is active (R163). -/
theorem test_mode_set_auto :
    after (.modeSetAuto 7 1) board (fun t => (t.mode .sec1, statusOf t)) = some (.manual, some .noPlan) := by decide

/-- BLOCK_SET: the host flag is set and the board BLOCKED (R168). -/
theorem test_block_set :
    after (.blockSet 7 1) board (fun t => (t.mdc.hostBlock, t.blocked)) = some (true, true) := by decide

/-- TRANSFER_REQUEST to OWN_B, an open transfer: BK1 is tripped and the section is OPENING (R109, R111). -/
theorem test_transfer_request :
    after (.transferRequest 7 1 2) (fedBoard [])
      (fun t => ((t.ctx .sec1).state, (t.ctx .sec1).target, (t.bcu.get .bk1).position, statusOf t))
      = some (.opening, some ⟨.sec1, .ownB⟩, .opening, some .ok) := by decide

/-- RESUME from HALTED with no source path: WAIT_SOURCE (R125). -/
theorem test_resume :
    after (.resume 7 1) (onSec .sec1 (fun c => { c with state := .halted, haltCause := .decayTimeout }) board)
      (fun t => ((t.ctx .sec1).state, (t.ctx .sec1).haltCause, statusOf t)) = some (.waitSource, .none, some .ok) := by
  decide

/-- FEEDER_GET of F04 of the worked load, SHED on top of its stack (R162). -/
theorem test_feeder_get :
    after (.feederGet 7 4) (shedBoard 250 [5, 4, 3] (fedIsland none none)) (fun t => match answer t with
      | some (.ok, .feeder a) => some (a.cls, a.demand, a.surge, a.shed, a.line)
      | _ => none) = some (some (5, 180, 15, true, true)) := by decide

/-- FEEDER_DEMAND_SET above the range is held at 5000 (R145). -/
theorem test_feeder_demand_set :
    after (.feederDemandSet 7 24 6000) board (fun t => ((t.feeder 23).demand, answer t))
      = some (5000, some (.ok, .demand 5000)) := by decide

/-- PLAN_SELECT (R13). -/
theorem test_plan_select : after (.planSelect 7 3) board (fun t => t.pst.edit) = some .p3 := by decide

/-- PLAN_READ of t_gen_start of SRC1: 30 s by default (R13, section 1.3). -/
theorem test_plan_read :
    after (.planRead 7 1 1 17) board answer = some (some (.ok, .item 30 .p0 .blank false)) := by decide

/-- PLAN_WRITE: f_nom takes 60000 and not 55000, though 55000 lies between its two values (R12, R14). -/
theorem test_plan_write :
    after (.planWrite 7 1 1 3 60000) board (fun t => ((t.pst.pages.get .p0).items.src .src1 .fNom, statusOf t))
      = some (60000, some .ok) ∧
    after (.planWrite 7 1 1 3 55000) board (fun t => ((t.pst.pages.get .p0).items.src .src1 .fNom, statusOf t))
      = some (50000, some .badArgument) := by decide

/-- PLAN_COPY onto the active page is refused (R15). -/
theorem test_plan_copy :
    after (.planCopy 7 1 2) (boardOn workedItems) (fun t => ((t.pst.pages.get .p2).status, (t.pst.pages.get .p2).saved))
      = some (.valid, false) ∧
    after (.planCopy 7 2 1) (boardOn workedItems) statusOf = some (some .pageActive) := by decide

/-- PLAN_CHECK of an EMPTY page, which holds the default set (R10, R16). -/
theorem test_plan_check :
    after (.planCheck 7 2) board (fun t => ((t.pst.pages.get .p2).status, statusOf t)) = some (.valid, some .ok) := by decide

/-- PLAN_ACTIVATE of a page that is not VALID (R17). -/
theorem test_plan_activate :
    after (.planActivate 7 2) board statusOf = some (some .pageNotValid) := by decide

/-- PLAN_SAVE queues the write and answers nothing yet (R20). -/
theorem test_plan_save :
    after (.planSave 7 2) board (fun t => (t.pst.writes, answer t)) = some ([.page .p2], none) := by decide

/-- HEAD_READ of index 31 answers at once with the last input word (R35). -/
theorem test_head_read :
    after (.headRead 7 1 31) (linked (.src .src1) { fresh3 with input := 0x1234 }) answer
      = some (some (.ok, .headData 31 0x1234)) := by decide

/-- HEAD_WRITE of index 30 sets the output word of the head's address (R35, R36). -/
theorem test_head_write :
    after (.headWrite 7 1 30 0x77) (linked (.src .src1) fresh3)
      (fun t => (t.hlc.words.get .n3, t.hlc.slot.map (·.index))) = some (⟨0x77, true⟩, some 30) := by decide

/-- LINK_RESTART: HL_RSTn is low for 1 ms and every point is unbound (R37). -/
theorem test_link_restart :
    after (.linkRestart 7) (linked (.src .src1) fresh3)
      (fun t => (t.hlc.rstEnd, t.hlc.rstLow, (t.hlc.points.get (.src .src1)).bound)) = some (some 1, true, none) := by decide

/-- HEADS_BIND during a link start is refused (R41). -/
theorem test_heads_bind : after (.headsBind 7) board statusOf = some (some .busy) := by decide

/-- OUTPUT_SET of AN2 in LEVEL use (R96). -/
theorem test_output_set :
    after (.outputSet 7 2 1) board (fun t => (t.mdc.latches, t.anLine 1, t.anLine 0)) = some (2, true, false) := by decide

/-- ALARM_SILENCE (R98). -/
theorem test_alarm_silence :
    after (.alarmSilence 7) { board with mdc := { board.mdc with alarm := some 900 } } (fun t => t.alarmLine)
      = some false := by decide

/-- GEN_TEST of a generator runs it, and of a utility is refused (R173). -/
theorem test_gen_test :
    after (.genTest 7 3 1) (boardOn (itemsWith [(1, 3, 1, 2)])) (fun t => (t.runLine .src3, statusOf t))
      = some (true, some .ok) ∧
    after (.genTest 7 1 1) board statusOf = some (some .notAvailable) := by decide

/-! ### Witnesses: states and operands that meet the hypotheses of each statement -/

/-- Every predicate of two sections holds when it holds of each. -/
theorem bothSecs {P : Sec → Prop} (h : P .sec1 ∧ P .sec2) : ∀ n, P n := fun n => by cases n; exacts [h.1, h.2]

/-- Every predicate of sources holds when it holds of each. -/
theorem fourSrcs {P : Src → Prop} (h : P .src1 ∧ P .src2 ∧ P .src3 ∧ P .src4) : ∀ x, P x :=
  fun x => by cases x; exacts [h.1, h.2.1, h.2.2.1, h.2.2.2]

/-- Every predicate of channels holds when it holds of each. -/
theorem fiveChans {P : Chan → Prop} (h : P .bk1 ∧ P .bk2 ∧ P .bk3 ∧ P .bk4 ∧ P .bkt) : ∀ c, P c :=
  fun c => by cases c; exacts [h.1, h.2.1, h.2.2.1, h.2.2.2.1, h.2.2.2.2]

/-- Every predicate of pages holds when it holds of each. -/
theorem fourPages {P : PageNo → Prop} (h : P .p0 ∧ P .p1 ∧ P .p2 ∧ P .p3) : ∀ p, P p :=
  fun p => by cases p; exacts [h.1, h.2.1, h.2.2.1, h.2.2.2]

theorem calm_of {s : State} (h : s.inReset = false ∧ s.agenda = []) : s.Calm := h

theorem ready_of {s : State} (h : s.inReset = false ∧ s.agenda = [] ∧ s.loaded = true ∧ s.spt.service = none) :
    s.Ready := ⟨⟨h.1, h.2.1⟩, h.2.2⟩

theorem manual_of {s : State} (h : s.mode .sec1 = .manual ∧ s.mode .sec2 = .manual) : s.BothManual := bothSecs h

theorem utilities_of {s : State} (h : s.plan.kind .src1 ≠ .generator ∧ s.plan.kind .src2 ≠ .generator ∧
    s.plan.kind .src3 ≠ .generator ∧ s.plan.kind .src4 ≠ .generator) : s.NoGenerator := fourSrcs h

theorem ready_board : board.Ready := ready_of (by decide)

theorem still_board : board.Still :=
  ⟨calm_of (by decide), manual_of (by decide), utilities_of (by decide), by decide⟩

/-- The board in reset; an event due at the present tick; and a quiet board. -/
theorem witness_IdleStep :
    ({ board with inReset := true } : State).pending = [] ∧
    (({ closingNow .bk1 board with now := 200 } : State).pending = [] ∧
      ({ closingNow .bk1 board with now := 200 } : State).inReset = false ∧
      ({ closingNow .bk1 board with now := 200 } : State).due = [.closePulseEnd .bk1]) ∧
    (board.pending = [] ∧ board.inReset = false ∧ board.due = []) := by decide

/-- A queue of exactly 32 notices, and a step on it. -/
theorem witness_StepKeepsQueueBounded :
    let s : State := { board with spt := { board.spt with queue := List.replicate 32 ⟨.mapMismatch ⟨.all false, .all false⟩ false false false, 0⟩ } }
    s.QueueBounded ∧ s.spt.queue.length = 32 ∧ ∃ t, step s = .next t :=
  ⟨by unfold State.QueueBounded; decide, by decide, _, rfl⟩

/-- A close pulse running, not BLOCKED, and a step on it. -/
theorem witness_StepKeepsCoilsSafe : (closingNow .bk1 board).CoilsSafe ∧ ∃ t, step (closingNow .bk1 board) = .next t :=
  ⟨fiveChans (by decide), _, rfl⟩

/-- A channel in CLOSING with its operation, the others OPEN. -/
theorem witness_StepKeepsChansSound :
    (closingNow .bk1 board).ChansSound ∧ ∃ t, step (closingNow .bk1 board) = .next t :=
  ⟨fiveChans ⟨⟨rfl, _, rfl, rfl⟩, ⟨rfl, rfl⟩, ⟨rfl, rfl⟩, ⟨rfl, rfl⟩, ⟨rfl, rfl⟩⟩, _, rfl⟩

/-- An active page and a pending page, both VALID. -/
theorem witness_StepKeepsPagesInUseValid : pendingBoard.PagesInUseValid ∧ ∃ t, step pendingBoard = .next t :=
  ⟨fourPages (by decide), _, rfl⟩

/-- The worked load with three feeders SHED. -/
theorem witness_StepKeepsShedRecords :
    (shedBoard 250 [5, 4, 3] (fedIsland none none)).StacksRight ∧
    (shedBoard 250 [5, 4, 3] (fedIsland none none)).LinesFollow ∧
    ∃ t, step (shedBoard 250 [5, 4, 3] (fedIsland none none)) = .next t :=
  ⟨bothSecs ⟨by unfold State.StackRight; decide, by unfold State.StackRight; decide⟩,
    fun _ _ => by decide, _, rfl⟩

/-- BK1 and BKT closed: section 1 supplies the island, section 2 depends on it and owns the tie; both in AUTO. -/
def tied : State :=
  let s := auto .sec2 (shut .bkt (fedBoard [(3, 1, 11, 0), (3, 2, 11, 0), (1, 4, 1, 1), (3, 2, 1, 1), (3, 2, 2, 2), (3, 2, 3, 0)]))
  { onSec .sec1 (fun c => { c with role := .supplying })
      (onSec .sec2 (fun c => { c with state := .fed, feed := some .tie, role := .dependent }) s) with owner := some .sec2 }

/-- SEQ1 owns the tie while its close of BKT is in flight; and the tie closed with one path. -/
theorem witness_StepKeepsTieLaws :
    let s : State := { onChan .bkt (fun r => { r with
      position := .closing, closeEnd := some 200, op := some ⟨.close, .seq .sec1, 0, 300, false⟩ }) board with
      owner := some .sec1 }
    (s.ChansSound ∧ s.UnadoptedRests ∧ s.OwnerLaw ∧ s.TieRoles ∧ s.owner = some .sec1 ∧ ∃ t, step s = .next t) ∧
    (tied.ChansSound ∧ tied.UnadoptedRests ∧ tied.OwnerLaw ∧ tied.TieRoles ∧ ∃ t, step tied = .next t) :=
  ⟨⟨fiveChans ⟨⟨rfl, rfl⟩, ⟨rfl, rfl⟩, ⟨rfl, rfl⟩, ⟨rfl, rfl⟩, ⟨rfl, _, rfl, rfl⟩⟩, fun h => (by cases h),
    fun _ n h => (by cases h; exact ⟨_, rfl, rfl, rfl⟩), fun _ => ⟨fun _ => bothSecs ⟨rfl, rfl⟩, fun _ h => (by cases h)⟩,
    rfl, _, rfl⟩,
   fiveChans ⟨⟨rfl, rfl⟩, ⟨rfl, rfl⟩, ⟨rfl, rfl⟩, ⟨rfl, rfl⟩, ⟨rfl, rfl⟩⟩, fun h => (by cases h),
    fun h => (by cases h), fun _ => ⟨fun h => (by cases h), fun x _ h => (by
      have e : tied.closedPaths allSecs = [.src1] := by decide
      rw [e] at h; cases h; decide)⟩, _, rfl⟩

/-- The first and the last place of a page have an address; section, source and entry codes have a byte. -/
theorem witness_CodesNameOneThing :
    (itemAt 1 1 1).map (·.1) = some 0 ∧ (itemAt 6 0 8).map (·.1) = some 251 ∧ secOf 2 = some .sec2 ∧ srcOf 4 = some .src4 ∧
    entryOfCode 3 = some .tie := by decide

theorem witness_FrameIsItsCommand :
    (Instr.planWrite 7 1 1 12 600).request = some (7, .planWrite 1 1 12 600) ∧
    board.inReset = false ∧ board.spt.hmDe = false ∧ board.spt.rx = .hunting := by decide

/-- The default set passes, has a present source and a TIE on its lists; a nominal summary is inside the pickup band. -/
theorem witness_PlanCheckFinds :
    planCheck defaultItems = none ∧ defaultItems.kind .src1 ≠ .absent ∧ Entry.tie ∈ defaultItems.prefs .sec1 ∧
    defaultItems.causeIn .src1 (defaultItems.pickupBand .src1) ⟨2070, 2300, 2530, 49000, 0, false, 0⟩ = .none := by decide

/-- The worked board gives an available result with the permit; with one arrival frame for both points too; an unbound
point gives none. -/
theorem witness_CoincidenceResult :
    (worked (workedBoard 1003 1420 1000 1200 49600 1720) 1005).isSome = true ∧
    (worked (workedBoard 1003 1420 1003 1200 49600 1720) 1203).isSome = true ∧
    (board.coincidence (.incomer .src1) .openItems .sec1 0).formed = .notAvailable .invalid := by decide

theorem witness_ReadsAnswer :
    board.Ready ∧ board.adopted = true ∧ (itemAt 1 1 1).isSome = true ∧ (itemAt 6 0 8).isSome = true :=
  ⟨ready_board, by decide⟩

/-- PING's two hypotheses hold right after reset, before the store is loaded, and on a board. -/
theorem witness_PingAnswers :
    (State.reset.inReset = false ∧ State.reset.spt.service = none) ∧ board.inReset = false ∧ board.spt.service = none := by
  decide

theorem witness_ReadsAnswer_takes :
    board.Ready ∧ pairOf 1 5 = some (.incomer .src1) ∧ pairOf 6 5 = some (.tieTo .sec1) ∧ itemSetOf 1 = some .closedItems ∧
    board.spt.queue = [] ∧
    (post (.headLost (.src .src1) ⟨.n0, .n0⟩) board).Ready ∧
    (post (.headLost (.src .src1) ⟨.n0, .n0⟩) board).spt.queue = [⟨.headLost (.src .src1) ⟨.n0, .n0⟩, 0⟩] :=
  ⟨ready_board, by decide, by decide, by decide, by decide, ready_of (by decide), by decide⟩

/-- The board with PAGE1 active and selected for editing. -/
def editingActive : State :=
  { boardOn defaultItems with pst := { (boardOn defaultItems).pst with edit := .p1 } }

/-- A refused address; the active page; a value just above its range; one at its end. -/
theorem witness_PlanWriteStores :
    board.Ready ∧ itemAt 1 1 19 = none ∧ itemAt 1 1 12 = some (11, ⟨100, 600000, 5000⟩) ∧
    (editingActive.Ready ∧ editingActive.pst.active = some editingActive.pst.edit) ∧
    (board.pst.active ≠ some board.pst.edit ∧ board.pst.pendingPage ≠ some board.pst.edit) ∧
    itemInRange 1 12 ⟨100, 600000, 5000⟩ 600001 = false ∧ itemInRange 1 12 ⟨100, 600000, 5000⟩ 600000 = true :=
  ⟨ready_board, by decide, by decide, ⟨ready_of (by decide), by decide⟩, by decide, by decide, by decide⟩

/-- A page number just above the list; the active page as destination; a free destination. -/
theorem witness_PlanCopyCopies :
    board.Ready ∧ 3 < (4 : Byte).toNat ∧ (boardOn workedItems).Ready ∧ (boardOn workedItems).pst.active = some .p1 ∧
    (PageNo.p2 ≠ .p1 ∧ (boardOn workedItems).pst.active ≠ some .p2 ∧ (boardOn workedItems).pst.pendingPage ≠ some .p2) :=
  ⟨ready_board, by decide, ready_of (by decide), by decide, by decide⟩

/-- A page whose low pickup threshold lies below its low dropout threshold fails. -/
def badPage : State :=
  { board with pst := { board.pst with
    pages := board.pst.pages.set .p2 ⟨itemsWith [(1, 1, 5, 849)], .draft, false⟩ } }

theorem witness_PlanChecksAndWaits_checks :
    (boardOn workedItems).Ready ∧ ((boardOn workedItems).pst.pages.get .p1).status = .valid ∧
    (board.pst.pages.get .p2).status ≠ .valid ∧ planCheck (board.pst.pages.get .p2).items = none ∧
    badPage.Ready ∧ (badPage.pst.pages.get .p2).status ≠ .valid ∧
    (planCheck (badPage.pst.pages.get .p2).items).isSome = true :=
  ⟨ready_of (by decide), by decide, by decide, by decide, ready_of (by decide), by decide, by decide⟩

/-- Not valid; the active page; the pending page; and a valid page while SEQ1 is not at rest. -/
theorem witness_PlanChecksAndWaits_waits :
    pendingBoard.Ready ∧ pendingBoard.adopted = true ∧ (pendingBoard.pst.pages.get .p3).status ≠ .valid ∧
    ((pendingBoard.pst.pages.get .p1).status = .valid ∧ pendingBoard.pst.active = some .p1) ∧
    ((pendingBoard.pst.pages.get .p2).status = .valid ∧ pendingBoard.pst.active ≠ some .p2 ∧
      pendingBoard.pst.pendingPage = some .p2) ∧
    (let s := onSec .sec1 (fun c => { c with state := .decay }) { pendingBoard with pst := { pendingBoard.pst with pendingPage := none } }
     s.Ready ∧ s.adopted = true ∧ (s.pst.pages.get .p2).status = .valid ∧ s.pst.active ≠ some .p2 ∧
      s.pst.pendingPage ≠ some .p2 ∧ s.bothAtRest = false) :=
  ⟨ready_of (by decide), by decide, by decide, by decide, by decide, ready_of (by decide), by decide⟩

theorem witness_ActivationTakesEffect :
    pendingBoard.BothManual ∧ pendingBoard.bothAtRest = true ∧ pendingBoard.adopted = true ∧ pendingBoard.Calm ∧
    pendingBoard.pst.pendingPage = some .p2 ∧
    (let s : State := { pendingBoard with pst := { pendingBoard.pst with pendingPage := none } }
     s.BothManual ∧ s.bothAtRest = true ∧ s.adopted = true ∧ s.Ready ∧ (s.pst.pages.get .p2).status = .valid ∧
      s.pst.active ≠ some .p2 ∧ s.pst.pendingPage ≠ some .p2) ∧
    ((pendingBoard.pst.pages.get .p2).items.kind .src3 = .absent ∧
      (pendingBoard.pst.pages.get .p2).items.kind .src1 ≠ .absent ∧ pendingBoard.plan.kind .src1 ≠ .absent) :=
  ⟨manual_of (by decide), by decide, by decide, calm_of (by decide), by decide,
    ⟨manual_of (by decide), by decide, by decide, ready_of (by decide), by decide⟩, by decide⟩

theorem witness_RunRequestsMoveRecords :
    (boardOn (itemsWith [(1, 3, 1, 2)])).adopted = true ∧
    (boardOn (itemsWith [(1, 3, 1, 2)])).plan.kind .src3 = .generator := by decide

theorem witness_PagesAreSaved :
    board.Ready ∧
    (((writing [.page .p2]).awaiting 0x56 9).inReset = false ∧
      ((writing [.page .p2]).awaiting 0x56 9).pst.writes = [.page .p2] ∧
      ((writing [.page .p2]).awaiting 0x56 9).spt.service = some ⟨0x56, 9, .deferred⟩) ∧
    ((writing [.pointer .p3, .page .p0]).inReset = false ∧
      (writing [.pointer .p3, .page .p0]).pst.writes = StoreWrite.pointer .p3 :: [.page .p0]) ∧
    (((writing [.linkMap (.all none)]).awaiting 0x63 9).pst.writes = [.linkMap (.all none)] ∧
      ((writing [.linkMap (.all none)]).awaiting 0x63 9).spt.service = some ⟨0x63, 9, .deferred⟩) :=
  ⟨ready_board, by decide, by decide, by decide⟩

theorem witness_HeadCommandsServed :
    (board.Ready ∧ board.hlc.link = .starting) ∧
    ((linked (.src .src2) fresh3).Ready ∧ (linked (.src .src2) fresh3).hlc.link ≠ .starting ∧
      ((linked (.src .src2) fresh3).hlc.points.get (.src .src1)).bound = none ∧
      ((linked (.src .src2) fresh3).hlc.points.get (.src .src2)).bound = some ⟨.n3, .n0⟩) ∧
    ((reading false).inReset = false ∧ (∃ c, (reading false).hlc.slot = some c ∧ c.sentIn.isSome = true ∧
      c.write = false ∧ c.point.isSome = true) ∧ (reading false).spt.service = some ⟨0x60, 9, .deferred⟩) ∧
    ((∃ c, (reading true).hlc.slot = some c ∧ c.sentIn.isSome = true ∧ c.write = true) ∧
      (reading true).spt.service = some ⟨0x61, 9, .deferred⟩) :=
  ⟨⟨ready_board, by decide⟩, ⟨ready_of (by decide), by decide⟩, ⟨by decide, ⟨_, rfl, by decide⟩, by decide⟩,
    ⟨⟨_, rfl, by decide⟩, by decide⟩⟩

theorem witness_LinkRequestsServed_restart :
    board.Ready ∧ board.hlc.link = .starting ∧ (linked (.src .src1) fresh3).Ready ∧
    (linked (.src .src1) fresh3).hlc.link ≠ .starting :=
  ⟨ready_board, by decide, ready_of (by decide), by decide⟩

/-- Two heads answer for one point: the discovered map has a conflict (R39). -/
def conflicted : State :=
  let s := linked (.src .src1) fresh3
  { s with hlc := { s.hlc with heads :=
    ⟨.answered [⟨.n0, 0x0101⟩], .answered [⟨.n1, 0x0101⟩], .silent, .silent, .silent, .silent⟩ } }

theorem witness_LinkRequestsServed_bind :
    (board.Ready ∧ board.BothManual ∧ board.pst.pendingPage = none ∧ board.hlc.link = .starting) ∧
    (conflicted.Ready ∧ conflicted.BothManual ∧ conflicted.pst.pendingPage = none ∧ conflicted.hlc.link ≠ .starting ∧
      (conflicted.hlc.duplicate || conflicted.hlc.lineConflict) = true) ∧
    (let s := linked (.src .src1) fresh3
     s.Ready ∧ s.BothManual ∧ s.pst.pendingPage = none ∧ s.hlc.link ≠ .starting ∧
      (s.hlc.duplicate || s.hlc.lineConflict) = false) :=
  ⟨⟨ready_board, manual_of (by decide), by decide⟩, ⟨ready_of (by decide), manual_of (by decide), by decide⟩,
    ready_of (by decide), manual_of (by decide), by decide⟩

/-- A good frame with a summary; and a bad frame with the loss count at 31 and below. -/
theorem witness_FrameEnds :
    let s := linked (.src .src1) { fresh3 with loss := 31 }
    s.inReset = false ∧ s.hlc.running = true ∧ s.hlc.discovery = .idle ∧
    ((spoken 2300 50000 900).get .n0).good .n3 = true ∧ ((spoken 2300 50000 900).get .n0).slotValid 8 = true ∧
    (((spoken 2300 50000 900).get .n0).summary s.hlc.frameNo).isSome = true ∧
    dumb.good .n3 = false ∧ (s.hlc.points.get (.src .src1)).status = .present ∧
    31 ≤ (s.hlc.points.get (.src .src1)).loss := by decide

theorem witness_SourcesLoseAndQualify_lost :
    (let s := sound .src1 (onPoint (.src .src1) (measured ⟨.n3, .n0⟩ 2300 50000 0 100) board)
     s.Calm ∧ s.BothManual ∧ (s.hlc.points.get (.src .src1)).bound.isSome = true ∧
      (s.hlc.points.get (.src .src1)).status = .present ∧ (s.hlc.points.get (.src .src1)).fresh = true ∧
      (s.hlc.points.get (.src .src1)).valid = true ∧ s.srcState .src1 = .healthy) ∧
    (let s := onPoint (.bus .sec2) (measured ⟨.n3, .n0⟩ 2300 50000 0 100) board
     s.Calm ∧ s.BothManual ∧ (s.hlc.points.get (.bus .sec2)).bound.isSome = true ∧
      (s.hlc.points.get (.bus .sec2)).status = .present ∧ (s.hlc.points.get (.bus .sec2)).fresh = true ∧
      (s.hlc.points.get (.bus .sec2)).valid = true) :=
  ⟨⟨calm_of (by decide), manual_of (by decide), by decide⟩, calm_of (by decide), manual_of (by decide), by decide⟩

theorem witness_LinkStartGoesOn :
    (let s : State := { board with hlc := { board.hlc with rstEnd := some 1 } }
     s.Calm ∧ s.hlc.rstEnd = some 1 ∧ s.hlc.slot = none ∧ s.hlc.words.get .n0 = ⟨0, false⟩) ∧
    ((starting (.ready (.all false)) none).Calm ∧
      (starting (.ready (.all false)) none).hlc.discovery = .ready (.all false)) ∧
    (starting (.reading .n4) none).Calm ∧ (starting (.reading .n4) none).hlc.discovery = .reading .n4 ∧
    nextAddress .n4 = some .n5 :=
  ⟨⟨calm_of (by decide), by decide⟩, ⟨calm_of (by decide), by decide⟩, calm_of (by decide), by decide⟩

/-- A link start at its last address, asked for by LINK_RESTART. -/
def ending (m : LinkMap) : State :=
  let s := (starting (.reading .n5) none).awaiting 0x62 9
  { s with pst := { s.pst with linkMap := m }, hlc := { s.hlc with heads := .all .silent } }

/-- With an empty record the empty discovered map agrees; with a record that holds a head it does not. -/
theorem witness_LinkStartEnds :
    let agrees (s : State) : Bool := ({ s with hlc := { s.hlc with
      heads := s.hlc.heads.set .n5 .silent, slot := none, discovery := .idle } } : State).mapAgrees
    ((ending (.all none)).Calm ∧ (ending (.all none)).adopted = true ∧ (ending (.all none)).hlc.discovery = .reading .n5 ∧
      (ending (.all none)).spt.service = some ⟨0x62, 9, .deferred⟩ ∧ agrees (ending (.all none)) = true) ∧
    agrees (ending (.all (some ⟨.n0, .n0⟩))) = false :=
  ⟨⟨calm_of (by decide), by decide⟩, by decide⟩

/-- Line numbers 0 and 5 and a value of 2 lie outside; lines 1 and 4 and the values 0 and 1 inside. AN1 is in LEVEL use by
default, and in TRACK use on another page. -/
theorem witness_OutputSetWrites :
    board.Ready ∧ ((0 : Byte).toNat < 1 ∧ 4 < (5 : Byte).toNat ∧ 1 < (2 : Byte).toNat) ∧
    ((1 : Byte).toNat = (0 : Fin 4).val + 1 ∧ (4 : Byte).toNat = (3 : Fin 4).val + 1 ∧ (1 : Byte).toNat ≤ 1) ∧
    board.plan.glob (useItem 0) = 0 ∧
    (boardOn (itemsWith [(6, 0, 4, 11)])).Ready ∧ (boardOn (itemsWith [(6, 0, 4, 11)])).plan.glob (useItem 0) ≠ 0 :=
  ⟨ready_board, by decide, by decide, by decide, ready_of (by decide), by decide⟩

theorem witness_OutputsFollow :
    board.Ready ∧ ({ board with mdc := { board.mdc with alarm := some 60000 } } : State).mdc.alarm = some 60000 ∧
    (board.adopted = true ∧ bitOf 1 = some true ∧ bitOf 0 = some false ∧ board.plan.kind .src1 ≠ .generator) ∧
    ((boardOn (itemsWith [(1, 3, 1, 2)])).Ready ∧ (boardOn (itemsWith [(1, 3, 1, 2)])).adopted = true ∧
      (boardOn (itemsWith [(1, 3, 1, 2)])).plan.kind .src3 = .generator) ∧
    (let s := running .src3 ⟨.cool, some 300, some 400, 30, false, false⟩ board
     s.inReset = false ∧ (s.mdc.runs.get .src3).coolAt = some 300 ∧ (s.mdc.runs.get .src3).startAt = some 400 ∧
      s.blocked = false ∧ ({ s with mdc := { s.mdc with hostBlock := true } } : State).blocked = true) :=
  ⟨ready_board, by decide, by decide, ⟨ready_of (by decide), by decide⟩, by decide⟩

theorem ready_chan (c : Chan) (f : ChanRec → ChanRec) : (onChan c f board).Ready := ready_board

theorem still_chan (c : Chan) (f : ChanRec → ChanRec) : (onChan c f board).Still := still_board

/-- BLOCKED; the trip pulse running; the close pulse running; not ready; and accepted. -/
theorem witness_ManualCloses_starts :
    let block (s : State) : State := { s with mdc := { s.mdc with hostBlock := true } }
    let trip := onChan .bk1 (fun r => { r with tripEnd := some 9 }) board
    let close := onChan .bk1 (fun r => { r with closeEnd := some 9 }) board
    let unready := onChan .bk1 (fun r => { r with ready := .first false }) board
    ((block board).Ready ∧ (block board).Still ∧ (block board).adopted = true ∧ (block board).secondPath .bk1 = false ∧
      (block board).blocked = true) ∧
    (trip.Ready ∧ trip.Still ∧ trip.secondPath .bk1 = false ∧ trip.blocked = false ∧
      (trip.bcu.get .bk1).tripEnd.isSome = true) ∧
    (close.Ready ∧ close.Still ∧ close.secondPath .bk1 = false ∧ close.blocked = false ∧
      (close.bcu.get .bk1).tripEnd = none ∧ (close.bcu.get .bk1).closeEnd.isSome = true) ∧
    (unready.Ready ∧ unready.Still ∧ unready.secondPath .bk1 = false ∧ unready.blocked = false ∧
      (unready.bcu.get .bk1).available = false) ∧
    (board.Ready ∧ board.Still ∧ board.secondPath .bk1 = false ∧ board.blocked = false ∧
      (board.bcu.get .bk1).tripEnd = none ∧ (board.bcu.get .bk1).closeEnd = none ∧
      (board.bcu.get .bk1).available = true) :=
  ⟨⟨ready_board, still_board, by decide⟩, ⟨ready_chan _ _, still_chan _ _, by decide⟩,
    ⟨ready_chan _ _, still_chan _ _, by decide⟩, ⟨ready_chan _ _, still_chan _ _, by decide⟩,
    ready_board, still_board, by decide⟩

/-- BK1 closed and SRC3 HEALTHY in phase with BUS1 at 50 Hz: the manual close of BK3 has the permit. -/
def phased : State :=
  let s := shut .bk1 (workedBoard 1003 1420 1003 1420 50000 2300)
  { s with hlc := { s.hlc with lastEnded := some 1005 } }

theorem witness_ManualCloses_permit :
    phased.Ready ∧ phased.Still ∧ phased.adopted = true ∧ phased.secondPath .bk3 = true ∧
    (phased.coincidence (manualPair .bk3) .closedItems (manualPair .bk3).busSec phased.lastFrame).permit = true ∧
    phased.blocked = false ∧ (phased.bcu.get .bk3).tripEnd = none ∧ (phased.bcu.get .bk3).closeEnd = none ∧
    (phased.bcu.get .bk3).available = true :=
  ⟨ready_of (by decide), ⟨calm_of (by decide), manual_of (by decide), utilities_of (by decide), by decide⟩, by decide⟩

/-- A channel of a section in AUTO; and a manual close of BK3 beside the closed BK1 with no measurement. -/
theorem witness_ManualCloses_refused :
    ((fedBoard []).Ready ∧ (fedBoard []).adopted = true ∧ chanOf .bk1 .sec1 = true ∧ (fedBoard []).mode .sec1 = .auto) ∧
    (let s := shut .bk1 (onSrc .src1 ⟨.healthy, .none, none, 0⟩ (boardOn (itemsWith [(1, 3, 1, 1)])))
     s.Ready ∧ s.adopted = true ∧ s.manualChan .bk3 = true ∧ s.secondPath .bk3 = true ∧
      (s.coincidence (manualPair .bk3) .closedItems (manualPair .bk3).busSec s.lastFrame).permit = false) :=
  ⟨⟨ready_of (by decide), by decide⟩, ready_of (by decide), by decide⟩

/-- From CLOSED, from CLOSING on the tie, from FAULTED, and BLOCKED. -/
theorem witness_ManualTripAndStop :
    let block (s : State) : State := { s with mdc := { s.mdc with hostBlock := true } }
    ((shut .bk1 board).Ready ∧ (shut .bk1 board).Still ∧ (shut .bk1 board).adopted = true ∧
      (shut .bk1 board).blocked = false) ∧
    ((closingNow .bkt board).Ready ∧ (closingNow .bkt board).Still ∧ ((closingNow .bkt board).bcu.get .bkt).op.isSome = true) ∧
    ((block board).Ready ∧ (block board).Still ∧ (block board).blocked = true) :=
  ⟨⟨ready_chan _ _, still_chan _ _, by decide⟩, ⟨ready_chan _ _, still_chan _ _, by decide⟩, ready_board, still_board,
    by decide⟩

theorem witness_LockoutLocksAndClears_clears :
    let put (p : Position) (prt : Bool) := onChan .bk1 (fun r => { r with position := p, prot := .first prt }) board
    ((put .faulted false).Ready ∧ (put .faulted false).Still ∧ ((put .faulted false).bcu.get .bk1).position = .faulted) ∧
    ((put .locked false).Ready ∧ (put .locked false).Still ∧ ((put .locked false).bcu.get .bk1).prot.accepted = false) ∧
    ((put .locked true).Ready ∧ (put .locked true).Still ∧ ((put .locked true).bcu.get .bk1).prot.accepted = true) ∧
    (board.Ready ∧ board.Still ∧ (board.bcu.get .bk1).position ≠ .faulted ∧ (board.bcu.get .bk1).position ≠ .locked) :=
  ⟨⟨ready_chan _ _, still_chan _ _, by decide⟩, ⟨ready_chan _ _, still_chan _ _, by decide⟩,
    ⟨ready_chan _ _, still_chan _ _, by decide⟩, ready_board, still_board, by decide⟩

theorem witness_PulsesAndLevels :
    ((closingNow .bk1 board).inReset = false ∧ ((closingNow .bk1 board).bcu.get .bk1).closeEnd = some 200) ∧
    ((onChan .bk1 (fun r => { r with tripEnd := some 9 }) board).bcu.get .bk1).tripEnd = some 9 ∧ board.Still ∧
    ({ board with mdc := { board.mdc with settle := ⟨some 10000, none⟩ } } : State).Still ∧
    ({ board with mdc := { board.mdc with settle := ⟨some 10000, none⟩ } } : State).mdc.settle.get .sec1 = some 10000 :=
  ⟨by decide, by decide, still_board, still_board, by decide⟩

theorem witness_ConfirmDeadlines :
    ((closingNow .bkt board).Still ∧ ∃ o, ((closingNow .bkt board).bcu.get .bkt).op = some o ∧ o.kind = .close) ∧
    (let tripping (aux : Bool) := onChan .bk1 (fun r => { r with
      aux := .first aux, position := .opening, tripEnd := some 200, op := some ⟨.trip, .mdc, 0, 150, false⟩ }) board
     ((tripping true).Still ∧ (tripping true).closed .bk1 = true) ∧ (tripping false).Still ∧
      (tripping false).closed .bk1 = false) :=
  ⟨⟨still_chan _ _, _, rfl, rfl⟩, ⟨still_chan _ _, by decide⟩, still_chan _ _, by decide⟩

/-- A close confirmed, a trip confirmed, a closing in OPENING, and an external close of an open channel. -/
theorem witness_AuxChangeFollows :
    (board.Calm ∧ board.BothManual ∧ board.pst.pendingPage = none ∧ board.adopted = true ∧
      (board.bcu.get .bk1).aux.accepted = !true ∧ (board.bcu.get .bk1).position = .isOpen) ∧
    ((closingNow .bk1 board).Calm ∧ (closingNow .bk1 board).BothManual ∧
      ((closingNow .bk1 board).bcu.get .bk1).aux.accepted = !true ∧
      ((closingNow .bk1 board).bcu.get .bk1).position = .closing ∧
      ((closingNow .bk1 board).bcu.get .bk1).op.isSome = true) ∧
    (let s (aux : Bool) := onChan .bk1 (fun r => { r with
      aux := .first aux, position := .opening, op := some ⟨.trip, .mdc, 0, 150, false⟩ }) board
     ∀ aux, (s aux).Calm ∧ (s aux).BothManual ∧ ((s aux).bcu.get .bk1).aux.accepted = aux ∧
      ((s aux).bcu.get .bk1).position = .opening) :=
  ⟨⟨still_board.1, still_board.2.1, by decide⟩, ⟨still_board.1, still_board.2.1, by decide⟩,
    fun _ => ⟨still_board.1, still_board.2.1, rfl, rfl⟩⟩

theorem witness_LockoutLocksAndClears_locks :
    (board.Still ∧ board.adopted = true ∧ (board.bcu.get .bkt).prot.accepted = false ∧
      (board.bcu.get .bkt).position ≠ .locked) ∧
    ((closingNow .bkt board).Still ∧ ((closingNow .bkt board).bcu.get .bkt).op.any (·.kind == .close) = true) ∧
    (onChan .bk1 (fun r => { r with position := .locked }) board).Still ∧
    ((onChan .bk1 (fun r => { r with position := .locked }) board).bcu.get .bk1).position = .locked :=
  ⟨⟨still_board, by decide⟩, ⟨still_chan _ _, by decide⟩, still_chan _ _, by decide⟩

/-- SRC1's point the only bound one, with SRC1 in each state; and BUS1's point. -/
theorem witness_SummaryJudged :
    let s (q : QualRec) := onSrc .src1 q (linked (.src .src1) fresh3)
    let ok (s : State) (p : Point) : Prop := s.Still ∧ s.hlc.running = true ∧ s.hlc.discovery = .idle ∧ s.hlc.slot = none ∧
      (s.hlc.points.get p).bound = some ⟨.n3, .n0⟩ ∧ (∀ q, q ≠ p → (s.hlc.points.get q).bound = none) ∧
      ((spoken 2300 50000 900).get .n0).good .n3 = true ∧
      (((spoken 2300 50000 900).get .n0).summary s.hlc.frameNo).isSome = true
    (∀ q, ok (s q) (.src .src1)) ∧ ok (linked (.bus .sec1) fresh3) (.bus .sec1) :=
  ⟨fun _ => ⟨still_board, rfl, rfl, rfl, rfl, fun p h => by rcases p with x | b <;> [cases x; cases b] <;> first | rfl | exact absurd rfl h,
      by decide, (by decide : (((spoken 2300 50000 900).get .n0).summary 500).isSome = true)⟩,
    ⟨still_board, rfl, rfl, rfl, rfl, fun p h => by rcases p with x | b <;> [cases x; cases b] <;> first | rfl | exact absurd rfl h,
      by decide, by decide⟩⟩

theorem witness_SourcesLoseAndQualify_timers :
    ((onSrc .src2 ⟨.pickup, .none, some (.pick, 5000), 0⟩ board).Still ∧
      ((onSrc .src2 ⟨.pickup, .none, some (.pick, 5000), 0⟩ board).squ.srcs.get .src2).timer = some (.pick, 5000)) ∧
    (onSrc .src2 ⟨.dropout, .dead, some (.fast, 100), 0⟩ board).Still ∧
    ((onSrc .src2 ⟨.dropout, .dead, some (.fast, 100), 0⟩ board).squ.srcs.get .src2).timer = some (.fast, 100) ∧
    (onSrc .src2 ⟨.dropout, .dead, some (.drop, 2000), 0⟩ board).Still ∧
    ((onSrc .src2 ⟨.dropout, .dead, some (.drop, 2000), 0⟩ board).squ.srcs.get .src2).timer = some (.drop, 2000) :=
  ⟨⟨still_board, by decide⟩, still_board, by decide, still_board, by decide⟩

/-- Not BLOCKED and BLOCKED by the host. -/
theorem witness_BlockActs :
    (board.Calm ∧ board.BothManual ∧ board.Ready ∧ board.blocked = false ∧ bitOf 1 = some true) ∧
    (let s : State := { board with mdc := { board.mdc with hostBlock := true } }
     s.Calm ∧ s.BothManual ∧ s.Ready ∧ s.blocked = true ∧ bitOf 0 = some false) :=
  ⟨⟨still_board.1, still_board.2.1, ready_board, by decide⟩, still_board.1, still_board.2.1, ready_board, by decide⟩

/-- Already in the mode; no plan; a plan; moving; and a transfer that drops. -/
theorem witness_ModesAndResume_modes :
    ((fedBoard []).Ready ∧ (fedBoard []).adopted = true ∧ (fedBoard []).mode .sec1 = .auto) ∧
    (board.Ready ∧ board.adopted = true ∧ board.mode .sec1 = .manual ∧ board.pst.active = none) ∧
    ((boardOn defaultItems).Ready ∧ (boardOn defaultItems).mode .sec1 = .manual ∧ (boardOn defaultItems).pst.active ≠ none ∧
      (onSec .sec1 (fun c => { c with state := .halted }) (boardOn defaultItems)).Ready) ∧
    ((transferring .overlap [] id).Ready ∧ ((transferring .overlap [] id).ctx .sec1).state = .overlap ∧
      (transferring .overlap [] id).mode .sec1 = .auto) ∧
    ((openBoard [] id).Ready ∧ (openBoard [] id).NoGenerator ∧ (openBoard [] id).pst.pendingPage = none ∧
      (openBoard [] id).mode .sec1 = .auto ∧ (openBoard [] id).mode .sec2 = .manual ∧
      ((openBoard [] id).ctx .sec1).state.dropped.isSome = true) :=
  ⟨⟨ready_of (by decide), by decide⟩, ⟨ready_board, by decide⟩,
    ⟨ready_of (by decide), by decide, by decide, ready_of (by decide)⟩, ⟨ready_of (by decide), by decide⟩,
    ready_of (by decide), utilities_of (by decide), by decide⟩

/-- A request naming an entry of section 1 that no test of R109 turns away before eligibility. -/
def admits (s : State) (e : Entry) : Bool :=
  s.mode .sec1 == .auto && !s.blocked && !((s.mdc.settle.get .sec1).isSome || !(s.ctx .sec1).state.settled ||
    (e != .tie && (s.ctx .sec1).role == .dependent && !(s.ctx .sec2).state.settled))

/-- In MANUAL; BLOCKED; settling; the feed itself; an entry off the list; one not eligible; and the tie, with the claim
test failing. -/
theorem witness_TransferRequested_refused :
    (board.Ready ∧ board.adopted = true ∧ board.mode .sec1 = .manual) ∧
    (let s := fedBoard []
     ({ s with mdc := { s.mdc with hostBlock := true } } : State).Ready ∧
      ({ s with mdc := { s.mdc with hostBlock := true } } : State).blocked = true ∧
      ({ s with mdc := { s.mdc with settle := ⟨some 9, none⟩ } } : State).Ready ∧
      (({ s with mdc := { s.mdc with settle := ⟨some 9, none⟩ } } : State).mdc.settle.get .sec1).isSome = true) ∧
    ((fedBoard []).Ready ∧ admits (fedBoard []) .ownA = true ∧ ((fedBoard []).ctx .sec1).feed = some .ownA ∧
      Entry.tie ∉ (fedBoard []).plan.prefs .sec1) ∧
    (let s := onSrc .src3 ⟨.down, .dead, none, 0⟩ (fedBoard [])
     s.Ready ∧ admits s .ownB = true ∧ (s.ctx .sec1).feed ≠ some .ownB ∧ Entry.ownB ∈ s.plan.prefs .sec1 ∧
      s.eligible .sec1 ⟨.sec1, .ownB⟩ = false) ∧
    (let s := fedBoard [(3, 1, 3, 3)]
     s.Ready ∧ admits s .tie = true ∧ (s.ctx .sec1).feed ≠ some .tie ∧ Entry.tie ∈ s.plan.prefs .sec1 ∧
      s.eligible .sec1 ⟨.sec1, .tie⟩ = false ∧ (s.claimTest .sec1).isSome = true) :=
  ⟨⟨ready_board, by decide⟩, ⟨ready_of (by decide), by decide, ready_of (by decide), by decide⟩,
    ⟨ready_of (by decide), by decide⟩, ⟨ready_of (by decide), by decide⟩, ready_of (by decide), by decide⟩

/-- Section 1 in AUTO beside section 2 in MANUAL, from readings of the state. -/
theorem alone_of {s : State} (h : (s.inReset = false ∧ s.agenda = []) ∧ (s.plan.kind .src1 ≠ .generator ∧
    s.plan.kind .src2 ≠ .generator ∧ s.plan.kind .src3 ≠ .generator ∧ s.plan.kind .src4 ≠ .generator) ∧
    s.pst.pendingPage = none ∧ s.adopted = true ∧ s.mode .sec1 = .auto ∧ s.mode .sec2 = .manual) : s.AutoAlone .sec1 :=
  ⟨calm_of h.1, utilities_of h.2.1, h.2.2⟩

/-- The same with the tie open and owned by nobody. -/
theorem lone_of {s : State} (h : ((s.inReset = false ∧ s.agenda = []) ∧ (s.plan.kind .src1 ≠ .generator ∧
    s.plan.kind .src2 ≠ .generator ∧ s.plan.kind .src3 ≠ .generator ∧ s.plan.kind .src4 ≠ .generator) ∧
    s.pst.pendingPage = none ∧ s.adopted = true ∧ s.mode .sec1 = .auto ∧ s.mode .sec2 = .manual) ∧
    s.closed .bkt = false ∧ s.owner = none ∧ (s.ctx .sec1).role = .sole ∧ (s.ctx .sec2).role = .sole) :
    s.AutoAlone .sec1 ∧ s.TieOpen := ⟨alone_of h.1, h.2.1, h.2.2.1, bothSecs h.2.2.2⟩

/-- Method CLOSED with both sources HEALTHY; and method OPEN with the feed's breaker closed. -/
theorem witness_TransferRequested_starts :
    let ok (s : State) : Prop := s.Ready ∧ s.AutoAlone .sec1 ∧ admits s .ownB = true ∧ (s.ctx .sec1).feed ≠ some .ownB ∧
      Entry.ownB ∈ s.plan.prefs .sec1 ∧ s.eligible .sec1 ⟨.sec1, .ownB⟩ = true ∧ (s.ctx .sec1).lost = none
    let closed (s : State) : Bool := s.returnsClosed .sec1 && s.healthy? (s.feedSource .sec1) &&
      s.healthy? (s.entrySource ⟨.sec1, .ownB⟩)
    (ok (fedBoard [(3, 1, 13, 1)]) ∧ closed (fedBoard [(3, 1, 13, 1)]) = true) ∧
    (ok (fedBoard []) ∧ closed (fedBoard []) = false ∧ ((fedBoard []).ctx .sec1).feed = some .ownA ∧
      ((fedBoard []).bcu.get .bk1).position = .isClosed ∧ (fedBoard []).closed .bk1 = true) :=
  ⟨⟨⟨ready_of (by decide), alone_of (by decide), by decide⟩, by decide⟩,
    ⟨ready_of (by decide), alone_of (by decide), by decide⟩, by decide⟩

/-- Not HALTED; the cause standing; and HALTED with no path and with one. -/
theorem witness_ModesAndResume_resume :
    let halt (k : HaltCause) (c : Option Chan) (s : State) : State :=
      onSec .sec1 (fun x => { x with state := .halted, haltCause := k, haltChan := c }) s
    (board.Ready ∧ board.Still ∧ board.adopted = true ∧ (board.ctx .sec1).state ≠ .halted) ∧
    (let s := halt .busFault (some .bk1) (onChan .bk1 (fun r => { r with position := .locked }) board)
     s.Ready ∧ s.Still ∧ (s.ctx .sec1).state = .halted ∧ s.haltStands .sec1 = true) ∧
    (let s := halt .decayTimeout none board
     s.Ready ∧ s.Still ∧ (s.ctx .sec1).state = .halted ∧ s.haltStands .sec1 = false ∧ s.paths .sec1 = []) ∧
    (let s := halt .decayTimeout none (shut .bk1 board)
     s.Ready ∧ s.Still ∧ (s.ctx .sec1).state = .halted ∧ s.haltStands .sec1 = false ∧ (s.paths .sec1).length = 1) :=
  ⟨⟨ready_board, still_board, by decide⟩, ⟨ready_board, still_board, by decide⟩, ⟨ready_board, still_board, by decide⟩,
    ready_board, still_board, by decide⟩

/-- Each of the five timers in the state it serves. -/
theorem witness_SequencerTimersExpire :
    let ok (s : State) : Prop := s.Calm ∧ s.NoGenerator ∧ s.pst.pendingPage = none ∧ s.mode .sec1 = .auto ∧
      s.mode .sec2 = .manual
    (let s := returningBoard 1
     ok s ∧ (s.ctx .sec1).state = .returnWait ∧ (s.ctx .sec1).tReturn = some 700 ∧ s.preferred .sec1 = some .ownA ∧
      s.returnsClosed .sec1 = true ∧ s.healthy? (s.feedSource .sec1) = true) ∧
    (let s := returningBoard 0
     ok s ∧ (s.ctx .sec1).state = .returnWait ∧ (s.ctx .sec1).tReturn = some 700 ∧ s.preferred .sec1 = some .ownA ∧
      (s.ctx .sec1).feed = some .ownB ∧ (s.ctx .sec1).lost = none ∧
      (s.returnsClosed .sec1 && s.healthy? (s.feedSource .sec1)) = false ∧ s.blocked = false ∧
      (s.bcu.get .bk3).position = .isClosed ∧ s.closed .bk3 = true) ∧
    (let s := transferring .sync [(3, 1, 17, 0), (3, 1, 11, 0)] fun c => { c with closedTrans := true, tSyncWait := some 9 }
     ok s ∧ (s.ctx .sec1).state = .sync ∧ (s.ctx .sec1).tSyncWait = some 9 ∧ s.plan.sec .sec1 .fallbackOpen ≠ 1 ∧
      s.plan.sec .sec1 .autoReturn = 0 ∧ (s.ctx .sec1).feed.bind (ownSource .sec1) = some .src1 ∧ s.srcState .src1 ≠ .down) ∧
    (let s := openBoard [(3, 1, 10, 0)] fun c => { c with tDecayMax := some 3000 }
     ok s ∧ (s.ctx .sec1).state = .decay ∧ (s.ctx .sec1).tDecayMax = some 3000 ∧ s.plan.sec .sec1 .closeOnTimeout ≠ 1) ∧
    (let s := openBoard [(3, 1, 10, 1)] fun c => { c with tDecayMax := some 3000 }
     ok s ∧ (s.ctx .sec1).state = .decay ∧ (s.ctx .sec1).tDecayMax = some 3000 ∧ s.plan.sec .sec1 .closeOnTimeout = 1 ∧
      (s.ctx .sec1).target = some ⟨.sec1, .ownB⟩ ∧ s.closeRefusal (entryChan ⟨.sec1, .ownB⟩) = none ∧
      (s.squ.buses.get .sec1).state ≠ .dead ∧ (s.ctx .sec1).deadOver = false) ∧
    (let s := openBoard [(3, 1, 4, 2)] fun c => { c with tDead := some 1000 }
     ok s ∧ (s.ctx .sec1).state = .decay ∧ (s.ctx .sec1).tDead = some 1000 ∧ s.plan.sec .sec1 .openMethod = 2 ∧
      (s.ctx .sec1).target = some ⟨.sec1, .ownB⟩ ∧ s.closeRefusal (entryChan ⟨.sec1, .ownB⟩) = none) ∧
    (let s := shut .bk3 (transferring .overlap [] fun c => { c with
       closedTrans := true, outgoing := some .ownA, tOverlap := some 100 })
     ok s ∧ (s.ctx .sec1).state = .overlap ∧ (s.ctx .sec1).tOverlap = some 100 ∧
      (s.ctx .sec1).target = some ⟨.sec1, .ownB⟩ ∧ (s.ctx .sec1).outIsTarget = false ∧ s.blocked = false ∧
      (s.bcu.get (entryChan ⟨.sec1, .ownB⟩)).position = .isClosed) :=
  ⟨⟨⟨calm_of (by decide), utilities_of (by decide), by decide⟩, by decide⟩,
    ⟨⟨calm_of (by decide), utilities_of (by decide), by decide⟩, by decide⟩,
    ⟨⟨calm_of (by decide), utilities_of (by decide), by decide⟩, by decide⟩,
    ⟨⟨calm_of (by decide), utilities_of (by decide), by decide⟩, by decide⟩,
    ⟨⟨calm_of (by decide), utilities_of (by decide), by decide⟩, by decide⟩,
    ⟨⟨calm_of (by decide), utilities_of (by decide), by decide⟩, by decide⟩,
    ⟨calm_of (by decide), utilities_of (by decide), by decide⟩, by decide⟩

/-- In the worked pass a feeder that was not SHED becomes so; and a sum within the budget. -/
theorem witness_ShedPassEnds :
    let s := shedBoard 250 [3] (fedIsland none none)
    s.sumOf [.sec1] ≤ 5000 ∧ 900 < s.sumOf [.sec1] ∧
    (s.feeder 3).shed = true ∧ (s.feeder 5).shed = false ∧
    ((shedPass [.sec1] 900 .src3 .target s).feeder 5).shed = true := by decide

/-- The worked restore; the same held by the block; and an overload timer. -/
theorem witness_IslandTimersExpire :
    let s := shedBoard 100 [5, 4, 3] (fedIsland (some 70653) (some 5000))
    let held : State := { s with mdc := { s.mdc with hostBlock := true } }
    (s.inReset = false ∧ s.island .bus1 = some (fedIsland (some 70653) (some 5000)) ∧ 0 < s.plan.glob .tOvl ∧
      s.anyShed .bus1 = true ∧ s.restoreHeld .bus1 = false ∧ s.candidate .bus1 = some 3 ∧
      s.sumOf (islandSecs .bus1) + s.need 3 = 870 ∧ s.plan.budget .src3 = 900) ∧
    (held.inReset = false ∧ held.island .bus1 = some (fedIsland (some 70653) (some 5000)) ∧ held.restoreHeld .bus1 = true) ∧
    (let b := shedBoard 250 [5, 4, 3] (fedIsland (some 60653) none)
     b.anyShed .bus1 = true ∧ b.restoreHeld .bus1 = false ∧ b.candidate .bus1 = some 3 ∧
      b.plan.budget .src3 < b.sumOf (islandSecs .bus1) + b.need 3) := by
  decide

/-- An island of 900 kW whose F02 may go from 250 to 600 kW. -/
theorem witness_DemandHeld :
    let s := shedBoard 250 [] (fedIsland none none)
    s.Ready ∧ s.BothManual ∧ s.island .bus1 = some (fedIsland none none) ∧ 0 < s.plan.glob .tOvl ∧ s.blocked = false :=
  ⟨ready_of (by decide), manual_of (by decide), by decide⟩

/-- In service; a plan request before the load has ended; and a breaker request before adoption. -/
theorem witness_RequestsWaitOrAreRefused_waits :
    ((Instr.planSelect 7 1).request = some (7, .planSelect 1) ∧ (Request.planSelect 1).isPlan = true) ∧
    (board.awaiting 0x56 9).spt.service.isSome = true ∧
    (State.reset.Calm ∧ State.reset.spt.service = none ∧ State.reset.loaded = false ∧ State.reset.adopted = false) ∧
    ((Instr.breakerOperateClose 7 1).request = some (7, .breakerOperate 1 1) ∧
      (Instr.breakerOperateClose 7 1).wellFormed = true ∧ (Request.breakerOperate 1 1).kind = 0x21) ∧
    ((Instr.planActivate 7 1).request = some (7, .planActivate 1) ∧ (Instr.planActivate 7 1).wellFormed = true ∧
      ({ State.reset with loaded := true } : State).Calm ∧ ({ State.reset with loaded := true } : State).adopted = false) :=
  ⟨by decide, by decide, ⟨calm_of (by decide), by decide⟩, by decide, by decide, by decide, calm_of (by decide), by decide⟩

theorem witness_RequestsWaitOrAreRefused_refused :
    (Instr.pointGet 7 0).request = some (7, .pointGet 0) ∧ (Instr.pointGet 7 0).wellFormed = false ∧ board.Ready :=
  ⟨by decide, by decide, ready_board⟩

/-- A LEN of 251 and of 250; a frame not yet whole; a whole frame with a bad CRC; and a good frame of an unknown KIND. -/
theorem witness_LineIsServed :
    (board.inReset = false ∧ board.spt.hmDe = false ∧ board.spt.rx = .hunting) ∧
    ((hearing []).spt.rx = .receiving [] ∧ (hearing []).spt.rxGap = some 5 ∧ lenTooLong [251] = true ∧
      lenTooLong [250] = false ∧ frameWhole [250] = false) ∧
    (frameWhole [0, 1, 7, 0, 0] = true ∧ lenTooLong [0, 1, 7, 0, 0] = false) ∧
    (∃ hi lo, [hi, lo] = be16 (crc16 [0, 0x7F, 7]).toNat ∧ frameWhole [0, 0x7F, 7, hi, lo] = true) ∧
    (∃ e, parseRequest 0x7F [] = .error e) ∧
    ((Instr.ping 7).request = some (7, .ping) ∧ Request.ping.kind = 1 ∧ Request.ping.payload = [] ∧
      ∃ hi lo, [hi, lo] = be16 (crc16 [0, 1, 7]).toNat ∧ frameWhole [0, 1, 7, hi, lo] = true) ∧
    (board.replied 1 7 .ok .identity).spt.service = some ⟨1, 7, .formed ⟨.ok, .identity⟩⟩ :=
  ⟨by decide, by decide, by decide, ⟨_, _, rfl, by decide⟩, ⟨_, rfl⟩, ⟨rfl, rfl, rfl, _, _, rfl, by decide⟩, by decide⟩

theorem witness_ResetRestarts :
    State.reset.inReset = false ∧ State.reset.pst.writes = [] ∧ ({ board with inReset := true } : State).inReset = true := by
  decide

theorem witness_StoreLoads :
    let held : State := { State.reset with spt := { State.reset.spt with service := some ⟨0x51, 7, .held (.planRead 3 1 4)⟩ } }
    State.reset.Calm ∧ State.reset.loaded = false ∧ State.reset.adopted = false ∧ State.reset.spt.service = none ∧
    (∀ p, (State.reset.hlc.points.get p) = .unbound) ∧
    held.Calm ∧ held.hlc = State.reset.hlc ∧
    (Instr.planRead 7 3 1 4).request = some (7, .planRead 3 1 4) ∧ (Request.planRead 3 1 4).isPlan = true ∧
    held.spt.service = some ⟨(Request.planRead 3 1 4).kind, 7, .held (.planRead 3 1 4)⟩ :=
  ⟨calm_of (by decide), by decide, by decide, by decide, fun p => by rcases p with x | b <;> [cases x; cases b] <;> rfl,
    calm_of (by decide), rfl, rfl, rfl, rfl⟩

/-- The power-up link start at its last address, on a board with some breakers closed. -/
def waking (f : State → State) : State := { f (starting (.reading .n5) none) with adopted := false }

/-- No path, one path, and two paths; a page active or not; and the notice queue empty. -/
theorem witness_AdoptionFollowsTheBoard :
    (let ok (s : State) : Prop := s.Calm ∧ s.adopted = false ∧ s.hlc.discovery = .reading .n5 ∧ s.spt.queue = []
     (ok (waking id) ∧ (waking id).paths .sec1 = [] ∧ (waking id).closed .bkt = false ∧ (waking id).pst.active = none) ∧
     (ok (waking (shut .bk1)) ∧ (waking (shut .bk1)).paths .sec1 = [.src1]) ∧
     (ok (waking fun s => shut .bk3 (shut .bk1 s)) ∧
      ((waking fun s => shut .bk3 (shut .bk1 s)).paths .sec1).length = 2)) ∧
    (let s := waking fun s => { s with pst := (boardOn defaultItems).pst }
     s.Calm ∧ s.adopted = false ∧ s.hlc.discovery = .reading .n5 ∧ s.pst.active ≠ none) :=
  ⟨⟨⟨⟨calm_of (by decide), by decide⟩, by decide⟩, ⟨⟨calm_of (by decide), by decide⟩, by decide⟩,
    ⟨calm_of (by decide), by decide⟩, by decide⟩, calm_of (by decide), by decide⟩

/-! ### Witnesses: a section in AUTO -/

/-- Every predicate of entries holds when it holds of each. -/
theorem threeEntries {P : Entry → Prop} (h : P .ownA ∧ P .ownB ∧ P .tie) : ∀ g, P g :=
  fun g => by cases g; exacts [h.1, h.2.1, h.2.2]

/-- Section 1 alone in AUTO, fed by OWN_A with no automatic return, SRC1 and SRC3 sound. -/
def fed0 : State := fedBoard [(3, 1, 11, 0)]

theorem alone_fed0 : fed0.AutoAlone .sec1 := alone_of (by decide)

/-- A source in a state with a running timer. -/
def timed (x : Src) (st : SrcState) (k : QTimer) (d : Nat) : State → State := onSrc x ⟨st, .dead, some (k, d), 0⟩

/-- A source that is DOWN. -/
def down (x : Src) : State → State := onSrc x ⟨.down, .dead, none, 0⟩

/-- The entry taken at the loss of OWN_A. -/
def nextOf (s : State) : Option Entry :=
  if s.held .sec1 then none else (s.plan.prefs .sec1).find? fun g => g != .ownA && s.targetFits .sec1 ⟨.sec1, g⟩

/-- FED with a DROP timer and a target; SYNC with a FAST timer and no other source; RETURN_WAIT; and BK1 locked out. -/
theorem witness_FeedLostInAuto :
    let ok (s : State) : Prop := (s.AutoAlone .sec1 ∧ s.TieOpen) ∧ (s.ctx .sec1).feed = some .ownA
    let s1 := timed .src1 .dropout .drop 100 fed0
    let s2 := timed .src1 .dropout .fast 100 (down .src3 (onSec .sec1 (fun c => { c with state := .sync }) fed0))
    let s3 := onChan .bk1 (fun r => { r with position := .locked, prot := .first true })
      (onSec .sec1 (fun c => { c with state := .returnWait }) fed0)
    (ok s1 ∧ (s1.ctx .sec1).state = .fed ∧ (s1.squ.srcs.get .src1).timer = some (.drop, 100) ∧
      (s1.bcu.get .bk1).position = .isClosed ∧ (s1.bcu.get .bk1).aux.accepted = true ∧ nextOf s1 = some .ownB ∧
      s1.entrySource ⟨.sec1, .ownB⟩ = some .src3 ∧ (s1.squ.buses.get .sec1).state ≠ .dead) ∧
    (ok s2 ∧ (s2.ctx .sec1).state = .sync ∧ (s2.squ.srcs.get .src1).timer = some (.fast, 100) ∧ nextOf s2 = none) ∧
    (ok s3 ∧ (s3.ctx .sec1).state = .returnWait ∧ (s3.bcu.get .bk1).position = .locked ∧
      (s3.bcu.get .bk1).prot.accepted = true ∧ (s3.bcu.get .bk1).aux.accepted = true) :=
  ⟨⟨⟨lone_of (by decide), by decide⟩, by decide⟩, ⟨⟨lone_of (by decide), by decide⟩, by decide⟩,
    ⟨lone_of (by decide), by decide⟩, by decide⟩

/-- Section 1 waiting, with BK1 closed on the lost OWN_A or open. -/
def waiting (closed : Bool) (s : State) : State :=
  onChan .bk1 (fun r => if closed then r else { r with aux := .first false, position := .isOpen })
    (onSec .sec1 (fun c => { c with state := .waitSource, feed := none, lost := if closed then some ⟨.ownA, true⟩ else none }) s)

/-- The first eligible entry once SRC3 is HEALTHY. -/
def nextPicked (s : State) : Option SecEntry := (s.prefs .sec1).find? ((onSrc .src3 ⟨.healthy, .none, none, 0⟩ s).eligible .sec1)

theorem witness_RestStatesInAuto :
    let ok (s : State) : Prop := s.AutoAlone .sec1 ∧ s.TieOpen
    let back := timed .src1 .pickup .pick 50 (waiting true fed0)
    let other (closed : Bool) := timed .src3 .pickup .pick 50 (down .src1 (waiting closed fed0))
    let shutIn := onSrc .src1 ⟨.unknown, .meas, none, 0⟩ (down .src3 (waiting false fed0))
    let fedB := onSec .sec1 (fun c => { c with state := .fed, tReturn := none }) (timed .src1 .pickup .pick 50 (returningBoard 0))
    let leaving := onPoint (.src .src1) (measured ⟨.n3, .n0⟩ 2300 50000 0 100) (returningBoard 0)
    (ok back ∧ (back.ctx .sec1).state = .waitSource ∧ (back.squ.srcs.get .src1).timer = some (.pick, 50) ∧
      (back.ctx .sec1).lost = some ⟨.ownA, true⟩ ∧ back.closed .bk1 = true ∧ back.plan.sec .sec1 .autoReturn = 0) ∧
    (ok (other true) ∧ ((other true).ctx .sec1).state = .waitSource ∧ (other true).held .sec1 = false ∧
      ((other true).squ.srcs.get .src3).timer = some (.pick, 50) ∧ ((other true).ctx .sec1).lost = some ⟨.ownA, true⟩ ∧
      (other true).healthy? ((other true).entrySource ⟨.sec1, .ownA⟩) = false ∧
      nextPicked (other true) = some ⟨.sec1, .ownB⟩ ∧ (other true).closed .bk1 = true ∧
      ((other true).bcu.get .bk1).position = .isClosed) ∧
    (ok (other false) ∧ ((other false).ctx .sec1).lost = none ∧ nextPicked (other false) = some ⟨.sec1, .ownB⟩ ∧
      ((other false).squ.buses.get .sec1).state ≠ .dead) ∧
    nextPicked (onChan .bk3 (fun r => { r with ready := .first false }) (other false)) = none ∧
    (ok shutIn ∧ shutIn.NoneHealthy .sec1 ∧ (shutIn.ctx .sec1).state = .waitSource ∧ (shutIn.ctx .sec1).feed = none ∧
      shutIn.paths .sec1 = [] ∧ (shutIn.bcu.get .bk1).position = .isOpen ∧ shutIn.srcState .src1 ≠ .down) ∧
    (ok fedB ∧ (fedB.ctx .sec1).state = .fed ∧ (fedB.ctx .sec1).feed = some .ownB ∧ fedB.preferred .sec1 = some .ownA ∧
      fedB.avail .bk1 = true ∧ fedB.held .sec1 = false ∧ fedB.plan.sec .sec1 .autoReturn = 1 ∧
      0 < fedB.plan.sec .sec1 .tReturn ∧ (fedB.squ.srcs.get .src1).timer = some (.pick, 50)) ∧
    (ok fed0 ∧ (fed0.ctx .sec1).state = .fed ∧ fed0.paths .sec1 = [.src1] ∧ (fed0.bcu.get .bk3).position = .isOpen ∧
      fed0.closed .bk3 = false) ∧
    (ok leaving ∧ (leaving.ctx .sec1).state = .returnWait ∧ leaving.preferred .sec1 = some .ownA ∧
      leaving.srcState .src1 = .healthy ∧ leaving.pointValid (.src .src1) = true ∧
      (leaving.ctx .sec1).feed.bind (ownSource .sec1) = some .src3 ∧ leaving.srcState .src3 ≠ .down) :=
  ⟨⟨lone_of (by decide), by decide⟩, ⟨lone_of (by decide), by decide⟩, ⟨lone_of (by decide), by decide⟩, by decide,
    ⟨lone_of (by decide), threeEntries (by decide), by decide⟩, ⟨lone_of (by decide), by decide⟩,
    ⟨lone_of (by decide), by decide⟩, lone_of (by decide), by decide⟩

/-- A channel in a trip of SEQ1 since tick 0. -/
def tripping (c : Chan) (aux : Bool) : State → State :=
  onChan c fun r => { r with
    aux := .first aux, position := .opening, cmdClosed := false, tripEnd := some 90, op := some ⟨.trip, .seq .sec1, 0, 80, false⟩ }

/-- A channel in a close of SEQ1 since tick 0. -/
def closingSeq (c : Chan) : State → State :=
  onChan c fun r => { r with
    position := .closing, cmdClosed := true, closeEnd := some 200, op := some ⟨.close, .seq .sec1, 0, 300, false⟩ }

/-- Section 1 in a state of an open transfer to OWN_B with OWN_A lost. -/
def lostA (st : SeqState) : State :=
  transferring st [(3, 1, 11, 0)] fun c => { c with feed := none, lost := some ⟨.ownA, true⟩ }

/-- The same once BK1 has opened. -/
def lostOpen (st : SeqState) : State :=
  onChan .bk1 (fun r => { r with aux := .first false, position := .isOpen, cmdClosed := false }) (lostA st)

theorem witness_OpenTransferRuns :
    let ok (s : State) : Prop := (s.AutoAlone .sec1 ∧ s.TieOpen) ∧ (s.ctx .sec1).target = some ⟨.sec1, .ownB⟩ ∧
      (s.ctx .sec1).closedTrans = false
    let o (aux : Bool) := tripping .bk1 aux (down .src1 (lostA .opening))
    let none3 (s : State) := down .src3 (down .src1 s)
    let clearing := timed .src1 .pickup .pick 50 (lostOpen .decay)
    let failing := timed .src3 .dropout .drop 50 (down .src1 (lostOpen .decay))
    let cl (stop : Bool) := onSec .sec1 (fun c => { c with closeStop := stop }) (closingSeq .bk3 (lostOpen .closing))
    (∀ aux, ok (o aux) ∧ ((o aux).ctx .sec1).state = .opening ∧ (o aux).oldChan .sec1 = some .bk1 ∧
      ((o aux).bcu.get .bk1).op = some ⟨.trip, .seq .sec1, 0, 80, false⟩ ∧ ((o aux).bcu.get .bk1).position = .opening ∧
      (o aux).closed .bk1 = aux ∧ (o aux).eligible .sec1 ⟨.sec1, .ownB⟩ = true ∧ ((o aux).squ.buses.get .sec1).state ≠ .dead ∧
      ((o aux).bcu.get .bk1).prot.accepted = false) ∧
    (none3 (lostA .opening)).NoneHealthy .sec1 ∧
    (ok clearing ∧ (clearing.ctx .sec1).state = .decay ∧ (clearing.ctx .sec1).lost = some ⟨.ownA, true⟩ ∧
      (clearing.squ.srcs.get .src1).timer = some (.pick, 50) ∧ clearing.targetFits .sec1 ⟨.sec1, .ownB⟩ = true) ∧
    (ok failing ∧ (failing.ctx .sec1).state = .decay ∧ (failing.squ.srcs.get .src3).timer = some (.drop, 50) ∧
      (∀ g, failing.healthy? (failing.entrySource ⟨.sec1, g⟩) = true → failing.entrySource ⟨.sec1, g⟩ = some .src3)) ∧
    (∀ stop, ok (cl stop) ∧ ((cl stop).ctx .sec1).state = .closing ∧ ((cl stop).bcu.get .bk3).position = .closing ∧
      ((cl stop).bcu.get .bk3).op = some ⟨.close, .seq .sec1, 0, 300, false⟩ ∧ ((cl stop).bcu.get .bk3).aux.accepted = false ∧
      (cl stop).plan.sec .sec1 .autoReturn = 0 ∧ ((cl stop).ctx .sec1).closeStop = stop ∧ (cl stop).srcState .src3 ≠ .down ∧
      ((cl stop).bcu.get .bk3).prot.accepted = false ∧ ((cl stop).ctx .sec1).feed = none ∧ (cl stop).paths .sec1 = []) ∧
    (none3 (cl true)).NoneHealthy .sec1 ∧ (none3 (cl true)).srcState .src3 = .down :=
  ⟨fun aux => by cases aux <;> exact ⟨⟨lone_of (by decide), by decide⟩, by decide⟩, threeEntries (by decide),
    ⟨⟨lone_of (by decide), by decide⟩, by decide⟩, ⟨⟨lone_of (by decide), by decide⟩, by decide, by decide, threeEntries (by decide)⟩,
    fun stop => by cases stop <;> exact ⟨⟨lone_of (by decide), by decide⟩, by decide⟩, threeEntries (by decide), by decide⟩

/-- Section 1 in a state of a closed transfer from OWN_A to OWN_B. -/
def closedA (st : SeqState) (f : SecCtx → SecCtx) : State :=
  transferring st [(3, 1, 11, 0), (3, 1, 13, 1)] fun c => f { c with closedTrans := true }

theorem witness_ClosedTransferRuns :
    let ok (s : State) : Prop := (s.AutoAlone .sec1 ∧ s.TieOpen) ∧ (s.ctx .sec1).target = some ⟨.sec1, .ownB⟩ ∧
      (s.ctx .sec1).feed = some .ownA ∧ (s.ctx .sec1).closedTrans = true ∧ s.blocked = false ∧
      s.plan.sec .sec1 .autoReturn = 0 ∧ s.srcState .src1 ≠ .down ∧ s.srcState .src3 ≠ .down
    let cl (stop : Bool) := closingSeq .bk3 (closedA .closing fun c => { c with closeStop := stop })
    let ovA := tripping .bk1 true (shut .bk3 (closedA .overlap fun c => { c with outgoing := some .ownA }))
    let ovB := tripping .bk3 true (closedA .overlap fun c => { c with outgoing := some .ownB })
    let sy := onPoint (.src .src3) (measured ⟨.n2, .n0⟩ 2300 50000 0 100) (closedA .sync id)
    (∀ stop, ok (cl stop) ∧ ((cl stop).ctx .sec1).state = .closing ∧ ((cl stop).bcu.get .bk3).position = .closing ∧
      ((cl stop).bcu.get .bk3).op = some ⟨.close, .seq .sec1, 0, 300, false⟩ ∧ ((cl stop).bcu.get .bk3).aux.accepted = false ∧
      ((cl stop).bcu.get .bk1).position = .isClosed ∧ ((cl stop).ctx .sec1).closeStop = stop) ∧
    (ok ovA ∧ (ovA.ctx .sec1).state = .overlap ∧ (ovA.ctx .sec1).outgoing = some .ownA ∧
      (ovA.bcu.get .bk1).position = .opening ∧ (ovA.bcu.get .bk1).op = some ⟨.trip, .seq .sec1, 0, 80, false⟩ ∧
      ovA.closed .bk1 = true ∧ (ovA.bcu.get .bk3).position = .isClosed) ∧
    (ok ovB ∧ (ovB.ctx .sec1).state = .overlap ∧ (ovB.ctx .sec1).outgoing = some .ownB ∧
      (ovB.bcu.get .bk3).position = .opening ∧ ovB.closed .bk3 = true) ∧
    (ok sy ∧ (sy.ctx .sec1).state = .sync ∧ sy.pointValid (.src .src3) = true ∧ sy.srcState .src3 = .healthy) :=
  ⟨fun stop => by cases stop <;> exact ⟨⟨lone_of (by decide), by decide⟩, by decide⟩,
    ⟨⟨lone_of (by decide), by decide⟩, by decide⟩, ⟨⟨lone_of (by decide), by decide⟩, by decide⟩,
    ⟨lone_of (by decide), by decide⟩, by decide⟩

/-- A section's watch set, on a running link with BUS1 at address 3 of line HL_IN0 and SRC3 at address 2 of it, in frame 1010. -/
def watched (set : ItemSet) (s : State) : State :=
  let t := onPoint (.bus .sec1) (measured ⟨.n3, .n0⟩ 2300 50000 0 1000)
    (onPoint (.src .src3) (measured ⟨.n2, .n0⟩ 2300 50000 0 1003) s)
  { t with
    hlc := { t.hlc with link := .bound, rstLow := false, running := true, frameNo := 1010, lastEnded := some 1009 }
    ccu := { t.ccu with watches := ⟨some ⟨.incomer .src3, set, .sec1⟩, none⟩ } }

/-- DECAY and SYNC, a live summary and a dead one; and BUS1's head about to be LOST. -/
theorem witness_WatchesDecide :
    let ok (s : State) : Prop := s.AutoAlone .sec1 ∧ (s.ctx .sec1).target = some ⟨.sec1, .ownB⟩ ∧
      s.ccu.watches.get .sec2 = none ∧ (s.ctx .sec1).decayOver = false ∧ (s.ctx .sec1).deadOver = false ∧
      s.hlc.running = true ∧ s.hlc.discovery = .idle ∧ s.hlc.slot = none ∧
      (s.hlc.points.get (.bus .sec1)).bound = some ⟨.n3, .n0⟩ ∧ s.closeRefusal .bk3 = none ∧
      s.pointValid (.bus .sec1) = true
    let hears (s : State) (v : Nat) : Prop :=
      ((spoken v 50000 0).get .n0).good .n3 = true ∧ (((spoken v 50000 0).get .n0).summary s.hlc.frameNo).isSome = true ∧
      ∀ q, q ≠ .bus .sec1 → s.eventful (spoken v 50000 0) s.hlc.frameNo q = false
    let de := watched .openItems (lostOpen .decay)
    let sy := watched .closedItems (closedA .sync id)
    (ok de ∧ hears de 2300 ∧ hears de 100 ∧ (de.ctx .sec1).state = .decay ∧ de.plan.sec .sec1 .openMethod = 0 ∧
      de.ccu.watches.get .sec1 = some ⟨.incomer .src3, .openItems, .sec1⟩ ∧ (de.squ.buses.get .sec1).state ≠ .dead ∧
      de.plan.busState .sec1 2300 ≠ .dead ∧ de.plan.busState .sec1 100 = .dead) ∧
    (ok sy ∧ hears sy 2300 ∧ (sy.ctx .sec1).state = .sync ∧
      sy.ccu.watches.get .sec1 = some ⟨.incomer .src3, .closedItems, .sec1⟩) :=
  ⟨⟨⟨alone_of (by decide), by decide⟩,
      ⟨by decide, by decide, fun q h => by rcases q with x | b <;> [cases x; cases b] <;> first | decide | exact absurd rfl h⟩,
      ⟨by decide, by decide, fun q h => by rcases q with x | b <;> [cases x; cases b] <;> first | decide | exact absurd rfl h⟩,
      by decide⟩,
    ⟨alone_of (by decide), by decide⟩,
    ⟨by decide, by decide, fun q h => by rcases q with x | b <;> [cases x; cases b] <;> first | decide | exact absurd rfl h⟩,
    by decide⟩

/-- The block's entry in each state, and its release in FED and in WAIT_SOURCE with nothing HEALTHY. -/
theorem witness_BlockInAuto :
    let inState (st : SeqState) := onSec .sec1 (fun c => { c with state := st }) fed0
    let released (s : State) : State := { s with mdc := { s.mdc with blk := .first true } }
    let idle := released (down .src3 (down .src1 (waiting false fed0)))
    (∀ st, (inState st).AutoAlone .sec1 ∧ (inState st).blocked = false ∧
      ((inState st).ctx .sec1).feed.bind (ownSource .sec1) = some .src1 ∧ (inState st).srcState .src1 ≠ .down) ∧
    ((released fed0).AutoAlone .sec1 ∧ (released fed0).mdc.blk.accepted = true ∧ (released fed0).mdc.hostBlock = false ∧
      (released fed0).mdc.settle.get .sec1 = none ∧ ((released fed0).ctx .sec1).state = .fed ∧
      (released fed0).plan.sec .sec1 .autoReturn = 0) ∧
    (idle.AutoAlone .sec1 ∧ idle.mdc.blk.accepted = true ∧ (idle.ctx .sec1).state = .waitSource ∧
      (idle.ctx .sec1).target = none ∧ idle.NoneHealthy .sec1 ∧ idle.NoneHealthy .sec2) :=
  ⟨fun _ => ⟨alone_fed0, rfl, rfl, (by decide : fed0.srcState .src1 ≠ .down)⟩, ⟨alone_of (by decide), by decide⟩,
    alone_of (by decide), by decide, by decide, by decide, threeEntries (by decide), threeEntries (by decide)⟩

/-! ### Witnesses: the tie and two sections -/

/-- The claim test passing and failing by each condition; a supplying list; and the serving section of a dead closed tie. -/
theorem witness_TieTestsAndSelection :
    let lend := fedBoard [(3, 1, 1, 1)]
    (lend.claimTest .sec2 = none ∧ tied.claimTest .sec1 = some .owned ∧
      (onChan .bkt (fun r => { r with ready := .first false }) lend).claimTest .sec2 = some .tieUnavailable ∧
      lend.claimTest .sec1 = some .otherBusy ∧ (onSrc .src1 ⟨.dropout, .dead, none, 0⟩ lend).claimTest .sec2 = some .otherNotFed ∧
      (fedBoard [(5, 1, 1, 1), (5, 1, 2, 1), (1, 1, 15, 0)]).plan.budget .src1 = 0) ∧
    ((tied.ctx .sec1).role = .supplying ∧ (tied.ctx .sec2).role ≠ .supplying ∧
      (tied.ctx .sec2).state.atRest = true) ∧
    (let s := auto .sec1 (shut .bkt (boardOn defaultItems))
     s.closed .bkt = true ∧ (s.ctx .sec1).role = .sole ∧ (s.ctx .sec2).role = .sole ∧ s.serving = some .sec1) := by
  decide

/-- The tied board, section 1 closing BK4 for the island after SRC1's loss. -/
def exchanging : State :=
  let s := closingSeq .bk4 (sound .src4 (onChan .bk1 (fun r => { r with aux := .first false, position := .isOpen }) tied))
  onSec .sec1 (fun c => { c with
    state := .closing, feed := none, lost := some ⟨.ownA, true⟩, origin := some ⟨.sec1, .ownA⟩, target := some ⟨.sec2, .ownB⟩ }) s

/-- The tied board, section 1 closing BK3 for the island after SRC1's loss while section 2 waits in SYNC for its return. -/
def returning : State :=
  let s := closingSeq .bk3 (sound .src2 (sound .src3 (onChan .bk1 (fun r => { r with aux := .first false, position := .isOpen }) tied)))
  onSec .sec2 (fun c => { c with
    state := .sync, closedTrans := true, tSyncWait := some 90, target := some ⟨.sec2, .ownA⟩, origin := some ⟨.sec2, .tie⟩ })
    (onSec .sec1 (fun c => { c with
      state := .closing, feed := none, lost := some ⟨.ownA, true⟩, origin := some ⟨.sec1, .ownA⟩,
      target := some ⟨.sec1, .ownB⟩ }) s)

/-- The board's two paths BK1 and BK2 in parallel through BKT, section 1 in AUTO and section 2 in MANUAL. -/
def paralleled : State :=
  shut .bkt (shut .bk2 (onSec .sec2 (fun c => { c with state := .fed, feed := some .ownA })
    (fedBoard [(3, 1, 11, 0), (3, 2, 11, 0)])))

/-- The exchange; the tie open by itself and with protection, with a target and with none; a DOWN under TIE; and an own
incomer that opens in a parallel. -/
theorem witness_TwoSectionsAct :
    let ok (s : State) : Prop := (s.Calm ∧ s.NoGenerator) ∧ s.pst.pendingPage = none ∧ s.adopted = true ∧
      s.plan.sec .sec1 .autoReturn = 0 ∧ s.plan.sec .sec2 .autoReturn = 0 ∧ s.closed .bkt = true
    let next (s : State) : Option Entry := if s.held .sec2 then none else
      (s.plan.prefs .sec2).find? fun g => g != .tie && s.targetFits .sec2 ⟨.sec2, g⟩
    let s1 := exchanging
    let s2 := sound .src4 tied
    let lock := onChan .bkt (fun r => { r with position := .locked, prot := .first true }) tied
    let drop := timed .src1 .dropout .drop 50 tied
    let p := paralleled
    (ok s1 ∧ s1.mode .sec1 = .auto ∧ s1.mode .sec2 = .auto ∧ (s1.ctx .sec1).state = .closing ∧
      (s1.ctx .sec1).closedTrans = false ∧ (s1.ctx .sec1).closeStop = false ∧ (s1.ctx .sec1).target = some ⟨.sec2, .ownB⟩ ∧
      (s1.ctx .sec2).state = .fed ∧ (s1.ctx .sec2).feed = some .tie ∧ s1.closedPaths allSecs = [] ∧
      (s1.bcu.get .bk4).position = .closing ∧ (s1.bcu.get .bk4).op = some ⟨.close, .seq .sec1, 0, 300, false⟩ ∧
      s1.srcState .src4 ≠ .down) ∧
    (ok s2 ∧ s2.mode .sec2 = .auto ∧ s2.mode .sec1 = .auto ∧ (s2.ctx .sec2).state = .fed ∧ (s2.ctx .sec2).feed = some .tie ∧
      (s2.ctx .sec2).role = .dependent ∧ s2.closedPaths allSecs = [.src1] ∧ (s2.ctx .sec1).state = .fed ∧
      (s2.ctx .sec1).feed = some .ownA ∧ (s2.ctx .sec1).role = .supplying ∧ (s2.bcu.get .bkt).position = .isClosed ∧
      (s2.squ.buses.get .sec2).state ≠ .dead ∧ next s2 = some .ownB ∧ next tied = none) ∧
    (ok lock ∧ (lock.bcu.get .bkt).position = .locked ∧ (lock.bcu.get .bkt).prot.accepted = true) ∧
    (ok drop ∧ drop.mode .sec2 = .auto ∧ drop.feedSource .sec2 = some .src1 ∧ (drop.ctx .sec2).target = none ∧
      (drop.squ.srcs.get .src1).timer = some (.drop, 50)) ∧
    (ok p ∧ p.mode .sec1 = .auto ∧ p.mode .sec2 = .manual ∧ (p.ctx .sec1).state = .fed ∧ (p.ctx .sec1).feed = some .ownA ∧
      (p.bcu.get .bk1).position = .isClosed ∧ ∀ z, p.closed (srcChan z) = true ↔ z = .src1 ∨ z = .src2) :=
  ⟨⟨⟨⟨calm_of (by decide), utilities_of (by decide)⟩, by decide⟩, by decide⟩,
    ⟨⟨⟨calm_of (by decide), utilities_of (by decide)⟩, by decide⟩, by decide⟩,
    ⟨⟨⟨calm_of (by decide), utilities_of (by decide)⟩, by decide⟩, by decide⟩,
    ⟨⟨⟨calm_of (by decide), utilities_of (by decide)⟩, by decide⟩, by decide⟩,
    ⟨⟨calm_of (by decide), utilities_of (by decide)⟩, by decide⟩, by decide, by decide, by decide, by decide, by decide,
    fourSrcs (by decide)⟩

/-- A head that answers index 0 at address 0 on line HL_IN0, its frame written out from R195: READY, slots 1 and 2. -/
def identified : BySix InLine := ⟨⟨0xE00000, 0, 0x0101, 0, 0, 0, 0, 0, 0⟩, dumb, dumb, dumb, dumb, dumb⟩

/-- A command that waits; a read and a write under way; READY seen on some lines and at frame 799; and a discovery read
answered and not. -/
theorem witness_FramesAreHeard :
    let late (n : Word) (s : State) : State := { s with hlc := { s.hlc with frameNo := n } }
    let wait (s : State) : State := { s with hlc := { s.hlc with slot := s.hlc.slot.map fun c => { c with sentIn := none } } }
    let ready := starting (.ready (.all false)) none
    let read := late 810 (starting (.reading .n0) (some ⟨false, none, ⟨.n0, .n0⟩, 0, 0, some 801⟩))
    ((reading false).inReset = false ∧ (reading false).hlc.running = true ∧ (reading false).hlc.discovery = .idle ∧
      (∃ c, (reading false).hlc.slot = some c ∧ c.sentIn = some 400 ∧ c.write = false ∧ c.point.isSome = true) ∧
      (reading false).spt.service = some ⟨0x60, 9, .deferred⟩ ∧ 64 ≤ frameAge 500 400 ∧ 0 < frameAge 410 400 ∧
      frameAge 410 400 < 64 ∧ (∃ c, (wait (reading false)).hlc.slot = some c ∧ c.sentIn = none)) ∧
    (∃ c, (reading true).hlc.slot = some c ∧ c.sentIn.isSome = true ∧ c.write = true ∧
      (reading true).spt.service = some ⟨0x61, 9, .deferred⟩) ∧
    (ready.hlc.running = true ∧ ready.hlc.discovery = .ready (.all false) ∧ ready.hlc.slot = none ∧
      ready.hlc.frameNo.toNat < 799 ∧ 799 ≤ (late 799 ready).hlc.frameNo.toNat ∧ (identified.get .n0).ready = true ∧
      (identified.get .n1).ready = false) ∧
    (read.hlc.discovery = .reading .n0 ∧ nextAddress .n0 = some .n1 ∧ 0 < frameAge 810 801 ∧ 64 ≤ frameAge 865 801 ∧
      (identified.get .n0).good .n0 = true ∧ (identified.get .n0).echo = some (0, 0x0101) ∧
      (identified.get .n1).good .n0 = false) :=
  ⟨⟨by decide, by decide, by decide, ⟨_, rfl, by decide⟩, by decide, by decide, by decide, by decide, _, rfl, rfl⟩,
    ⟨_, rfl, by decide⟩, by decide, by decide⟩

/-! ### Tests of what one more rule says -/

/-- R47: with t_drop 0 a summary between the bands' thresholds takes a HEALTHY source to DOWN, with the cause against the
pickup band: 1950 of 2300 is under 850 ‰. -/
theorem test_down_has_pickup_cause :
    let it := itemsWith [(1, 1, 13, 0)]
    let s := sound .src1 (boardOn it)
    ((judgeSrc .src1 ⟨2300, 2300, 1950, 48000, 0, false, 0⟩ s).squ.srcs.get .src1).state = .down ∧
    ((judgeSrc .src1 ⟨2300, 2300, 1950, 48000, 0, false, 0⟩ s).squ.srcs.get .src1).cause =
      it.causeIn .src1 (it.pickupBand .src1) ⟨2300, 2300, 1950, 48000, 0, false, 0⟩ := by decide

/-- R24, R195: the TAG of frame 0 is sent in the first 24 periods with READY first; HL_SYNC marks the first period; the link
is idle low after the ninth slot. -/
theorem test_head_pins :
    let s : State := { board with hlc := { board.hlc with running := true, outFrame := ⟨0x800001, 0, 0xFFFFFF, 0⟩ } }
    s.clockRuns = true ∧ s.syncPulse 0 = true ∧ s.syncPulse 1 = false ∧ s.headOut 0 = true ∧ s.headOut 1 = false ∧
    s.headOut 23 = true ∧ s.headOut 24 = false ∧ s.headOut 48 = true ∧ s.headOut 72 = false ∧ s.headOut 230 = false ∧
    ({ s with inReset := true } : State).headOut 0 = false := by decide

/-- R179: the four straps, and the first byte of a reply on HM_TX, SYNC 0xC3 with its start and stop bits; high when idle. -/
theorem test_supervisory_line :
    let s := setService 1 7 (.sending ⟨.ok, .identity⟩) board
    baudRate 3 = baudRate 0 ∧ ((List.range 10).map s.transmit) =
      [false, true, true, false, false, false, false, true, true, true] ∧ board.transmit 0 = true := by decide

/-- R183, R193: a reply with a position; Δ0 as 16-bit two's complement. -/
theorem test_reply_bytes :
    (⟨.ok, .position .isClosed⟩ : Reply).inner 0x21 7 = [2, 0xA1, 7, 0, Position.isClosed.code] ∧
    signed16 (-1) = [0xFF, 0xFF] ∧ signed16 (-113) = [0xFF, 0x8F] := by decide

/-- R65, R116: a result with the permit, at the end of the frame that brings the summary, closes BK3 IN_PHASE. -/
theorem test_watch_closes :
    after (.headFrameEnd (spoken 2300 50000 300)) (watched .openItems (lostOpen .decay))
      (fun t => ((t.ctx .sec1).state, (t.ctx .sec1).method, (t.bcu.get .bk3).position))
      = some (.closing, .inPhase, .closing) := by decide

/-- R7: in a parallel through BKT, section 1's own incomer opens: it is DEPENDENT with feed TIE. -/
theorem test_parallel_splits_to_tie :
    after (.auxAccepted .bk1 false) paralleled (fun t => ((t.ctx .sec1).role, (t.ctx .sec1).feed, t.owner))
      = some (.dependent, some .tie, some .sec1) := by decide

/-- R178: POWER_UP is the first notice at an adoption whose island is over its budget with t_ovl 0. -/
theorem test_power_up_first :
    let s := shedBoard 250 [] (fedIsland none none)
    let it := (List.foldl (fun (i : Items) e => match itemAt e.1 e.2.1 e.2.2.1 with
      | some (k, _) => i.put k (BitVec.ofNat 32 e.2.2.2) | none => i) s.plan [(6, 0, 2, 0), (1, 3, 15, 100)])
    let t := adopt { s with
      adopted := false, pst := { s.pst with pages := s.pst.pages.set .p1 ⟨it, .valid, true⟩ },
      lmg := { s.lmg with islands := .notFormed } }
    (notes t).head? = some t.powerUpNote ∧ 1 < (notes t).length := by decide

/-- A page under which SRC3 leaves ABSENT; one under which it is no GENERATOR and the fitted, SHED feeder F01 is not fitted. -/
theorem witness_ActivationTakesEffect_changes :
    (defaultItems.kind .src3 = .absent ∧ (itemsWith [(1, 3, 1, 1)]).kind .src3 ≠ .absent) ∧
    (let it := itemsWith [(1, 3, 1, 2), (5, 1, 1, 1), (5, 1, 2, 3)]
     let s := boardOn it
     let t : State := { s with lmg := { s.lmg with
       feeders := s.lmg.feeders.set 0 { s.feeder 0 with shed := true }, shedStack := ⟨[0], []⟩ } }
     t.plan.kind .src3 = .generator ∧ defaultItems.kind .src3 ≠ .generator ∧ t.plan.fitted 0 = true ∧
      (itemsWith [(5, 1, 1, 0)]).fitted 0 = false ∧ (t.feeder 0).shed = true) := by decide

/-- Summaries inside the pickup band; outside the dropout band and not dead; and dead. -/
theorem witness_SummaryJudged_summaries :
    let it := board.plan
    let m (v : Nat) : Summary := ⟨v, v, v, 50000, 0, false, 500⟩
    it.causeIn .src1 (it.pickupBand .src1) (m 2300) = .none ∧
    it.causeIn .src1 (it.dropoutBand .src1) (m 1900) ≠ .none ∧ it.deadSummary .src1 (m 1900) = false ∧
    it.deadSummary .src1 (m 100) = true := by decide

/-! ### Witnesses of one more clause -/

/-- Section 1 fed by OWN_A beside BK3, closed by hand; and by OWN_A alone. -/
theorem witness_FeedLostInAuto_paths :
    let s := onSec .sec1 (fun c => { c with state := .sync }) (shut .bk3 fed0)
    ((s.AutoAlone .sec1 ∧ s.TieOpen) ∧ (s.ctx .sec1).feed = some .ownA ∧ (s.ctx .sec1).state = .sync ∧
      (s.bcu.get .bk1).position = .isClosed ∧ (s.bcu.get .bk1).aux.accepted = true ∧ s.closed .bk3 = true ∧
      s.srcState .src3 ≠ .down ∧ s.plan.sec .sec1 .autoReturn = 0 ∧ s.lmg.anns.get .sec1 = none) ∧
    fed0.paths .sec1 = [.src1] :=
  ⟨⟨lone_of (by decide), by decide⟩, by decide⟩

/-- Section 1 dead beside section 2's one path, with BKT open in any position. -/
theorem witness_RestStatesInAuto_tie :
    let s (st : SeqState) (p : Position) := onChan .bkt (fun r => { r with position := p })
      (shut .bk2 (onSec .sec1 (fun c => { c with state := st }) (waiting false fed0)))
    ∀ p, (((s .decay p).AutoAlone .sec1 ∧ (s .decay p).TieOpen) ∧ ((s .decay p).ctx .sec1).state = .decay ∧
        (s .decay p).paths .sec1 = [] ∧ (s .decay p).paths .sec2 = [.src2] ∧ (s .decay p).plan.sec .sec1 .autoReturn = 0) ∧
      ((s .waitSource p).AutoAlone .sec1 ∧ (s .waitSource p).TieOpen) ∧ ((s .waitSource p).ctx .sec1).state = .waitSource :=
  fun p => by
    cases p <;>
      exact ⟨⟨lone_of (by decide), by decide⟩, lone_of (by decide), by decide⟩

/-- The tripped incomer the one path, and beside BK3; and no path at the deadline. -/
theorem witness_OpenTransferRuns_paths :
    let o (aux : Bool) := tripping .bk1 aux (down .src1 (lostA .opening))
    let s := shut .bk3 (o true)
    ((o true).paths .sec1 = [.src1] ∧ (o false).paths .sec1 = []) ∧ (s.AutoAlone .sec1 ∧ s.TieOpen) ∧
    (s.ctx .sec1).target = some ⟨.sec1, .ownB⟩ ∧ (s.ctx .sec1).state = .opening ∧ s.oldChan .sec1 = some .bk1 ∧
    (s.bcu.get .bk1).op = some ⟨.trip, .seq .sec1, 0, 80, false⟩ ∧ (s.bcu.get .bk1).position = .opening ∧
    s.closed .bk1 = true ∧ s.closed .bk3 = true ∧ s.srcState .src3 ≠ .down ∧ s.plan.sec .sec1 .autoReturn = 0 :=
  ⟨by decide, lone_of (by decide), by decide⟩

/-- Section 1 fed by TIE with BK1 closed by hand beside section 2's BK2. -/
theorem witness_TwoSectionsAct_stays :
    let s := onSec .sec1 (fun c => { c with feed := some .tie }) paralleled
    ((s.Calm ∧ s.NoGenerator) ∧ s.pst.pendingPage = none ∧ s.adopted = true ∧ s.mode .sec1 = .auto ∧ s.mode .sec2 = .manual ∧
      s.plan.sec .sec1 .autoReturn = 0 ∧ s.plan.sec .sec2 .autoReturn = 0 ∧ s.closed .bkt = true) ∧
    (s.ctx .sec1).state = .fed ∧ (s.ctx .sec1).feed = some .tie ∧ s.srcState .src1 ≠ .down ∧
    (s.bcu.get .bk2).position = .isClosed ∧ s.lmg.anns.get .sec1 = none ∧
    ∀ z, s.closed (srcChan z) = true ↔ z = .src1 ∨ z = .src2 :=
  ⟨⟨⟨calm_of (by decide), utilities_of (by decide)⟩, by decide⟩, by decide, by decide, by decide, by decide, by decide,
    fourSrcs (by decide)⟩

/-- A dependent section in SYNC at the supplying section's own close. -/
theorem witness_TwoSectionsAct_sync :
    let s := returning
    ((s.Calm ∧ s.NoGenerator) ∧ s.pst.pendingPage = none ∧ s.adopted = true ∧ s.mode .sec1 = .auto ∧ s.mode .sec2 = .auto ∧
      s.plan.sec .sec1 .autoReturn = 0 ∧ s.plan.sec .sec2 .autoReturn = 0 ∧ s.closed .bkt = true) ∧
    (s.ctx .sec2).state = .sync ∧ (s.ctx .sec2).feed = some .tie ∧ (s.ctx .sec2).role = .dependent ∧
    (s.ctx .sec2).target = some ⟨.sec2, .ownA⟩ ∧ (s.ctx .sec1).state = .closing ∧ (s.ctx .sec1).closedTrans = false ∧
    (s.ctx .sec1).closeStop = false ∧ (s.ctx .sec1).target = some ⟨.sec1, .ownB⟩ ∧ s.closedPaths allSecs = [] ∧
    (s.bcu.get .bk3).position = .closing ∧ (s.bcu.get .bk3).op = some ⟨.close, .seq .sec1, 0, 300, false⟩ ∧
    s.srcState .src3 ≠ .down :=
  ⟨⟨⟨calm_of (by decide), utilities_of (by decide)⟩, by decide⟩, by decide⟩

/-- SYNC with fallback_open yes. -/
theorem witness_SequencerTimersExpire_fallback :
    let s := transferring .sync [(3, 1, 17, 1), (3, 1, 11, 0)] fun c => { c with closedTrans := true, tSyncWait := some 9 }
    (s.Calm ∧ s.NoGenerator) ∧ s.pst.pendingPage = none ∧ s.mode .sec1 = .auto ∧ s.mode .sec2 = .manual ∧
    (s.ctx .sec1).state = .sync ∧ (s.ctx .sec1).tSyncWait = some 9 ∧ s.plan.sec .sec1 .fallbackOpen = 1 ∧
    (s.ctx .sec1).lost = none ∧ (s.ctx .sec1).feed = some .ownA ∧ s.blocked = false ∧
    (s.bcu.get .bk1).position = .isClosed ∧ s.closed .bk1 = true :=
  ⟨⟨calm_of (by decide), utilities_of (by decide)⟩, by decide⟩

/-- A write that waits for the next frame, which is the turn of an address with a written word; and a LOST head. -/
def cmdOut : State :=
  let s := linked (.src .src1) { fresh3 with loss := 31 }
  { s with hlc := { s.hlc with
    slot := some ⟨true, some (.src .src1), ⟨.n3, .n0⟩, 30, 0xBEEF, none⟩
    words := (BySix.all ⟨0, false⟩ : BySix OutWord).set .n0 ⟨0x1234, true⟩ } }

theorem witness_FrameEnds_slots :
    (cmdOut.inReset = false ∧ cmdOut.hlc.running = true ∧ cmdOut.hlc.discovery = .idle ∧
      (∃ c, cmdOut.hlc.slot = some c ∧ c.sentIn = none ∧ c.write = true)) ∧
    (linked (.src .src1) fresh3).hlc.slot = none ∧
    ((linked (.src .src1) { fresh3 with status := .lost }).hlc.points.get (.src .src1)).status = .lost :=
  ⟨⟨by decide, by decide, by decide, _, rfl, by decide⟩, by decide⟩

/-- The read of the last address goes out in frame 801 and frame n ends. -/
def lastRead (n : Word) (f : State → State) : State :=
  let s := f (starting (.reading .n5) (some ⟨false, none, ⟨.n5, .n0⟩, 0, 0, some 801⟩))
  { s with hlc := { s.hlc with frameNo := n } }

/-- A head that answers index 0 at address 5, as SRC1 at once on every line. -/
def identified5 : BySix InLine := .all ⟨0xE05000, 0, 0x0101, 0, 0, 0, 0, 0, 0⟩

theorem sixPoints {P : Point → Prop} (h : (P (.src .src1) ∧ P (.src .src2) ∧ P (.src .src3) ∧ P (.src .src4)) ∧
    P (.bus .sec1) ∧ P (.bus .sec2)) : ∀ p, P p :=
  fun p => match p with
  | .src x => fourSrcs (P := fun x => P (.src x)) h.1 x
  | .bus b => bothSecs (P := fun b => P (.bus b)) h.2 b

theorem heard5 : Heard identified5 .n5 .n0 0x0101 := ⟨by decide, by decide⟩

theorem witness_LinkStartEnds_frame :
    let s (n : Word) := lastRead n (·.awaiting 0x62 9)
    ((s 810).Calm ∧ (s 810).adopted = true ∧ (s 810).hlc.discovery = .reading .n5 ∧
      (s 810).spt.service = some ⟨0x62, 9, .deferred⟩) ∧
    (s 810).LastReadEnds identified5 ∧ (s 865).LastReadEnds (.all dumb) :=
  ⟨⟨calm_of (by decide), by decide⟩,
    ⟨by decide, sixPoints (by decide), 801, rfl, by decide, .inl ⟨_, _, heard5⟩⟩,
    ⟨by decide, sixPoints (by decide), 801, rfl, by decide, .inr (by decide)⟩⟩

theorem witness_AdoptionFollowsTheBoard_frame :
    let s (n : Word) := lastRead n fun s => { s with adopted := false }
    ((s 810).Calm ∧ (s 810).adopted = false ∧ (s 810).hlc.discovery = .reading .n5) ∧
    (s 810).LastReadEnds identified5 ∧ (s 865).LastReadEnds (.all dumb) :=
  ⟨⟨calm_of (by decide), by decide⟩,
    ⟨by decide, sixPoints (by decide), 801, rfl, by decide, .inl ⟨_, _, heard5⟩⟩,
    ⟨by decide, sixPoints (by decide), 801, rfl, by decide, .inr (by decide)⟩⟩

/-- With BKT closed: BK1 closes as the one path, and beside BK2. -/
theorem witness_AuxChangeFollows_tie :
    let one := shut .bkt board
    let two := shut .bk2 one
    (one.Calm ∧ one.BothManual ∧ one.pst.pendingPage = none ∧ one.adopted = true ∧ (one.bcu.get .bk1).aux.accepted = !true) ∧
    after (.auxAccepted .bk1 true) one (fun t => (t.closed .bkt, t.closedPaths allSecs)) = some (true, [.src1]) ∧
    (two.bcu.get .bk1).aux.accepted = (!true) ∧
    after (.auxAccepted .bk1 true) two (fun t => (t.closed .bkt, t.closedPaths allSecs)) = some (true, [.src1, .src2]) :=
  ⟨⟨calm_of (by decide), manual_of (by decide), by decide⟩, by decide⟩

/-- A section in WAIT_SOURCE and one FED on an island of two paths go to AUTO; and a RESUME finds two paths. -/
theorem witness_ModesAndResume_parallel :
    let s (st : SeqState) := onSec .sec1 (fun c => { c with state := st })
      (shut .bkt (shut .bk1 (shut .bk2 (boardOn defaultItems))))
    let h := onSec .sec1 (fun x => { x with state := .halted, haltCause := .decayTimeout }) (shut .bk3 (shut .bk1 board))
    (∀ st, (s st).Ready ∧ (s st).adopted = true ∧ (s st).mode .sec1 = .manual ∧ (s st).pst.active ≠ none ∧
      2 ≤ ((s st).paths .sec1).length ∧ ((s st).ctx .sec1).state = st ∧ (s st).closed .bkt = true) ∧
    (h.Ready ∧ h.Still ∧ (h.ctx .sec1).state = .halted ∧ h.haltStands .sec1 = false ∧ 2 ≤ (h.paths .sec1).length) :=
  ⟨fun st => by cases st <;> exact ⟨ready_of (by decide), by decide⟩, ready_board, still_board, by decide⟩

/-! ### Tests of the board left by an opening -/

/-- R123, R164: with BK1 and BK3 closed by hand and section 1 in AUTO on OWN_A, BK1 opens: it is FED by OWN_B. -/
theorem test_parallel_left :
    after (.auxAccepted .bk1 false) (shut .bk3 fed0) (fun t => ((t.ctx .sec1).state, (t.ctx .sec1).feed, notes t))
      = some (.fed, some .ownB, [.breakerExternal .bk1 .externalOpen none]) := by decide

/-- R7, R143: fed by TIE in a parallel, the other section's path opens: FED by its own incomer and SUPPLYING. -/
theorem test_own_path_stays :
    after (.auxAccepted .bk2 false) (onSec .sec1 (fun c => { c with feed := some .tie }) paralleled)
      (fun t => ((t.ctx .sec1).role, (t.ctx .sec1).feed, t.owner)) = some (.supplying, some .ownA, some .sec2) := by decide

/-- R7, R120: in the CLOSING of a closed return in a parallel, the old incomer opens: the feed is TIE and the close stays that
of a closed transition. -/
theorem test_closing_falls_to_tie :
    after (.auxAccepted .bk1 false) (closingSeq .bk3 (onSec .sec1 (fun c => { c with
        state := .closing, target := some ⟨.sec1, .ownB⟩, closedTrans := true }) paralleled))
      (fun t => ((t.ctx .sec1).state, (t.ctx .sec1).feed, (t.ctx .sec1).closedTrans, (t.ctx .sec1).role))
      = some (.closing, some .tie, true, .dependent) := by decide

/-- R7, R86, R123: BKT closes during its trip onto the other section's path: the waiting section is FED on TIE. -/
theorem test_in_operation_feeds :
    after (.auxAccepted .bkt true) (onChan .bkt (fun r => { r with
        position := .opening, op := some ⟨.trip, .mdc, 0, 150, false⟩ }) (shut .bk2 (waiting false fed0)))
      (fun t => ((t.ctx .sec1).state, (t.ctx .sec1).feed, (t.bcu.get .bkt).position))
      = some (.fed, some .tie, .opening) := by decide

/-- R135: a dependent section in SYNC keeps its state, its feed and its timer through the supplying section's transfer. -/
theorem test_dependent_sync_stays :
    after (.auxAccepted .bk3 true) returning (fun t => (t.ctx .sec2, (t.ctx .sec1).state, (t.ctx .sec1).feed))
      = some (returning.ctx .sec2, .fed, some .ownB) := by decide

/-- The section told of BK1's change: FED, waiting or HALTED, with BK3 open or closed beside it; and a held channel. -/
theorem witness_AuxChangeFollows_tracks :
    let s (st : SeqState) := onSec .sec1 (fun c => { c with state := st }) board
    let held := onChan .bk1 (fun r => { r with position := .locked, prot := .first true }) (shut .bk1 board)
    (∀ st, (s st).Calm ∧ (s st).BothManual ∧ (s st).pst.pendingPage = none ∧ (s st).adopted = true ∧
      ((s st).bcu.get .bk1).aux.accepted = !true ∧ ((shut .bk3 (s st)).bcu.get .bk1).aux.accepted = !true) ∧
    (held.Calm ∧ held.BothManual ∧ held.adopted = true ∧ (held.bcu.get .bk1).aux.accepted = !false ∧
      (held.bcu.get .bk1).position = .locked) :=
  ⟨fun _ => ⟨⟨rfl, rfl⟩, still_board.2.1, rfl, rfl, rfl, rfl⟩, calm_of (by decide), still_board.2.1, by decide⟩

/-- R165: one path makes a waiting MANUAL section FED on it, a second keeps state and feed, the loss of the last makes it
wait, and a HALTED one stays with its feed following. -/
theorem test_manual_tracks :
    let seen (s : State) (n : Sec) := after (.auxAccepted .bk1 (!s.closed .bk1)) s fun t => ((t.ctx n).state, (t.ctx n).feed)
    let two := shut .bk3 (onSec .sec1 (fun c => { c with state := .fed, feed := some .ownB }) board)
    let halted := onSec .sec1 (fun c => { c with state := .halted }) board
    seen board .sec1 = some (.fed, some .ownA) ∧ seen two .sec1 = some (.fed, some .ownB) ∧
    seen (shut .bk1 board) .sec1 = some (.waitSource, none) ∧ seen halted .sec1 = some (.halted, some .ownA) ∧
    seen (shut .bkt board) .sec2 = some (.fed, some .tie) := by decide

/-- A record 239 and 240 frames old; a LOST head; and a read sent ten frames ago. -/
theorem witness_FrameEnds_ages :
    let r : PointRec := { fresh3 with fresh := true, last := some ⟨2300, 2300, 2300, 50000, 900, false, 7⟩ }
    let s (n : Word) (r : PointRec) (c : Option HeadCmd) : State :=
      let s := linked (.src .src1) r
      { s with hlc := { s.hlc with frameNo := n, slot := c } }
    let read : HeadCmd := ⟨false, some (.src .src1), ⟨.n3, .n0⟩, 5, 0, some 40⟩
    (∀ n r c, (s n r c).inReset = false ∧ (s n r c).hlc.running = true ∧ (s n r c).hlc.discovery = .idle) ∧
    frameAge 246 7 = 239 ∧ frameAge 247 7 = 240 ∧
    after (.headFrameEnd (.all dumb)) (s 246 r none) (fun t => (t.hlc.points.get (.src .src1)).fresh) = some true ∧
    after (.headFrameEnd (.all dumb)) (s 247 r none) (fun t => (t.hlc.points.get (.src .src1)).fresh) = some false ∧
    ((s 50 { r with status := .lost, loss := 32 } none).hlc.points.get (.src .src1)).status = .lost ∧
    (s 50 r (some read)).hlc.slot = some read ∧ read.sentIn = some 40 ∧
    after (.headFrameEnd (.all dumb)) (s 50 r (some read)) (fun t => (t.hlc.outFrame.tag.getLsbD 22, t.hlc.slot)) =
      some (false, some read) :=
  ⟨fun _ _ _ => ⟨rfl, rfl, rfl⟩, by decide⟩

/-- A restore timer that expires with the stacks empty. -/
theorem witness_IslandTimersExpire_empty :
    let s := shedBoard 250 [] (fedIsland (some 60653) none)
    s.inReset = false ∧ s.island .bus1 = some (fedIsland (some 60653) none) ∧ s.anyShed .bus1 = false := by decide

/-- An own entry that is eligible and ready, and no more once it is the excluded lost one; and a return that is due. -/
theorem witness_TieTestsAndSelection_eligible :
    let s := sound .src1 (onSec .sec1 (fun c => { c with state := .fed, feed := some .ownB }) (shut .bk3 board))
    let lost := onSec .sec1 (fun c => { c with lost := some ⟨.ownA, true⟩ }) s
    s.eligible .sec1 ⟨.sec1, .ownA⟩ = true ∧ s.ready .sec1 .ownA = true ∧ lost.eligible .sec1 ⟨.sec1, .ownA⟩ = false ∧
    s.eligible .sec1 ⟨.sec1, .ownB⟩ = false := by decide

/-! ### A DEAD bus at an entry into DECAY, and what else a section in AUTO meets -/

/-- BUS1 is DEAD. -/
def deadBus (s : State) : State :=
  { s with squ := { s.squ with buses := s.squ.buses.set .sec1 { s.squ.buses.get .sec1 with state := .dead } } }

/-- Section 1 waits, its list with TIE at its end, BK2 closed and section 2 FED in MANUAL by SRC2, which is about to be HEALTHY. -/
def tieChosen : State :=
  deadBus (timed .src2 .pickup .pick 50 (down .src3 (down .src1 (waiting false (shut .bk2
    (onSec .sec2 (fun c => { c with state := .fed, feed := some .ownA })
      (fedBoard [(3, 1, 11, 0), (3, 1, 3, 3), (1, 2, 1, 1)])))))))

/-- R115, R116, R130: the source of TIE is HEALTHY, the bus is DEAD, and the tie is claimed and closed in that event. -/
theorem test_dead_bus_claims :
    after (.pickExpiry .src2) tieChosen (fun t => ((t.ctx .sec1).state, (t.ctx .sec1).method, t.owner, (t.bcu.get .bkt).position))
      = some (.closing, .residual, some .sec1, .closing) := by decide

/-- OPENING on a DEAD bus, the target's trip pulse running or not. -/
def openingDead (busy : Bool) : State :=
  onChan .bk3 (fun r => if busy then { r with tripEnd := some 60 } else r) (deadBus (tripping .bk1 true (down .src1 (lostA .opening))))

/-- R117, log entry 63: the close refused at the entry into DECAY is not tried again in the event, and the section waits. -/
theorem test_refused_passed_over :
    after (.auxAccepted .bk1 false) (openingDead true) (fun t => ((t.ctx .sec1).state, t.agenda, notes t))
      = some (.waitSource, [], [.closeFail .sec1 .bk3 (.refused .interlock)]) := by decide

/-- A FAULTED and a LOCKED lost incomer that is closed; and a DEAD bus, the entry OWN_B and TIE. -/
theorem witness_RestStatesInAuto_dead :
    let ok (s : State) : Prop := (s.AutoAlone .sec1 ∧ s.TieOpen) ∧ (s.ctx .sec1).state = .waitSource ∧
      (s.ctx .sec1).feed = none ∧ s.held .sec1 = false
    let bad (p : Position) := onChan .bk1 (fun r => { r with position := p })
      (timed .src3 .pickup .pick 50 (down .src1 (waiting true fed0)))
    let own := deadBus (timed .src3 .pickup .pick 50 (down .src1 (waiting false fed0)))
    (∀ p, p = .faulted ∨ p = .locked → ok (bad p) ∧ ((bad p).ctx .sec1).lost = some ⟨.ownA, true⟩ ∧
      (bad p).healthy? ((bad p).entrySource ⟨.sec1, .ownA⟩) = false ∧ nextPicked (bad p) = some ⟨.sec1, .ownB⟩ ∧
      (bad p).closed .bk1 = true ∧ ((bad p).bcu.get .bk1).position = p) ∧
    (ok own ∧ (own.ctx .sec1).lost = none ∧ nextPicked own = some ⟨.sec1, .ownB⟩ ∧ own.ResidualNow .sec1 ∧
      own.closeRefusal .bk3 = none) ∧
    (ok tieChosen ∧ (tieChosen.ctx .sec1).lost = none ∧ (tieChosen.squ.srcs.get .src2).timer = some (.pick, 50) ∧
      (tieChosen.prefs .sec1).find? ((onSrc .src2 ⟨.healthy, .none, none, 0⟩ tieChosen).eligible .sec1) = some ⟨.sec1, .tie⟩ ∧
      tieChosen.ResidualNow .sec1 ∧ tieChosen.closeRefusal .bkt = none) :=
  ⟨fun p h => by rcases h with rfl | rfl <;> exact ⟨⟨lone_of (by decide), by decide⟩, by decide⟩,
    ⟨⟨lone_of (by decide), by decide⟩, by decide, by decide, ⟨by decide, by decide⟩, by decide⟩,
    ⟨lone_of (by decide), by decide⟩, by decide, by decide, by decide, ⟨by decide, by decide⟩, by decide⟩

/-- The trip of OPENING about to be confirmed on a DEAD bus, by AUX and at its deadline. -/
theorem witness_OpenTransferRuns_dead :
    let late := onChan .bk1 (fun r => { r with aux := .first false }) (openingDead false)
    let ok (s : State) : Prop := (s.AutoAlone .sec1 ∧ s.TieOpen) ∧ s.ResidualNow .sec1 ∧
      (s.ctx .sec1).target = some ⟨.sec1, .ownB⟩ ∧ (s.ctx .sec1).closedTrans = false ∧ (s.ctx .sec1).state = .opening ∧
      s.oldChan .sec1 = some .bk1 ∧ (s.bcu.get .bk1).op = some ⟨.trip, .seq .sec1, 0, 80, false⟩ ∧
      (s.bcu.get .bk1).position = .opening ∧ s.eligible .sec1 ⟨.sec1, .ownB⟩ = true ∧ s.closeRefusal .bk3 = none
    (ok (openingDead false) ∧ (openingDead false).paths .sec1 = [.src1]) ∧
    (ok late ∧ late.paths .sec1 = [] ∧ late.closed .bk1 = false) :=
  ⟨⟨⟨lone_of (by decide), ⟨by decide, by decide⟩, by decide⟩, by decide⟩,
    ⟨lone_of (by decide), ⟨by decide, by decide⟩, by decide⟩, by decide⟩

/-- t_dead expires with the target's trip pulse running and no other entry eligible; and an overlap whose target goes out. -/
theorem witness_SequencerTimersExpire_refused :
    let ok (s : State) : Prop := (s.Calm ∧ s.NoGenerator) ∧ s.pst.pendingPage = none ∧ s.mode .sec1 = .auto ∧
      s.mode .sec2 = .manual
    let s := onChan .bk3 (fun r => { r with tripEnd := some 60 })
      (openBoard [(3, 1, 4, 2)] fun c => { c with tDead := some 50, tDecayMax := some 3000, lost := some ⟨.ownA, true⟩, feed := none })
    let v := shut .bk3 (transferring .overlap [] fun c => { c with
      closedTrans := true, outgoing := some .ownB, tOverlap := some 100 })
    (ok s ∧ (s.ctx .sec1).state = .decay ∧ (s.ctx .sec1).tDead = some 50 ∧ s.plan.sec .sec1 .openMethod = 2 ∧
      (s.ctx .sec1).target = some ⟨.sec1, .ownB⟩ ∧ s.closeRefusal .bk3 = some .interlock ∧
      ∀ g ∈ s.selEntries .sec1, g ≠ ⟨.sec1, .ownB⟩ → s.eligible .sec1 g = false) ∧
    (ok v ∧ (v.ctx .sec1).state = .overlap ∧ (v.ctx .sec1).tOverlap = some 100 ∧ (v.ctx .sec1).outIsTarget = true) :=
  ⟨⟨⟨⟨calm_of (by decide), utilities_of (by decide)⟩, by decide⟩, by decide⟩,
    ⟨⟨calm_of (by decide), utilities_of (by decide)⟩, by decide⟩, by decide⟩

/-- A section in AUTO that is fed by TIE asks for its own OWN_A back by an open transfer: BKT is tripped (R109). -/
def askedBack : State :=
  onSec .sec1 (fun c => { c with feed := some .tie, role := .dependent })
    (onSec .sec2 (fun c => { c with state := .fed, feed := some .ownA, role := .supplying })
      (onChan .bk1 (fun r => { r with aux := .first false, position := .isOpen }) paralleled))

theorem witness_TransferRequested_tie :
    askedBack.Ready ∧ askedBack.AutoAlone .sec1 ∧ admits askedBack .ownA = true ∧ (askedBack.ctx .sec1).feed = some .tie ∧
    Entry.ownA ∈ askedBack.plan.prefs .sec1 ∧ askedBack.eligible .sec1 ⟨.sec1, .ownA⟩ = true ∧
    (askedBack.ctx .sec1).lost = none ∧ askedBack.returnsClosed .sec1 = false ∧
    (askedBack.bcu.get .bkt).position = .isClosed ∧ askedBack.closed .bkt = true :=
  ⟨ready_of (by decide), alone_of (by decide), by decide⟩

theorem test_transfer_request_from_tie :
    after (.transferRequest 1 1 1) askedBack (fun t => ((t.ctx .sec1).state, (t.bcu.get .bkt).position, answer t))
      = some (.opening, .opening, some (.ok, .empty)) := by decide

/-- A section in AUTO, HALTED: with no path, an entry to take and none; with one path; with two. And one that leaves AUTO with
the other FED in AUTO. -/
theorem witness_ModesAndResume_auto :
    let ok (s : State) : Prop := s.Ready ∧ (s.AutoAlone .sec1 ∧ s.TieOpen) ∧ (s.ctx .sec1).state = .halted ∧
      s.haltStands .sec1 = false ∧ s.plan.sec .sec1 .autoReturn = 0
    let stop := onSec .sec1 fun c => { c with state := .halted, haltCause := .decayTimeout, feed := none }
    let bare := stop (onChan .bk1 (fun r => { r with aux := .first false, position := .isOpen }) fed0)
    let next (s : State) : Option SecEntry := if s.held .sec1 then none else (s.prefs .sec1).find? (s.targetFits .sec1)
    let leaving := auto .sec2 (onSec .sec2 (fun c => { c with state := .fed }) (openBoard [(3, 2, 11, 0)] id))
    (ok bare ∧ bare.paths .sec1 = [] ∧ next bare = some ⟨.sec1, .ownA⟩ ∧ ¬bare.ResidualNow .sec1) ∧
    (ok (down .src3 (down .src1 bare)) ∧ next (down .src3 (down .src1 bare)) = none) ∧
    (ok (stop fed0) ∧ (stop fed0).paths .sec1 = [.src1] ∧ (stop fed0).srcState .src1 ≠ .down) ∧
    (ok (stop (shut .bk3 fed0)) ∧ 2 ≤ ((stop (shut .bk3 fed0)).paths .sec1).length) ∧
    (leaving.Ready ∧ leaving.adopted = true ∧ leaving.NoGenerator ∧ leaving.mode .sec1 = .auto ∧ leaving.mode .sec2 = .auto ∧
      leaving.closed .bkt = false ∧ (leaving.ctx .sec2).state = .fed ∧ leaving.plan.sec .sec2 .autoReturn = 0 ∧
      (leaving.ctx .sec1).state = .decay ∧ leaving.pst.pendingPage = none) :=
  ⟨⟨⟨ready_of (by decide), lone_of (by decide), by decide⟩, by decide, by decide, fun h => absurd h.1 (by decide)⟩,
    ⟨⟨ready_of (by decide), lone_of (by decide), by decide⟩, by decide⟩,
    ⟨⟨ready_of (by decide), lone_of (by decide), by decide⟩, by decide⟩,
    ⟨⟨ready_of (by decide), lone_of (by decide), by decide⟩, by decide⟩,
    ready_of (by decide), by decide, utilities_of (by decide), by decide⟩

end Sys2Proof.Tests
end

section
/-! The services of PLAN_WRITE and PLAN_COPY, one equation for each test of R14 and R15 and one for the effect, and the two
statements about the commands. -/

namespace Sys2Proof.Machine

variable {s t : State} {c : Instr} {tag : Byte} {r : Request}

/-! ### Requests answered at once -/

@[simp] theorem withArg_none {α : Type} (t : State) (f : α → Served) : withArg none t f = refuse .badArgument t := rfl

/-- A refused request changes nothing but the request in service (R183). -/
theorem exec_refused (h : c.request = some (tag, r)) (k : s.Ready) {st : Status}
    (d : serve r (s.awaiting r.kind tag) = refuse st (s.awaiting r.kind tag)) :
    exec c s = .next (s.replied r.kind tag st .empty) :=
  exec_done h k d (replied_twice ..)

/-- A request answered OK at once that leaves the part as it was. -/
theorem exec_unmoved (h : c.request = some (tag, r)) (k : s.Ready) {b : Body}
    (d : serve r (s.awaiting r.kind tag) = answerNow b (s.awaiting r.kind tag)) :
    exec c s = .next (s.replied r.kind tag .ok b) :=
  exec_done h k d (replied_twice ..)

/-- A request answered OK at once that stores a page. -/
theorem exec_storesPage (h : c.request = some (tag, r)) (k : s.Ready) {p : PageNo} {f : Page → Page} {b : Body}
    (d : serve r (s.awaiting r.kind tag) = answerNow b (modPage p f (s.awaiting r.kind tag))) :
    exec c s = .next ((modPage p f s).replied r.kind tag .ok b) :=
  exec_done h k d rfl

/-- A byte names no page exactly where it lies above 3 (R10). -/
theorem pageOf_eq_none_iff {b : Byte} : pageOf b = none ↔ 3 < b.toNat := by
  unfold pageOf
  split
  case h_5 not0 not1 not2 not3 =>
    simp only [imp_false, true_iff] at not0 not1 not2 not3 ⊢
    omega
  all_goals simp only [reduceCtorEq, false_iff]; omega

/-! ### PLAN_WRITE (R14) -/

section Write

variable {g i f : Byte} {v : Word} {k : Nat} {d : ItemSpec}

/-- Test 1: the address. -/
theorem serveWrite_noItem (a : itemAt g.toNat i.toNat f.toNat = none) :
    serveWrite g i f v t = refuse .badArgument t := by
  unfold serveWrite
  rw [a, withArg_none]

/-- Test 2: the page. -/
theorem serveWrite_inUse (a : itemAt g.toNat i.toNat f.toNat = some (k, d)) (u : t.pageInUse t.pst.edit = true) :
    serveWrite g i f v t = refuse .pageActive t := by
  unfold serveWrite
  rw [a, withArg_some]
  exact if_pos u

/-- Test 3: the value. -/
theorem serveWrite_outOfRange (a : itemAt g.toNat i.toNat f.toNat = some (k, d)) (u : ¬t.pageInUse t.pst.edit = true)
    (o : itemInRange g.toNat f.toNat d v.toNat = false) : serveWrite g i f v t = refuse .badArgument t := by
  unfold serveWrite
  rw [a, withArg_some]
  dsimp only
  rw [if_neg u, if_pos (by simp [o])]

/-- The effect of a write that passes. -/
theorem serveWrite_stores (a : itemAt g.toNat i.toNat f.toNat = some (k, d)) (u : ¬t.pageInUse t.pst.edit = true)
    (o : itemInRange g.toNat f.toNat d v.toNat = true) :
    serveWrite g i f v t = answerNow .empty (modPage t.pst.edit (fun q => ⟨q.items.put k v, .draft, false⟩) t) := by
  unfold serveWrite
  rw [a, withArg_some]
  dsimp only
  rw [if_neg u, if_neg (by simp [o])]

end Write

/-! ### PLAN_COPY (R15) -/

/-- Test 1: both numbers. -/
theorem serveCopy_noPage {a b : Byte} (h : pageOf a = none ∨ pageOf b = none) :
    serveCopy a b t = refuse .badArgument t := by
  unfold serveCopy
  rcases h with h | h
  · rw [h, withArg_none]
  · cases pageOf a with
    | none => rw [withArg_none]
    | some p => rw [withArg_some, h, withArg_none]

section Copy

variable {p q : PageNo}

/-- Equal pages: test 2 is not made. -/
theorem serveCopy_same (e : p = q) : serveCopy (pageCode p) (pageCode q) t = answerNow .empty t := by
  unfold serveCopy
  rw [pageOf_pageCode, withArg_some, pageOf_pageCode, withArg_some, if_pos e]

/-- Test 2: the destination. -/
theorem serveCopy_inUse (e : p ≠ q) (u : t.pageInUse q = true) :
    serveCopy (pageCode p) (pageCode q) t = refuse .pageActive t := by
  unfold serveCopy
  rw [pageOf_pageCode, withArg_some, pageOf_pageCode, withArg_some, if_neg e, if_pos u]

/-- The effect of a copy that passes. -/
theorem serveCopy_copies (e : p ≠ q) (u : ¬t.pageInUse q = true) : serveCopy (pageCode p) (pageCode q) t =
    answerNow .empty (modPage q (fun _ => ⟨(t.pst.pages.get p).items, (t.pst.pages.get p).status, false⟩) t) := by
  unfold serveCopy
  rw [pageOf_pageCode, withArg_some, pageOf_pageCode, withArg_some, if_neg e, if_neg u]

end Copy

/-! ### The two statements -/

/-- Settles O19: each test of R14 and the effect is one equation of the service of the request. -/
theorem planWriteStores : Obligations.PlanWriteStores := by
  intro s tag g i f v ready
  have asked : (Instr.planWrite tag g i f v).request = some (tag, .planWrite g i f v) := rfl
  refine ⟨fun a => ?noItem, fun k d a => ⟨fun u => ?inUse, fun u o => ?range, fun u o => ?stores⟩⟩
  case noItem => exact exec_refused asked ready (serveWrite_noItem a)
  case inUse => exact exec_refused asked ready (serveWrite_inUse a (pageInUse_iff.mpr u))
  case range => exact exec_refused asked ready (serveWrite_outOfRange a (mt pageInUse_iff.mp u) o)
  case stores => exact exec_storesPage asked ready (serveWrite_stores a (mt pageInUse_iff.mp u) o)

/-- Settles O20: equal pages are told apart before the destination is tested, as R15 has it. -/
theorem planCopyCopies : Obligations.PlanCopyCopies := by
  intro s tag ready
  have asked (a b : Byte) : (Instr.planCopy tag a b).request = some (tag, .planCopy a b) := rfl
  refine ⟨fun a b outside => ?noPage, fun p q => ⟨fun e => ?same, fun e u => ?inUse, fun e u => ?copies⟩⟩
  case noPage =>
    have noPage : pageOf a = none ∨ pageOf b = none := outside.imp pageOf_eq_none_iff.mpr pageOf_eq_none_iff.mpr
    exact exec_refused (asked _ _) ready (serveCopy_noPage noPage)
  case same => exact exec_unmoved (asked _ _) ready (serveCopy_same e)
  case inUse => exact exec_refused (asked _ _) ready (serveCopy_inUse e (pageInUse_iff.mpr u))
  case copies => exact exec_storesPage (asked _ _) ready (serveCopy_copies e (mt pageInUse_iff.mp u))

end Sys2Proof.Machine
end

section
/-! OUTPUT_SET (R96): how a latch write reads back, what an annunciator line shows in each use (R94, R95), the service of
the request, and the statement about the command. -/

namespace Sys2Proof.Machine

variable {s t : State} {l v : Byte} {k : Fin 4} {b : Bool}

/-! ### The operands -/

/-- A byte names no line exactly where it lies outside 1 to 4. -/
theorem lineOf_eq_none_iff : lineOf l = none ↔ l.toNat < 1 ∨ 4 < l.toNat := by
  unfold lineOf
  split <;> simp only [reduceCtorEq, false_iff, true_iff] <;> omega

theorem lineOf_eq_some (h : l.toNat = k.val + 1) : lineOf l = some k := by
  unfold lineOf
  rw [dif_pos (by omega)]
  exact congrArg some (Fin.ext (by simp only [h, Nat.add_sub_cancel]))

/-- A byte is no bit exactly where it lies above 1. -/
theorem bitOf_eq_none_iff : bitOf v = none ↔ 1 < v.toNat := by
  unfold bitOf
  split
  case h_3 not0 not1 =>
    simp only [imp_false, true_iff] at not0 not1 ⊢
    omega
  all_goals simp only [reduceCtorEq, false_iff]; omega

theorem bitOf_eq_some (h : v.toNat ≤ 1) : bitOf v = some (decide (v.toNat = 1)) := by
  have cases01 : v.toNat = 0 ∨ v.toNat = 1 := by omega
  unfold bitOf
  rcases cases01 with e | e <;> rw [e] <;> rfl

/-! ### The latches and the lines -/

/-- The write of one latch: that bit takes the value and no other bit moves. -/
theorem getLsbD_setLatch (m : BitVec 4) (k j : Fin 4) (b : Bool) :
    (setLatch m k b).getLsbD j.val = if j = k then b else m.getLsbD j.val := by
  have mask : (1#4 <<< k.val).getLsbD j.val = decide (j = k) := by
    rw [← BitVec.twoPow_eq, BitVec.getLsbD_twoPow]
    simp [Fin.ext_iff, eq_comm]
  have raised : (m ||| 1#4 <<< k.val).getLsbD j.val = if j = k then true else m.getLsbD j.val := by
    rw [BitVec.getLsbD_or, mask]
    by_cases e : j = k <;> simp [e]
  have cleared : (m &&& ~~~(1#4 <<< k.val)).getLsbD j.val = if j = k then false else m.getLsbD j.val := by
    rw [BitVec.getLsbD_and, BitVec.getLsbD_not, mask]
    by_cases e : j = k <;> simp [e]
  cases b with
  | false => exact cleared
  | true => exact raised

/-- The state after a write of one latch. -/
def State.latched (s : State) (k : Fin 4) (b : Bool) : State :=
  { s with mdc := { s.mdc with latches := setLatch s.mdc.latches k b } }

theorem latched_latch (s : State) (k j : Fin 4) (b : Bool) :
    (s.latched k b).mdc.latches.getLsbD j.val = if j = k then b else s.mdc.latches.getLsbD j.val :=
  getLsbD_setLatch ..

theorem latched_latch_self (s : State) (k : Fin 4) (b : Bool) : (s.latched k b).mdc.latches.getLsbD k.val = b :=
  (latched_latch ..).trans (if_pos rfl)

/-- No signal of R95 is formed from a latch. -/
@[simp] theorem latched_signal (s : State) (k : Fin 4) (b : Bool) (n : Nat) :
    (s.latched k b).signal n = s.signal n := rfl

/-- A line in LEVEL use has the level of its latch (R94). -/
theorem anLine_level (r : s.inReset = false) (u : s.plan.glob (useItem k) = 0) :
    s.anLine k = s.mdc.latches.getLsbD k.val := by
  simp only [State.anLine, State.anLevel, r, u, Bool.not_false, Bool.true_and]

/-- A line in TRACK use has the level of its signal (R94). -/
theorem anLine_track (r : s.inReset = false) (u : s.plan.glob (useItem k) ≠ 0) :
    s.anLine k = s.signal (s.plan.glob (useItem k)) := by
  simp only [State.anLine, State.anLevel, r, Bool.not_false, Bool.true_and]

/-! ### The service of OUTPUT_SET -/

theorem serveOutput_refuses (h : lineOf l = none ∨ bitOf v = none) : serveOutput l v t = refuse .badArgument t := by
  unfold serveOutput
  rcases h with h | h
  · rw [h, withArg_none]
  · cases lineOf l with
    | none => rw [withArg_none]
    | some k => rw [withArg_some, h, withArg_none]

theorem serveOutput_sets (hl : lineOf l = some k) (hv : bitOf v = some b) :
    serveOutput l v t = answerNow (.output b ((t.latched k b).anLine k)) (t.latched k b) := by
  unfold serveOutput
  rw [hl, withArg_some, hv, withArg_some]
  exact congrArg (fun x => answerNow (.output x ((t.latched k b).anLine k)) (t.latched k b)) (latched_latch_self ..)

/-- The request in service is no input of a line, so the reply is the one formed from the state before the request. -/
theorem exec_outputSet (tag : Byte) (ready : s.Ready) (hl : lineOf l = some k) (hv : bitOf v = some b) :
    exec (.outputSet tag l v) s =
      .next ((s.latched k b).replied 0x70 tag .ok (.output b ((s.latched k b).anLine k))) :=
  exec_done (r := .outputSet l v) rfl ready (serveOutput_sets hl hv) rfl

/-- Settles O32: the operand tests are the two parts of R96's refusal, and an accepted write is one latch. -/
theorem outputSetWrites : Obligations.OutputSetWrites := by
  intro s tag l v ready
  refine ⟨fun outside => ?refused, fun k line bit => ?written⟩
  case refused =>
    have noArg : lineOf l = none ∨ bitOf v = none := by rwa [lineOf_eq_none_iff, bitOf_eq_none_iff, or_assoc]
    exact exec_refused (r := .outputSet l v) rfl ready (serveOutput_refuses noArg)
  case written =>
    let t := s.latched k (decide (v.toNat = 1))
    have ran : t.inReset = false := ready.1.1
    exact ⟨t, exec_outputSet tag ready (lineOf_eq_some line) (bitOf_eq_some bit), rfl, (latched_latch s k · _),
      fun level => (anLine_level ran level).trans (latched_latch_self ..),
      fun track => (anLine_track ran track).trans (latched_signal ..)⟩

end Sys2Proof.Machine
end

section
/-! PING (R186): a request of no plan is served as soon as it is taken, with no hypothesis on the store load (R185); the
bytes of the identity; and the statement about the command. -/

namespace Sys2Proof.Machine

variable {s : State} {c : Instr} {tag : Byte} {r : Request}

/-- A request that is not a plan request is served at once, before the end of the store load too (R181, R185). -/
theorem exec_unheld (asked : c.request = some (tag, r)) (noPlan : r.isPlan = false) (ran : s.inReset = false)
    (free : s.spt.service = none) :
    exec c s = .next (conclude r.kind tag (serve r (s.awaiting r.kind tag))) := by
  have taken : takeRequest tag r s = serveNow r.kind tag r s := by
    unfold takeRequest
    rw [if_neg (by simp [free]), if_neg (by simp [noPlan])]
  rw [exec_request asked, live_on _ ran, taken]
  rfl

/-- The bytes of the reply to PING before its check: LEN counts STATUS and the five bytes of the identity (R183, R186). -/
theorem inner_identity (tag : Byte) :
    (⟨.ok, .identity⟩ : Reply).inner 0x01 tag = [6, 0x81, tag, 0, 0x4A, 0x03, 0x50, 0x42, 1] := rfl

/-- Settles O18: the service of PING answers at once from no part of the state. -/
theorem pingAnswers : Obligations.PingAnswers := by
  intro s tag ran free
  have served : serve .ping (s.awaiting 0x01 tag) = answerNow .identity (s.awaiting 0x01 tag) := rfl
  refine ⟨?answered, ?framed⟩
  case answered =>
    calc exec (.ping tag) s
        = .next (conclude 0x01 tag (serve .ping (s.awaiting 0x01 tag))) := exec_unheld (r := .ping) rfl rfl ran free
      _ = .next (s.replied 0x01 tag .ok .identity) := by rw [served, answerNow, conclude_done, replied_twice]
  case framed =>
    unfold Reply.frame
    rw [inner_identity]
    rfl

end Sys2Proof.Machine
end

section
/-! The laws every step keeps. What a step can do outside the queue of commands is said once as an induction principle
(`step_keeps`); the laws of the notice queue, the coils, the channel records, the pages in use and the shed records are
then proved move by move. -/

namespace Sys2Proof.Machine

variable {s t u : State}

/-! ### The queue of commands -/

/-- Settles O1. -/
theorem stepTakesFront : Obligations.StepTakesFront := fun _ _ _ => rfl

/-! ### What the tie arbiter leaves alone -/

/-- t is s but for the owner of the tie, the sequencers' contexts and the waiting reports. -/
def TieOnly (s t : State) : Prop := t = { s with owner := t.owner, seqs := t.seqs, agenda := t.agenda }

namespace TieOnly

theorem trans (h : TieOnly s t) (k : TieOnly t u) : TieOnly s u := by
  unfold TieOnly at *
  rw [k, h]

theorem eq (h : TieOnly s t) : t = { s with owner := t.owner, seqs := t.seqs, agenda := t.agenda } := h

theorem unmoved (h : TieOnly s t) : t.unmoved = s.unmoved := (congrArg State.unmoved h.eq :)
theorem bcu_eq (h : TieOnly s t) : t.bcu = s.bcu := (congrArg State.bcu h.eq :)
theorem pst_eq (h : TieOnly s t) : t.pst = s.pst := (congrArg State.pst h.eq :)
theorem lmg_eq (h : TieOnly s t) : t.lmg = s.lmg := (congrArg State.lmg h.eq :)
theorem mdc_eq (h : TieOnly s t) : t.mdc = s.mdc := (congrArg State.mdc h.eq :)
theorem spt_eq (h : TieOnly s t) : t.spt = s.spt := (congrArg State.spt h.eq :)
theorem inReset_eq (h : TieOnly s t) : t.inReset = s.inReset := (congrArg State.inReset h.eq :)
theorem adopted_eq (h : TieOnly s t) : t.adopted = s.adopted := (congrArg State.adopted h.eq :)

end TieOnly

theorem setOwner_tieOnly (o : Option Sec) (s : State) : TieOnly s (setOwner o s) := by
  unfold setOwner
  split <;> rfl

theorem releaseTieFor_tieOnly (c : Chan) (s : State) : TieOnly s (releaseTieFor c s) := by
  unfold releaseTieFor
  split
  · exact setOwner_tieOnly none s
  · rfl

theorem setRoles_tieOnly (r1 r2 : Role) (s : State) : TieOnly s (setRoles r1 r2 s) := rfl

theorem tieFromBoard_tieOnly (s : State) : TieOnly s (tieFromBoard s) := by
  unfold tieFromBoard
  split
  · split
    · split <;> exact (setRoles_tieOnly _ _ s).trans (setOwner_tieOnly _ _)
    · rfl
  · exact (setRoles_tieOnly _ _ s).trans (setOwner_tieOnly _ _)

/-! ### The moves on channels, feeders and lines -/

theorem startTrip_bcu (c : Chan) (q : Requester) (s : State) : (startTrip c q s).bcu =
    s.bcu.set c ((s.bcu.get c).trip q s.now (s.tripWidth c) (s.plan.chan c .tripConfirm)) := by
  unfold startTrip
  dsimp only
  split
  · rw [(releaseTieFor_tieOnly _ _).bcu_eq]
    simp
  · simp

theorem startTrip_spt (c : Chan) (q : Requester) (s : State) : (startTrip c q s).spt = s.spt := by
  unfold startTrip
  dsimp only
  split
  · rw [(releaseTieFor_tieOnly _ _).spt_eq]
    simp
  · simp

theorem startTrip_pst (c : Chan) (q : Requester) (s : State) : (startTrip c q s).pst = s.pst := by
  unfold startTrip
  dsimp only
  split
  · rw [(releaseTieFor_tieOnly _ _).pst_eq]
    simp
  · simp

theorem startTrip_lmg (c : Chan) (q : Requester) (s : State) : (startTrip c q s).lmg = s.lmg := by
  unfold startTrip
  dsimp only
  split
  · rw [(releaseTieFor_tieOnly _ _).lmg_eq]
    simp
  · simp

/-- A law of every channel record is kept where one record is replaced by a lawful one. -/
theorem forall_get_set {P : ChanRec → Prop} {t : ByChan ChanRec} (all : ∀ d, P (t.get d)) {c : Chan} {r : ChanRec}
    (new : P r) (d : Chan) : P ((t.set c r).get d) := by
  rw [ByChan.get_set]
  split
  · exact new
  · exact all d

/-- What the tests of a close trigger leave of a channel that passes them (R81). -/
theorem closeRefusal_none {c : Chan} (ok : s.closeRefusal c = none) : s.blocked = false ∧
    (s.bcu.get c).tripEnd = none ∧ (s.bcu.get c).closeEnd = none ∧ (s.bcu.get c).available = true := by
  unfold State.closeRefusal at ok
  split at ok
  · cases ok
  rename_i unblocked
  split at ok
  · cases ok
  rename_i noTrip
  split at ok
  · cases ok
  rename_i noClose
  split at ok
  · cases ok
  rename_i available
  refine ⟨by simpa using unblocked, by simpa using noTrip, by simpa using noClose, ?_⟩
  unfold State.avail at available
  simpa using available

/-- A law of each channel record that a close, a trip, a stop and a learned time keep is kept by the taking of reports. -/
theorem Moves.chans {P : ChanRec → Prop} (h : Moves s t)
    (closes : s.blocked = false → ∀ r : ChanRec, P r → r.available = true → r.tripEnd = none →
      ∀ w q now d, P { r with closeEnd := w, cmdClosed := true, position := .closing, op := some ⟨.close, q, now, d, false⟩ })
    (trips : s.blocked = false → ∀ r, P r → ∀ q now w k, P (r.trip q now w k))
    (stops : ∀ r, P r → P r.stop) (learns : ∀ r, P r → ∀ v, P { r with tc := v }) (base : ∀ c, P (s.bcu.get c)) :
    ∀ c, P (t.bcu.get c) := by
  induction h with
  | refl => exact base
  | other _ e ih =>
    have same := congrArg Guarded.bcu e
    exact fun c => (congrArg (fun b : ByChan ChanRec => P (b.get c)) same :).mpr (ih c)
  | noted _ n ih => simpa using ih
  | @close t k c q ok ih =>
    obtain ⟨unblocked, noTrip, -, available⟩ := closeRefusal_none ok
    simpa [startClose] using
      forall_get_set ih (closes (k.blocked_eq ▸ unblocked) _ (ih c) available noTrip _ q t.now _)
  | @claim t k n _ _ ok ih =>
    obtain ⟨unblocked, noTrip, -, available⟩ := closeRefusal_none ok
    have all : ∀ d, P ((setOwner (some n) t).bcu.get d) := by simpa using ih
    simpa [startClose] using
      forall_get_set ih (closes (k.blocked_eq ▸ unblocked) _ (ih .bkt) available noTrip _ (.seq n) t.now _)
  | release _ ih => simpa [releaseTie] using ih
  | trip k c q ok ih =>
    rw [startTrip_bcu]
    exact forall_get_set ih (trips (k.blocked_eq ▸ ok) _ (ih c) _ _ _ _)
  | stop _ c ih => simpa [stopPulse] using forall_get_set ih (stops _ (ih c))
  | learned _ c v ih => simpa using forall_get_set ih (learns _ (ih c) v)
  | shed _ f _ ih => simpa [markShed] using ih
  | back _ f _ ih => simpa [markBack] using ih
  | pop _ n f _ ih => simpa [markBack] using ih
  | demand _ f v ih => simpa using ih
  | drive _ f ih => simpa using ih
  | drop _ _ ih => exact ih
  | activate _ p _ ih => exact ih

namespace Acts

/-- What an act leaves alone whatever its kind: reset, and the commands that wait. -/
theorem frame (h : Acts s t) : t.inReset = s.inReset ∧ t.pending = s.pending := by
  have tied : ∀ {u v : State}, TieOnly u v → u.inReset = s.inReset ∧ u.pending = s.pending →
      v.inReset = s.inReset ∧ v.pending = s.pending := fun k ih =>
    ⟨k.inReset_eq.trans ih.1, (congrArg Unmoved.pending k.unmoved).trans ih.2⟩
  have moved : ∀ {u v : State}, Moves u v → u.inReset = s.inReset ∧ u.pending = s.pending →
      v.inReset = s.inReset ∧ v.pending = s.pending := fun k ih => ⟨k.inReset_eq.trans ih.1, k.pending_eq.trans ih.2⟩
  induction h with
  | refl => exact ⟨rfl, rfl⟩
  | moves _ k ih => exact moved k ih
  | auxLate _ c l e ad ih => exact tied (tieFromBoard_tieOnly _) (by simpa using ih)
  | auxEarly _ c l e ad ih => simpa using ih
  | tie _ ad ih => exact tied (tieFromBoard_tieOnly _) ih
  | lock _ c ok ih => simpa using ih
  | lockTie _ c ih => exact tied (releaseTieFor_tieOnly _ _) (by simpa using ih)
  | failClose _ c ih => exact tied (releaseTieFor_tieOnly _ _) (by simpa using ih)
  | failTrip _ c e ih => simpa using ih
  | tripDone _ c e k ih => simpa using ih
  | clear _ c e ih => simpa using ih
  | blockOn _ m e b ih => exact moved (stopAllPulses_moves .refl) ih
  | blockOff _ m e b u ih => exact moved (driveAllLines_moves .refl) ih
  | _ => assumption

theorem inReset_eq (h : Acts s t) : t.inReset = s.inReset := h.frame.1
theorem pending_eq (h : Acts s t) : t.pending = s.pending := h.frame.2

end Acts

/-! ### Reset and the tick -/

theorem tornStore_eq (s : State) :
    tornStore s = { s with pst := { s.pst with store := (tornStore s).pst.store }, freeCount := (tornStore s).freeCount } := by
  unfold tornStore
  split <;> rfl

@[simp] theorem tornStore_pending (s : State) : (tornStore s).pending = s.pending := by rw [tornStore_eq]
@[simp] theorem tornStore_spt (s : State) : (tornStore s).spt = s.spt := by rw [tornStore_eq]
@[simp] theorem tornStore_bcu (s : State) : (tornStore s).bcu = s.bcu := by rw [tornStore_eq]
@[simp] theorem tornStore_hlc (s : State) : (tornStore s).hlc = s.hlc := by rw [tornStore_eq]
@[simp] theorem tornStore_lmg (s : State) : (tornStore s).lmg = s.lmg := by rw [tornStore_eq]
@[simp] theorem tornStore_mdc (s : State) : (tornStore s).mdc = s.mdc := by rw [tornStore_eq]
@[simp] theorem tornStore_seqs (s : State) : (tornStore s).seqs = s.seqs := by rw [tornStore_eq]
@[simp] theorem tornStore_owner (s : State) : (tornStore s).owner = s.owner := by rw [tornStore_eq]
@[simp] theorem tornStore_adopted (s : State) : (tornStore s).adopted = s.adopted := by rw [tornStore_eq]

/-- The assertion of RSTn, out of reset. -/
theorem assertReset_on (out : s.inReset = false) : assertReset s =
    { s with
      inReset := true
      pst := { s.pst with writes := [], store := (tornStore s).pst.store }
      bcu := s.bcu.map ChanRec.quiet
      hlc := { s.hlc with rstLow := true, rstEnd := none, running := false, outFrame := ⟨0, 0, 0, 0⟩ }
      lmg := { s.lmg with lines := linesOff }
      spt := { s.spt with hmDe := false, rx := .hunting, rxGap := none, service := none }
      agenda := []
      freeCount := (tornStore s).freeCount } := by
  unfold assertReset
  rw [if_neg (by simp [out]), tornStore_eq]
  rfl

/-- In reset RSTn is asserted already. -/
theorem assertReset_off (low : s.inReset = true) : assertReset s = s := if_pos low

/-- What a sample leaves of a channel record: all but the raw side of its inputs. -/
theorem sample_alike (r : ChanRec) (now d : Nat) : r.Alike (r.sample now d) := by
  refine ⟨rfl, rfl, rfl, rfl, ?_⟩
  show (InputPin.sample _ _ _).accepted = _
  unfold InputPin.sample
  split
  · rfl
  · split <;> rfl

@[simp] theorem sample_accepted (p : InputPin) (now d : Nat) : (p.sample now d).accepted = p.accepted := by
  unfold InputPin.sample
  split
  · rfl
  · split <;> rfl

/-- A tick moves the tick count, the sampling of the channels' inputs, and that of BLKn. -/
theorem tick_eq (s : State) :
    tick s = { s with now := s.now + 1, bcu := (tick s).bcu, mdc := { s.mdc with blk := s.mdc.blk.sample (s.now + 1) 5 } } :=
  rfl

/-- A tick samples each channel's inputs. -/
theorem tick_chan (s : State) (c : Chan) :
    (tick s).bcu.get c = (s.bcu.get c).sample (s.now + 1) (s.plan.chan c .debounce) := by
  cases c <;> rfl

@[simp] theorem tick_blocked (s : State) : (tick s).blocked = s.blocked := by
  rw [tick_eq]
  simp [State.blocked]

/-- A law that does not look at the queue of commands, and that every act, the assertion of RSTn, the release and a tick
keep, is kept by every step. -/
theorem step_keeps {P : State → Prop}
    (queue : ∀ s l k, P s → P { s with pending := l, freeCount := k })
    (acts : ∀ s t, s.inReset = false → P s → Acts s t → P t)
    (asserted : ∀ s, s.inReset = false → P s → P (assertReset s))
    (booted : ∀ s b p st k l, P s → s.inReset = true → P (State.boot b p st k l))
    (ticked : ∀ s, P s → P (tick s)) :
    ∀ s t, P s → step s = .next t → P t := by
  intro s t law h
  rcases step_cases h with ⟨c, rest, -, made⟩ | ⟨-, rfl | rfl | ⟨c, k, rfl⟩⟩
  · have law' : P { s with pending := rest } := queue s rest s.freeCount law
    rcases made with rfl | ⟨out, done⟩ | rfl | ⟨b, p, low, rfl⟩
    · exact law'
    · exact acts _ _ out law' done
    · by_cases low : s.inReset = true
      · rwa [assertReset_off (s := { s with pending := rest }) low]
      · exact asserted _ (by simpa using low) law'
    · exact booted _ _ _ _ _ _ law' low
  · exact law
  · exact ticked _ law
  · exact queue s [c] k law

/-- Settles O3: no act touches the queue, and neither reset nor its release does. -/
theorem execKeepsQueue : Obligations.ExecKeepsQueue := by
  intro c s
  obtain ⟨t, ran, made⟩ := exec_cases c s
  refine ⟨t, ran, ?_⟩
  rcases made with rfl | ⟨-, done⟩ | rfl | ⟨b, p, -, rfl⟩
  · rfl
  · exact done.pending_eq
  · cases low : s.inReset with
    | false => rw [assertReset_on low]
    | true => rw [assertReset_off low]
  · rfl

/-- Settles O2. -/
theorem idleStep : Obligations.IdleStep := by
  intro s empty
  have waits : step s = .next (idle s) := by
    unfold step
    rw [empty]
  refine ⟨fun low => ?reset, fun c out one => ?event, fun out none => ⟨tick s, ?ticks, ?frame, tick_blocked s, fun c => ?chan⟩⟩
  case reset => rw [waits, idle, if_pos low]
  case event => rw [waits, idle, if_neg (by simp [out]), one]
  case ticks => rw [waits, idle, if_neg (by simp [out]), none]
  case frame =>
    calc tick s = { s with now := s.now + 1, bcu := (tick s).bcu, mdc := { s.mdc with blk := s.mdc.blk.sample (s.now + 1) 5 } } :=
          tick_eq s
      _ = { s with now := s.now + 1, bcu := (tick s).bcu, mdc := { s.mdc with blk := (tick s).mdc.blk } } := by
          rw [show (tick s).mdc.blk = s.mdc.blk.sample (s.now + 1) 5 from congrArg (·.mdc.blk) (tick_eq s)]
  case chan =>
    rw [tick_chan]
    exact ⟨sample_accepted .., sample_accepted .., sample_accepted .., sample_accepted .., rfl, rfl, rfl, rfl⟩

end Sys2Proof.Machine
end

section
/-! The laws of the notice queue (R190), the coils (R80), the channel records (R79) and the pages in use (R11, R14, R15):
each is kept by the moves, by the acts, by reset and by the tick. -/

namespace Sys2Proof.Machine

variable {s t u : State}

/-! ### The notice queue (R190) -/

theorem State.QueueBounded.of_queue (e : t.spt.queue = s.spt.queue) (h : s.QueueBounded) : t.QueueBounded := by
  unfold State.QueueBounded
  rw [e]
  exact h

/-- Only a queue of fewer than 32 notices takes one more. -/
theorem State.QueueBounded.post (n : Note) (h : s.QueueBounded) : (post n s).QueueBounded := by
  unfold Machine.post
  split
  · rename_i room
    simpa [State.QueueBounded] using room
  · exact h

theorem State.QueueBounded.moves (h : s.QueueBounded) (k : Moves s t) : t.QueueBounded := by
  induction k with
  | refl => exact h
  | other _ e ih => exact .of_queue (congrArg (·.spt.queue) e) ih
  | noted _ n ih => exact .post n ih
  | close _ c q _ ih => exact .of_queue (by simp [startClose]) ih
  | claim _ n _ _ _ ih => exact .of_queue (by simp [startClose]) ih
  | release _ ih => exact .of_queue (by simp [releaseTie]) ih
  | trip _ c q _ ih => exact .of_queue (by rw [startTrip_spt]) ih
  | stop _ c ih => exact .of_queue (by simp [stopPulse]) ih
  | learned _ c v ih => exact .of_queue (by simp) ih
  | shed _ f _ ih => exact .of_queue (by simp [markShed]) ih
  | back _ f _ ih => exact .of_queue (by simp [markBack]) ih
  | pop _ n f _ ih => exact .of_queue (by simp [markBack]) ih
  | demand _ f v ih => exact ih
  | drive _ f ih => exact .of_queue (by simp) ih
  | drop _ _ ih => exact ih
  | activate _ p _ ih => exact ih

theorem State.QueueBounded.tied (k : TieOnly t u) (h : t.QueueBounded) : u.QueueBounded := .of_queue (by rw [k.spt_eq]) h

theorem State.QueueBounded.acts (h : s.QueueBounded) (k : Acts s t) : t.QueueBounded := by
  induction k with
  | refl => exact h
  | moves _ k ih => exact ih.moves k
  | line _ p e ih => exact .of_queue e ih
  | @taken t _ n rest o e ih =>
    have shorter : rest.length ≤ t.spt.queue.length := by simp [e]
    exact shorter.trans ih
  | auxLate _ c l _ _ ih => exact .tied (tieFromBoard_tieOnly _) (.of_queue (by simp) ih)
  | auxEarly _ c l _ _ ih => exact .of_queue (by simp) ih
  | tie _ _ ih => exact .tied (tieFromBoard_tieOnly _) ih
  | lock _ c _ ih => exact .of_queue (by simp) ih
  | lockTie _ c ih => exact .tied (releaseTieFor_tieOnly _ _) (.of_queue (by simp) ih)
  | failClose _ c ih => exact .tied (releaseTieFor_tieOnly _ _) (.of_queue (by simp) ih)
  | failTrip _ c _ ih => exact .of_queue (by simp) ih
  | tripDone _ c _ _ ih => exact .of_queue (by simp) ih
  | clear _ c _ ih => exact .of_queue (by simp) ih
  | @blockOn t _ m _ _ ih => exact State.QueueBounded.moves (s := { t with mdc := m }) ih (stopAllPulses_moves .refl)
  | @blockOff t _ m _ _ _ ih => exact State.QueueBounded.moves (s := { t with mdc := m }) ih (driveAllLines_moves .refl)
  | _ => assumption

/-- Settles O4: posting is the only move that lengthens the queue. -/
theorem stepKeepsQueueBounded : Obligations.StepKeepsQueueBounded := by
  refine step_keeps (fun s l k h => h) (fun s t _ h k => h.acts k) (fun s out h => ?asserted)
    (fun s b p st k l _ _ => Nat.zero_le _) (fun s h => ?ticked)
  case asserted => exact .of_queue (by rw [assertReset_on out]) h
  case ticked => exact .of_queue (by rw [tick_eq]) h

/-! ### The coils (R80) -/

/-- The law of one channel's coils; `off` says that no pulse may run. -/
def ChanRec.PulsesSafe (off : Prop) (r : ChanRec) : Prop :=
  (r.closeEnd = none ∨ r.tripEnd = none) ∧ (off → r.closeEnd = none ∧ r.tripEnd = none)

/-- No pulse may run (R80). -/
def State.CoilsOff (s : State) : Prop := s.blocked = true ∨ s.inReset = true

theorem coilsSafe_iff : s.CoilsSafe ↔ ∀ c, (s.bcu.get c).PulsesSafe s.CoilsOff := Iff.rfl

namespace ChanRec.PulsesSafe

variable {off : Prop} {r r' : ChanRec}

/-- A channel with no pulse is safe. -/
theorem idle (c : r.closeEnd = none) (p : r.tripEnd = none) : r.PulsesSafe off := ⟨.inl c, fun _ => ⟨c, p⟩⟩

/-- A pulse more may end, and none begins. -/
theorem fewer (h : r.PulsesSafe off) (c : r'.closeEnd = r.closeEnd ∨ r'.closeEnd = none)
    (p : r'.tripEnd = r.tripEnd ∨ r'.tripEnd = none) : r'.PulsesSafe off := by
  obtain ⟨one, none⟩ := h
  refine ⟨?_, fun o => ⟨?_, ?_⟩⟩
  · rcases one with e | e
    · exact .inl (c.elim (·.trans e) id)
    · exact .inr (p.elim (·.trans e) id)
  · exact c.elim (·.trans (none o).1) id
  · exact p.elim (·.trans (none o).2) id

theorem weaken {off' : Prop} (h : r.PulsesSafe off) (w : off' → off) : r.PulsesSafe off' := ⟨h.1, fun o => h.2 (w o)⟩

end ChanRec.PulsesSafe

/-- A trip trigger leaves the trip pulse alone to run (R80, R82). -/
theorem ChanRec.trip_pulses (r : ChanRec) (q : Requester) (now w k : Nat) :
    (r.trip q now w k).closeEnd = none ∧ (r.trip q now w k).tripEnd = some (now + w) := by
  unfold ChanRec.trip
  dsimp only
  split <;> exact ⟨rfl, rfl⟩

/-- A new AUX level may end a pulse and begins none (R84, R85). -/
theorem ChanRec.auxChanged_pulses (r : ChanRec) (l : Bool) (now : Nat) :
    ((r.auxChanged l now).closeEnd = r.closeEnd ∨ (r.auxChanged l now).closeEnd = none) ∧
    ((r.auxChanged l now).tripEnd = r.tripEnd ∨ (r.auxChanged l now).tripEnd = none) := by
  unfold ChanRec.auxChanged
  dsimp only
  split
  · exact ⟨.inr rfl, .inl rfl⟩
  · exact ⟨.inl rfl, .inr rfl⟩
  · exact ⟨.inl rfl, .inl rfl⟩
  all_goals split <;> exact ⟨.inl rfl, .inl rfl⟩

/-- Out of reset the taking of reports keeps the law of the coils. -/
theorem State.CoilsSafe.moves (h : s.CoilsSafe) (out : s.inReset = false) (k : Moves s t) : t.CoilsSafe := by
  have off : t.CoilsOff → s.CoilsOff := by
    unfold State.CoilsOff
    rw [k.blocked_eq, k.inReset_eq]
    exact id
  have on (b : s.blocked = false) : ¬s.CoilsOff := by simp [State.CoilsOff, b, out]
  have all := k.chans (P := ChanRec.PulsesSafe s.CoilsOff)
    (fun b r _ _ noTrip w q now d => ⟨.inr noTrip, fun o => absurd o (on b)⟩)
    (fun b r _ q now w k => ⟨.inl (r.trip_pulses q now w k).1, fun o => absurd o (on b)⟩)
    (fun r _ => .idle rfl rfl) (fun r p v => p) h
  exact fun c => (all c).weaken off

theorem State.CoilsSafe.tied (k : TieOnly t u) (h : t.CoilsSafe) : u.CoilsSafe := by
  intro c
  rw [k.bcu_eq, k.inReset_eq, show u.blocked = t.blocked by simp only [State.blocked, k.mdc_eq]]
  exact h c

/-- One channel's record replaced by one with no further pulse. -/
theorem State.CoilsSafe.modChan {c : Chan} {f : ChanRec → ChanRec} (h : t.CoilsSafe)
    (fewer : ((f (t.bcu.get c)).closeEnd = (t.bcu.get c).closeEnd ∨ (f (t.bcu.get c)).closeEnd = none) ∧
      ((f (t.bcu.get c)).tripEnd = (t.bcu.get c).tripEnd ∨ (f (t.bcu.get c)).tripEnd = none)) :
    (modChan c f t).CoilsSafe := by
  have off : (Machine.modChan c f t).CoilsOff ↔ t.CoilsOff := by simp [State.CoilsOff, State.blocked]
  rw [coilsSafe_iff, modChan_bcu]
  exact forall_get_set (fun d => (coilsSafe_iff.mp h d).weaken off.mp)
    (((coilsSafe_iff.mp h c).fewer fewer.1 fewer.2).weaken off.mp)

theorem State.CoilsSafe.setChan {c : Chan} {r : ChanRec} (h : t.CoilsSafe)
    (e : r.closeEnd = (t.bcu.get c).closeEnd ∨ r.closeEnd = none)
    (p : r.tripEnd = (t.bcu.get c).tripEnd ∨ r.tripEnd = none) : (setChan c r t).CoilsSafe :=
  forall_get_set (P := ChanRec.PulsesSafe t.CoilsOff) h ((coilsSafe_iff.mp h c).fewer e p)

/-- The stop of every pulse leaves none. -/
theorem stopAllPulses_get (s : State) (c : Chan) : (stopAllPulses s).bcu.get c = (s.bcu.get c).stop := by
  simp only [stopAllPulses, allChans, List.foldl, stopPulse, modChan_bcu]
  cases c <;> rfl

theorem State.CoilsSafe.acts (h : s.CoilsSafe) (out : s.inReset = false) (k : Acts s t) : t.CoilsSafe := by
  induction k with
  | refl => exact h
  | moves a k ih => exact ih.moves (a.inReset_eq.trans out) k
  | pins _ c r e ih =>
    obtain ⟨-, -, close, trip, -⟩ := e
    exact ih.setChan (.inl close) (.inl trip)
  | closeOver _ c ih => exact ih.setChan (.inr rfl) (.inl rfl)
  | tripOver _ c ih => exact ih.setChan (.inl rfl) (.inr rfl)
  | auxLate _ c l _ _ ih => exact .tied (tieFromBoard_tieOnly _) (ih.modChan (ChanRec.auxChanged_pulses _ _ _))
  | auxEarly _ c l _ _ ih => exact ih.modChan (ChanRec.auxChanged_pulses _ _ _)
  | tie _ _ ih => exact ih.tied (tieFromBoard_tieOnly _)
  | lock _ c _ ih => exact ih.modChan ⟨.inr rfl, .inl rfl⟩
  | lockTie _ c ih => exact .tied (releaseTieFor_tieOnly _ _) (ih.modChan ⟨.inr rfl, .inl rfl⟩)
  | failClose _ c ih => exact .tied (releaseTieFor_tieOnly _ _) (ih.modChan ⟨.inr rfl, .inr rfl⟩)
  | failTrip _ c _ ih => exact ih.modChan ⟨.inr rfl, .inr rfl⟩
  | tripDone _ c _ _ ih => exact ih.modChan ⟨.inl rfl, .inr rfl⟩
  | clear _ c _ ih => exact ih.modChan ⟨.inr rfl, .inr rfl⟩
  | @control t _ m _ b ih =>
    intro c
    rw [show ({ t with mdc := m } : State).blocked = t.blocked from b]
    exact ih c
  | blockOn _ m _ _ ih =>
    intro c
    rw [stopAllPulses_get]
    exact ChanRec.PulsesSafe.idle rfl rfl
  | @blockOff t a m _ b u ih =>
    have none (c : Chan) := (coilsSafe_iff.mp ih c).2 (.inl b)
    have unblocked : State.CoilsSafe { t with mdc := m } := fun c => ChanRec.PulsesSafe.idle (none c).1 (none c).2
    exact unblocked.moves (a.inReset_eq.trans out) (driveAllLines_moves .refl)
  | _ => assumption

/-- Settles O5: a pulse begins only by a close or a trip, out of a block, and each leaves the other pulse ended. -/
theorem stepKeepsCoilsSafe : Obligations.StepKeepsCoilsSafe := by
  refine step_keeps (fun s l k h => h) (fun s t out h k => h.acts out k) (fun s out h => ?asserted)
    (fun s b p st k l _ _ => ?booted) (fun s h => ?ticked)
  case asserted =>
    intro c
    rw [assertReset_on out]
    dsimp only
    rw [ByChan.get_map]
    exact ChanRec.PulsesSafe.idle rfl rfl
  case booted =>
    intro c
    cases c <;> exact ChanRec.PulsesSafe.idle rfl rfl
  case ticked =>
    intro c
    rw [tick_chan, tick_blocked]
    exact h c

/-! ### The channel records (R79) -/

namespace ChanRec

variable {r r' : ChanRec}

/-- The law looks at the position, the operation and the accepted AUX alone. -/
theorem Sound.alike (h : r.Sound) (e : r.Alike r') : r'.Sound := by
  obtain ⟨pos, op, -, -, aux⟩ := e
  unfold Sound
  rw [pos, op, aux]
  exact h

/-- An available channel is open (R92). -/
theorem isOpen_of_available (a : r.available = true) : r.position = .isOpen := by
  unfold available at a
  simp only [Bool.and_eq_true, beq_iff_eq] at a
  exact a.1.1

theorem Sound.aux_of_open (h : r.Sound) (p : r.position = .isOpen) : r.op = none ∧ r.aux.accepted = false := by
  unfold Sound at h
  rwa [p] at h

/-- A close begins on an open channel (R81). -/
theorem Sound.close (h : r.Sound) (a : r.available = true) (w : Option Nat) (q : Requester) (now d : Nat) :
    Sound { r with closeEnd := w, cmdClosed := true, position := .closing, op := some ⟨.close, q, now, d, false⟩ } :=
  ⟨(h.aux_of_open (isOpen_of_available a)).2, _, rfl, rfl⟩

/-- A trip makes a channel OPENING with its operation, or leaves position and operation (R82). -/
theorem Sound.trip (h : r.Sound) (q : Requester) (now w k : Nat) : (r.trip q now w k).Sound := by
  unfold ChanRec.trip
  dsimp only
  split
  case h_4 e | h_5 e | h_6 e =>
    unfold Sound at h ⊢
    rw [e] at h
    dsimp only
    rw [e]
    exact h
  all_goals exact ⟨_, rfl, rfl⟩

/-- A stop keeps the kind of the operation (R83). -/
theorem Sound.stop (h : r.Sound) : r.stop.Sound := by
  unfold Sound at h ⊢
  rw [show r.stop.position = r.position from rfl, show r.stop.aux = r.aux from rfl]
  cases e : r.position <;> rw [e] at h
  case closing =>
    obtain ⟨aux, o, op, kind⟩ := h
    exact ⟨aux, { o with stopped := o.stopped || r.closeEnd.isSome }, by simp [ChanRec.stop, op], kind⟩
  case opening =>
    obtain ⟨o, op, kind⟩ := h
    exact ⟨{ o with stopped := o.stopped || r.closeEnd.isSome }, by simp [ChanRec.stop, op], kind⟩
  case isOpen | isClosed => exact ⟨by simp [ChanRec.stop, h.1], h.2⟩
  case faulted | locked => simp [ChanRec.stop, show r.op = none from h]

/-- A new AUX level gives OPEN or CLOSED in agreement with it, or leaves a position that does not say (R84 to R89). -/
theorem Sound.auxChanged (h : r.Sound) (l : Bool) (now : Nat) (new : r.aux.accepted ≠ l) : (r.auxChanged l now).Sound := by
  obtain ⟨pos, cmd, aux, ready, racked, prot, closeEnd, tripEnd, op, tc, m, fault⟩ := r
  cases pos
  case closing =>
    have isOpen : aux.accepted = false := h.1
    obtain rfl : l = true := by simpa [isOpen] using new
    exact ⟨rfl, rfl⟩
  case opening =>
    cases l
    · exact ⟨rfl, rfl⟩
    · exact h
  case isOpen | isClosed => cases l <;> exact ⟨h.1, rfl⟩
  case faulted => cases l <;> exact h
  case locked =>
    have none : op = none := h
    cases l
    · cases e : prot.accepted <;> simp [Sound, auxChanged, contactKind, e, none]
    · exact h

theorem Sound.boot (p : ChanPins) (tc : Nat) : (ChanRec.start p tc).Sound := by
  obtain ⟨aux, rdy, rck, prt⟩ := p
  cases prt <;> cases aux <;> simp [Sound, ChanRec.start, InputPin.first]

/-- A clear gives OPEN or CLOSED by AUX; no operation is in flight in FAULTED and LOCKED (R91). -/
theorem Sound.cleared (h : r.Sound) (e : r.position = .faulted ∨ r.position = .locked) : r.cleared.Sound := by
  have op : r.op = none := by
    unfold Sound at h
    rcases e with e | e <;> rwa [e] at h
  cases a : r.aux.accepted <;> simp [Sound, ChanRec.cleared, a, op]

end ChanRec

theorem State.ChansSound.moves (h : s.ChansSound) (k : Moves s t) : t.ChansSound :=
  k.chans (P := ChanRec.Sound) (fun _ _ p a _ w q now d => p.close a w q now d) (fun _ _ p q now w k => p.trip q now w k)
    (fun _ p => p.stop) (fun _ p _ => p) h

theorem State.ChansSound.tied (k : TieOnly t u) (h : t.ChansSound) : u.ChansSound := by
  unfold State.ChansSound
  rw [k.bcu_eq]
  exact h

theorem State.ChansSound.modChan {c : Chan} {f : ChanRec → ChanRec} (h : t.ChansSound) (new : (f (t.bcu.get c)).Sound) :
    (modChan c f t).ChansSound := by
  unfold State.ChansSound
  rw [modChan_bcu]
  exact forall_get_set h new

theorem State.ChansSound.acts (h : s.ChansSound) (k : Acts s t) : t.ChansSound := by
  induction k with
  | refl => exact h
  | moves _ k ih => exact ih.moves k
  | pins _ c r e ih => exact forall_get_set ih ((ih c).alike e)
  | closeOver _ c ih => exact forall_get_set ih (ih c)
  | tripOver _ c ih => exact forall_get_set ih (ih c)
  | auxLate _ c l e _ ih => exact .tied (tieFromBoard_tieOnly _) (ih.modChan ((ih c).auxChanged l _ e))
  | auxEarly _ c l e _ ih => exact ih.modChan ((ih c).auxChanged l _ e)
  | tie _ _ ih => exact ih.tied (tieFromBoard_tieOnly _)
  | lock _ c _ ih => exact ih.modChan rfl
  | lockTie _ c ih => exact .tied (releaseTieFor_tieOnly _ _) (ih.modChan rfl)
  | failClose _ c ih => exact .tied (releaseTieFor_tieOnly _ _) (ih.modChan rfl)
  | failTrip _ c _ ih => exact ih.modChan rfl
  | tripDone _ c e _ ih => exact ih.modChan ⟨rfl, e⟩
  | clear _ c e ih => exact ih.modChan ((ih c).cleared e)
  | @blockOn t _ m _ _ ih => exact State.ChansSound.moves (s := { t with mdc := m }) ih (stopAllPulses_moves .refl)
  | @blockOff t _ m _ _ _ ih => exact State.ChansSound.moves (s := { t with mdc := m }) ih (driveAllLines_moves .refl)
  | _ => assumption

theorem State.ChansSound.asserted (h : s.ChansSound) (out : s.inReset = false) : (assertReset s).ChansSound := by
  intro c
  rw [assertReset_on out]
  dsimp only
  rw [ByChan.get_map]
  exact h c

theorem State.ChansSound.booted (b : BitVec 2) (p : FirstSamples) (st : Store) (k : Nat) (l : List Instr) :
    (State.boot b p st k l).ChansSound := by
  intro c
  cases c <;> exact .boot _ _

theorem State.ChansSound.ticked (h : s.ChansSound) : (tick s).ChansSound := by
  intro c
  rw [tick_chan]
  exact (h c).alike (sample_alike _ _ _)

/-- Settles O6: each operation on a channel record keeps R79. -/
theorem stepKeepsChansSound : Obligations.StepKeepsChansSound :=
  step_keeps (fun _ _ _ h => h) (fun _ _ _ h k => h.acts k) (fun _ out h => h.asserted out)
    (fun _ _ _ _ _ _ _ _ => .booted _ _ _ _ _) (fun _ h => h.ticked)

/-! ### The pages in use (R11, R14, R15) -/

/-- The law looks at the pages, the active page and the pending page. -/
theorem State.PagesInUseValid.of_eq (h : s.PagesInUseValid) (pages : t.pst.pages = s.pst.pages)
    (active : t.pst.active = s.pst.active) (waiting : t.pst.pendingPage = s.pst.pendingPage) : t.PagesInUseValid := by
  unfold State.PagesInUseValid
  rw [pages, active, waiting]
  exact h

theorem State.PagesInUseValid.of_pst (h : s.PagesInUseValid) (e : t.pst = s.pst) : t.PagesInUseValid :=
  h.of_eq (by rw [e]) (by rw [e]) (by rw [e])

theorem State.PagesInUseValid.moves (h : s.PagesInUseValid) (k : Moves s t) : t.PagesInUseValid := by
  induction k with
  | refl => exact h
  | other _ e ih =>
    exact ih.of_eq (congrArg Guarded.pages e :) (congrArg Guarded.active e :) (congrArg Guarded.waiting e :)
  | noted _ n ih => exact ih.of_pst (by simp)
  | close _ c q _ ih => exact ih.of_pst (by simp [startClose])
  | claim _ n _ _ _ ih => exact ih.of_pst (by simp [startClose])
  | release _ ih => exact ih.of_pst (by simp [releaseTie])
  | trip _ c q _ ih => exact ih.of_pst (startTrip_pst _ _ _)
  | stop _ c ih => exact ih.of_pst (by simp [stopPulse])
  | learned _ c v ih => exact ih.of_pst (by simp)
  | shed _ f _ ih => exact ih.of_pst (by simp [markShed])
  | back _ f _ ih => exact ih.of_pst (by simp [markBack])
  | pop _ n f _ ih => exact ih.of_pst (by simp [markBack])
  | demand _ f v ih => exact ih
  | drive _ f ih => exact ih.of_pst (by simp)
  | drop _ _ ih => exact ih
  | @activate t _ p ok ih =>
    have valid : (t.pst.pages.get p).status = .valid := ok.elim (fun e => ih p (.inr e)) id
    intro q use
    rcases use with e | e
    · cases e
      exact valid
    · cases e

theorem State.PagesInUseValid.tied (k : TieOnly t u) (h : t.PagesInUseValid) : u.PagesInUseValid := h.of_pst k.pst_eq

theorem State.PagesInUseValid.acts (h : s.PagesInUseValid) (k : Acts s t) : t.PagesInUseValid := by
  induction k with
  | refl => exact h
  | moves _ k ih => exact ih.moves k
  | stored _ q e ih =>
    obtain ⟨pages, active, waiting⟩ := e
    exact ih.of_eq pages active waiting
  | @page t _ p f ok ih =>
    intro q use
    show ((t.pst.pages.set p _).get q).status = .valid
    rw [ByPage.get_set]
    split
    · rename_i e
      subst e
      exact ok (pageInUse_iff.mpr use) (ih _ use)
    · exact ih q use
  | waiting _ w ok ih =>
    intro q use
    rcases use with e | e
    · exact ih q (.inl e)
    · exact ok q e
  | auxLate _ c l _ _ ih => exact .tied (tieFromBoard_tieOnly _) (ih.of_pst (by simp))
  | auxEarly _ c l _ _ ih => exact ih.of_pst (by simp)
  | tie _ _ ih => exact ih.tied (tieFromBoard_tieOnly _)
  | lock _ c _ ih => exact ih.of_pst (by simp)
  | lockTie _ c ih => exact .tied (releaseTieFor_tieOnly _ _) (ih.of_pst (by simp))
  | failClose _ c ih => exact .tied (releaseTieFor_tieOnly _ _) (ih.of_pst (by simp))
  | failTrip _ c _ ih => exact ih.of_pst (by simp)
  | tripDone _ c _ _ ih => exact ih.of_pst (by simp)
  | clear _ c _ ih => exact ih.of_pst (by simp)
  | @blockOn t _ m _ _ ih => exact State.PagesInUseValid.moves (s := { t with mdc := m }) ih (stopAllPulses_moves .refl)
  | @blockOff t _ m _ _ _ ih => exact State.PagesInUseValid.moves (s := { t with mdc := m }) ih (driveAllLines_moves .refl)
  | load _ q it ok ih => exact ok
  | _ => assumption

/-- Settles O7: a page in use is written by no act that would leave it other than VALID, and only a VALID or the pending
page becomes active. -/
theorem stepKeepsPagesInUseValid : Obligations.StepKeepsPagesInUseValid := by
  refine step_keeps (fun s l k h => h) (fun s t _ h k => h.acts k) (fun s out h => ?asserted)
    (fun s b p st k l _ _ => ?booted) (fun s h => h.of_pst (by rw [tick_eq]))
  case asserted => exact h.of_eq (by rw [assertReset_on out]) (by rw [assertReset_on out]) (by rw [assertReset_on out])
  case booted =>
    intro q use
    rcases use with e | e <;> cases e

end Sys2Proof.Machine
end

section
/-! The laws of the shed records (R147, R159, R160), move by move, and the state right after reset (R175), which meets
every law. -/

namespace Sys2Proof.Machine

variable {s t u : State}

/-- The feeder records of an item set: the demand it gives, CONNECTED (R146). -/
theorem feedersFrom_get (it : Items) (f : Feeder) : (feedersFrom it).get f = ⟨it.feeder f .demand, false⟩ := by
  fin_cases f <;> rfl

theorem linesOff_get (f : Feeder) : linesOff.get f = false := by
  fin_cases f <;> rfl

theorem mem_allFeeders (f : Feeder) : f ∈ allFeeders := by
  fin_cases f <;> decide

/-! ### The shed stacks (R147) -/

/-- Stacks and SHED marks, as they are compared. -/
def StacksAgree (feeders : Vector FeederRec 24) (piles : BySec (List Feeder)) : Prop :=
  ∀ n, (piles.get n).Nodup ∧ ∀ f, f ∈ piles.get n ↔ feederSec f = n ∧ (feeders.get f).shed = true

theorem stacksRight_iff : s.StacksRight ↔ StacksAgree s.lmg.feeders s.lmg.shedStack := Iff.rfl

/-- What reading a vector of feeders returns after one of them was written. -/
theorem feeders_get_set {α : Type} (v : Vector α 24) (f g : Feeder) (x : α) :
    (v.set f x).get g = if g = f then x else v.get g := by
  simp [Vector.get_eq_getElem, Vector.getElem_set, Fin.ext_iff, eq_comm]

namespace StacksAgree

variable {feeders : Vector FeederRec 24} {piles : BySec (List Feeder)}

/-- A change of one feeder's mark with the matching change of its stack keeps the stacks right. -/
theorem set {f : Feeder} {r : FeederRec} {l : List Feeder} (h : StacksAgree feeders piles) (once : l.Nodup)
    (holds : ∀ g, g ∈ l ↔ feederSec g = feederSec f ∧ ((feeders.set f r).get g).shed = true) :
    StacksAgree (feeders.set f r) (piles.set (feederSec f) l) := by
  intro n
  by_cases e : n = feederSec f
  · subst e
    rw [BySec.get_set_self]
    exact ⟨once, holds⟩
  · rw [BySec.get_set_other _ _ (Ne.symm e)]
    refine ⟨(h n).1, fun g => ((h n).2 g).trans (and_congr_right fun on => ?_)⟩
    rw [feeders_get_set, if_neg]
    rintro rfl
    exact e on.symm

/-- A feeder that was CONNECTED goes to the top of its stack (R151). -/
theorem push {f : Feeder} {r : FeederRec} (h : StacksAgree feeders piles) (connected : (feeders.get f).shed = false)
    (shed : r.shed = true) : StacksAgree (feeders.set f r) (piles.set (feederSec f) (piles.get (feederSec f) ++ [f])) := by
  obtain ⟨once, holds⟩ := h (feederSec f)
  have new : f ∉ piles.get (feederSec f) := by simp [holds, connected]
  refine h.set ?_ fun g => ?_
  · rw [List.nodup_append]
    refine ⟨once, List.nodup_singleton f, fun g m g' m' e => new ?_⟩
    rwa [e, List.mem_singleton.mp m'] at m
  · rw [List.mem_append, List.mem_singleton, holds, feeders_get_set]
    by_cases e : g = f
    · simp [e, shed]
    · simp [e]

/-- A feeder leaves its stack (R146, R156). -/
theorem filter {f : Feeder} {r : FeederRec} (h : StacksAgree feeders piles) (connected : r.shed = false) :
    StacksAgree (feeders.set f r) (piles.set (feederSec f) ((piles.get (feederSec f)).filter (· ≠ f))) := by
  obtain ⟨once, holds⟩ := h (feederSec f)
  refine h.set (once.filter _) fun g => ?_
  rw [List.mem_filter, holds, feeders_get_set]
  by_cases e : g = f
  · simp [e, connected]
  · simp [e]

/-- The top of a list without repetition is taken off as any other element is. -/
theorem dropLast_eq_filter {f : Feeder} {l : List Feeder} (once : l.Nodup) (top : l.getLast? = some f) :
    l.dropLast = l.filter (· ≠ f) := by
  obtain ⟨init, rfl⟩ := List.getLast?_eq_some_iff.mp top
  have other : ∀ a ∈ init, a ≠ f := by
    rw [List.nodup_append] at once
    exact fun a m => once.2.2 a m f (by simp)
  rw [List.dropLast_concat, List.filter_append, List.filter_eq_self.mpr (by simpa using other)]
  simp

/-- The feeder at the top of a stack is taken off (R156). -/
theorem pop {n : Sec} {f : Feeder} {r : FeederRec} (h : StacksAgree feeders piles)
    (top : (piles.get n).getLast? = some f) (connected : r.shed = false) :
    StacksAgree (feeders.set f r) (piles.set (feederSec f) (piles.get (feederSec f)).dropLast) := by
  obtain ⟨on, -⟩ := ((h n).2 f).mp (List.mem_of_getLast? top)
  rw [dropLast_eq_filter (h (feederSec f)).1 (on ▸ top)]
  exact h.filter connected

/-- A change that is not of the SHED mark. -/
theorem keep {f : Feeder} {r : FeederRec} (h : StacksAgree feeders piles) (e : r.shed = (feeders.get f).shed) :
    StacksAgree (feeders.set f r) piles := by
  intro n
  refine ⟨(h n).1, fun g => ((h n).2 g).trans (and_congr_right fun _ => ?_)⟩
  rw [feeders_get_set]
  split
  · rename_i eg
    rw [e, eg]
  · rfl

/-- After the store load no feeder is SHED (R146). -/
theorem loaded (it : Items) : StacksAgree (feedersFrom it) (.all []) := by
  intro n
  rw [BySec.get_all]
  exact ⟨List.nodup_nil, fun f => by simp [feedersFrom_get]⟩

end StacksAgree

theorem State.StacksRight.of_eq (h : s.StacksRight) (feeders : t.lmg.feeders = s.lmg.feeders)
    (piles : t.lmg.shedStack = s.lmg.shedStack) : t.StacksRight := by
  rw [stacksRight_iff, feeders, piles]
  exact h

theorem State.StacksRight.of_lmg (h : s.StacksRight) (e : t.lmg = s.lmg) : t.StacksRight :=
  h.of_eq (by rw [e]) (by rw [e])

theorem State.StacksRight.markShed {f : Feeder} (h : t.StacksRight) (ok : (t.feeder f).shed = false) :
    (markShed f t).StacksRight := by
  rw [stacksRight_iff]
  simpa [Machine.markShed] using StacksAgree.push (r := { t.lmg.feeders.get f with shed := true }) h ok rfl

theorem State.StacksRight.moves (h : s.StacksRight) (k : Moves s t) : t.StacksRight := by
  induction k with
  | refl => exact h
  | other _ e ih => exact ih.of_eq (congrArg Guarded.feeders e :) (congrArg Guarded.shedStack e :)
  | noted _ n ih => exact ih.of_lmg (by simp)
  | close _ c q _ ih => exact ih.of_lmg (by simp [startClose])
  | claim _ n _ _ _ ih => exact ih.of_lmg (by simp [startClose])
  | release _ ih => exact ih.of_lmg (by simp [releaseTie])
  | trip _ c q _ ih => exact ih.of_lmg (startTrip_lmg _ _ _)
  | stop _ c ih => exact ih.of_lmg (by simp [stopPulse])
  | learned _ c v ih => exact ih.of_lmg (by simp)
  | shed _ f ok ih => exact ih.markShed ok
  | @back t _ f _ ih =>
    rw [stacksRight_iff]
    simpa [markBack] using StacksAgree.filter (f := f) (r := { t.lmg.feeders.get f with shed := false }) ih rfl
  | @pop t _ n f top ih =>
    rw [stacksRight_iff]
    simpa [markBack] using StacksAgree.pop (r := { t.lmg.feeders.get f with shed := false }) ih top rfl
  | demand _ f v ih => exact StacksAgree.keep ih rfl
  | drive _ f ih => exact ih.of_eq (by simp) (by simp)
  | drop _ _ ih => exact ih
  | activate _ p _ ih => exact ih

theorem State.StacksRight.acts (h : s.StacksRight) (k : Acts s t) : t.StacksRight := by
  induction k with
  | refl => exact h
  | moves _ k ih => exact ih.moves k
  | auxLate _ c l _ _ ih => exact ih.of_lmg (by rw [(tieFromBoard_tieOnly _).lmg_eq]; simp)
  | auxEarly _ c l _ _ ih => exact ih.of_lmg (by simp)
  | tie _ _ ih => exact ih.of_lmg (tieFromBoard_tieOnly _).lmg_eq
  | lock _ c _ ih => exact ih.of_lmg (by simp)
  | lockTie _ c ih => exact ih.of_lmg (by rw [(releaseTieFor_tieOnly _ _).lmg_eq]; simp)
  | failClose _ c ih => exact ih.of_lmg (by rw [(releaseTieFor_tieOnly _ _).lmg_eq]; simp)
  | failTrip _ c _ ih => exact ih.of_lmg (by simp)
  | tripDone _ c _ _ ih => exact ih.of_lmg (by simp)
  | clear _ c _ ih => exact ih.of_lmg (by simp)
  | @blockOn t _ m _ _ ih => exact State.StacksRight.moves (s := { t with mdc := m }) ih (stopAllPulses_moves .refl)
  | @blockOff t _ m _ _ _ ih => exact State.StacksRight.moves (s := { t with mdc := m }) ih (driveAllLines_moves .refl)
  | load _ q it _ ih => exact StacksAgree.loaded it
  | _ => assumption

/-! ### The shed lines (R159, R160) -/

/-- The law looks at the shed lines and marks, and at what holds them off. -/
theorem State.LinesFollow.of_eq (h : s.LinesFollow) (reset : t.inReset = s.inReset) (block : t.blocked = s.blocked)
    (lines : t.lmg.lines = s.lmg.lines) (feeders : t.lmg.feeders = s.lmg.feeders) : t.LinesFollow := by
  unfold State.LinesFollow State.feeder
  rw [reset, block, lines, feeders]
  exact h

/-- The block is told by the mode block's own state alone. -/
theorem blocked_of_mdc (e : t.mdc = s.mdc) : t.blocked = s.blocked := by
  unfold State.blocked
  rw [e]

@[simp] theorem driveLine_blocked (f : Feeder) (b : Bool) (s : State) : (driveLine f b s).blocked = s.blocked :=
  blocked_of_mdc (driveLine_mdc f b s)

@[simp] theorem driveLine_feeder (f : Feeder) (b : Bool) (s : State) (g : Feeder) :
    (driveLine f b s).feeder g = s.feeder g := by
  simp [State.feeder]

/-- What a driven line shows out of a block. -/
theorem driveLine_lines (f : Feeder) (b : Bool) (free : s.blocked = false) (g : Feeder) :
    (driveLine f b s).lmg.lines.get g = if g = f then b else s.lmg.lines.get g := by
  rw [driveLine, if_neg (by simp [free])]
  exact feeders_get_set _ _ _ _

/-- A line driven after a change of its feeder's mark follows it; the other lines stay. -/
theorem State.LinesFollow.drive {f : Feeder} {b : Bool} (h : s.LinesFollow) (reset : t.inReset = s.inReset)
    (block : t.blocked = s.blocked) (lines : t.lmg.lines = s.lmg.lines) (own : (t.feeder f).shed = b)
    (others : ∀ g, g ≠ f → (t.feeder g).shed = (s.feeder g).shed) : (driveLine f b t).LinesFollow := by
  intro out free g
  rw [driveLine_inReset, reset] at out
  rw [driveLine_blocked] at free
  rw [driveLine_feeder, driveLine_lines f b free]
  split
  · rename_i e
    rw [e, own]
  · rename_i e
    rw [lines, others g e]
    exact h out (block ▸ free) g

/-- A change of one feeder's mark leaves the other marks. -/
theorem modFeeder_others {f g : Feeder} (k : FeederRec → FeederRec) (e : g ≠ f) :
    (modFeeder f k s).feeder g = s.feeder g := by
  simp [State.feeder, feeders_get_set, e]

@[simp] theorem modFeeder_own (f : Feeder) (k : FeederRec → FeederRec) (s : State) :
    (modFeeder f k s).feeder f = k (s.feeder f) := by
  simp [State.feeder, feeders_get_set]

theorem State.LinesFollow.markShed (f : Feeder) (h : t.LinesFollow) : (markShed f t).LinesFollow :=
  h.drive rfl rfl rfl (by simp [State.feeder, feeders_get_set]) fun g e => by simp [State.feeder, feeders_get_set, e]

theorem State.LinesFollow.markBack (l : List Feeder) (f : Feeder) (h : t.LinesFollow) : (markBack l f t).LinesFollow :=
  h.drive rfl rfl rfl (by simp) fun g e => by rw [modFeeder_others _ e]; rfl

theorem State.LinesFollow.keep {f : Feeder} {k : FeederRec → FeederRec} (h : t.LinesFollow)
    (e : (k (t.feeder f)).shed = (t.feeder f).shed) : (modFeeder f k t).LinesFollow := by
  intro out free g
  refine (h out free g).trans ?_
  by_cases eg : g = f
  · rw [eg, modFeeder_own, e]
  · rw [modFeeder_others k eg]

theorem State.LinesFollow.moves (h : s.LinesFollow) (k : Moves s t) : t.LinesFollow := by
  have same {u v : State} (ih : u.LinesFollow) (reset : v.inReset = u.inReset) (mdc : v.mdc = u.mdc)
      (lmg : v.lmg = u.lmg) : v.LinesFollow := ih.of_eq reset (blocked_of_mdc mdc) (by rw [lmg]) (by rw [lmg])
  induction k with
  | refl => exact h
  | other k e ih =>
    exact ih.of_eq (congrArg Guarded.inReset e :) (Moves.other .refl e).blocked_eq (congrArg Guarded.lines e :)
      (congrArg Guarded.feeders e :)
  | noted _ n ih => exact same ih (by simp) (by simp) (by simp)
  | close _ c q _ ih => exact same ih (by simp [startClose]) (by simp [startClose]) (by simp [startClose])
  | claim _ n _ _ _ ih => exact same ih (by simp [startClose]) (by simp [startClose]) (by simp [startClose])
  | release _ ih => exact same ih (by simp [releaseTie]) (by simp [releaseTie]) (by simp [releaseTie])
  | trip k c q ok ih =>
    have m := Moves.trip .refl c q ok
    exact ih.of_eq m.inReset_eq m.blocked_eq (by rw [startTrip_lmg]) (by rw [startTrip_lmg])
  | stop _ c ih => exact same ih (by simp [stopPulse]) (by simp [stopPulse]) (by simp [stopPulse])
  | learned _ c v ih => exact same ih (by simp) (by simp) (by simp)
  | shed _ f _ ih => exact ih.markShed f
  | back _ f _ ih => exact ih.markBack _ f
  | pop _ n f _ ih => exact ih.markBack _ f
  | demand _ f v ih => exact ih.keep rfl
  | drive _ f ih => exact ih.drive rfl rfl rfl rfl fun _ _ => rfl
  | drop _ blocked _ =>
    intro _ free
    exact absurd (blocked.symm.trans free) (by simp)
  | activate _ p _ ih => exact ih

/-- Every line driven shows its feeder's state; the others stay. -/
theorem foldl_driveLine_lines (l : List Feeder) (s : State) (free : s.blocked = false) (g : Feeder) :
    (l.foldl (fun t f => driveLine f (t.feeder f).shed t) s).lmg.lines.get g =
      if g ∈ l then (s.feeder g).shed else s.lmg.lines.get g := by
  induction l generalizing s with
  | nil => simp
  | cons f l ih =>
    rw [List.foldl_cons, ih _ (by simpa using free), driveLine_feeder, driveLine_lines f _ free]
    by_cases e : g = f
    · simp [e]
    · simp [e]

theorem foldl_driveLine_feeder (l : List Feeder) (s : State) (g : Feeder) :
    (l.foldl (fun t f => driveLine f (t.feeder f).shed t) s).feeder g = s.feeder g := by
  induction l generalizing s with
  | nil => rfl
  | cons f l ih => rw [List.foldl_cons, ih, driveLine_feeder]

/-- At the release of the block every line follows its feeder (R160). -/
theorem driveAllLines_follow (s : State) : (driveAllLines s).LinesFollow := by
  intro out free g
  have free' : s.blocked = false := by rwa [(driveAllLines_moves .refl : Moves s _).blocked_eq] at free
  unfold driveAllLines
  rw [foldl_driveLine_lines _ _ free', if_pos (mem_allFeeders g), foldl_driveLine_feeder]

theorem State.LinesFollow.tied (h : t.LinesFollow) (k : TieOnly t u) : u.LinesFollow :=
  h.of_eq k.inReset_eq (blocked_of_mdc k.mdc_eq) (by rw [k.lmg_eq]) (by rw [k.lmg_eq])

theorem State.LinesFollow.modChan {c : Chan} {f : ChanRec → ChanRec} (h : t.LinesFollow) : (modChan c f t).LinesFollow :=
  h.of_eq (by simp) (blocked_of_mdc (by simp)) (by simp) (by simp)

theorem State.LinesFollow.acts (h : s.LinesFollow) (k : Acts s t) : t.LinesFollow := by
  induction k with
  | refl => exact h
  | moves _ k ih => exact ih.moves k
  | auxLate _ c l _ _ ih => exact ih.modChan.tied (tieFromBoard_tieOnly _)
  | auxEarly _ c l _ _ ih => exact ih.modChan
  | tie _ _ ih => exact ih.tied (tieFromBoard_tieOnly _)
  | lock _ c _ ih => exact ih.modChan
  | lockTie _ c ih => exact ih.modChan.tied (releaseTieFor_tieOnly _ _)
  | failClose _ c ih => exact ih.modChan.tied (releaseTieFor_tieOnly _ _)
  | failTrip _ c _ ih => exact ih.modChan
  | tripDone _ c _ _ ih => exact ih.modChan
  | clear _ c _ ih => exact ih.modChan
  | control _ m _ b ih => exact ih.of_eq rfl b rfl rfl
  | @blockOn t _ m _ b ih =>
    intro _ free
    rw [(stopAllPulses_moves .refl : Moves { t with mdc := m } _).blocked_eq] at free
    exact absurd (b.symm.trans free) (by simp)
  | blockOff _ m _ _ _ _ => exact driveAllLines_follow _
  | load _ q it _ _ =>
    intro _ _ f
    simp [State.feeder, feedersFrom_get, linesOff_get]
  | _ => assumption

/-! ### The step and the state right after reset -/

theorem State.StacksRight.booted (b : BitVec 2) (p : FirstSamples) (st : Store) (k : Nat) (l : List Instr) :
    (State.boot b p st k l).StacksRight := StacksAgree.loaded defaultItems

theorem State.LinesFollow.booted (b : BitVec 2) (p : FirstSamples) (st : Store) (k : Nat) (l : List Instr) :
    (State.boot b p st k l).LinesFollow := by
  intro _ _ f
  simp [State.boot, State.feeder, feedersFrom_get, linesOff_get]

/-- Settles O8: a SHED mark moves together with its stack and its line. -/
theorem stepKeepsShedRecords : Obligations.StepKeepsShedRecords := by
  intro s t h
  refine ⟨fun law => step_keeps (fun s l k h => h) (fun s t _ h k => h.acts k) (fun s out h => ?stacked)
      (fun s b p st k l _ _ => .booted _ _ _ _ _) (fun s h => h) s t law h,
    fun law => step_keeps (fun s l k h => h) (fun s t _ h k => h.acts k) (fun s out h => ?lines)
      (fun s b p st k l _ _ => .booted _ _ _ _ _) (fun s h => ?ticked) s t law h⟩
  case stacked => exact h.of_eq (by rw [assertReset_on out]) (by rw [assertReset_on out])
  case lines =>
    intro low
    rw [assertReset_on out] at low
    cases low
  case ticked => exact h.of_eq rfl (tick_blocked s) rfl rfl

/-- Settles O10: the law of the channel records is that of their start; the other laws are of records that are empty. -/
theorem resetMeetsLaws : Obligations.ResetMeetsLaws := by
  have isOpen : State.reset.closed .bkt = false := rfl
  refine ⟨Nat.zero_le _, fun c => ?coils, .booted _ _ _ _ _, ?pages, .booted _ _ _ _ _, .booted _ _ _ _ _,
    fun _ => ⟨rfl, fun n => ?mode⟩, fun _ n e => ?owner, fun ad => ?roles⟩
  case coils => cases c <;> exact ChanRec.PulsesSafe.idle (off := State.reset.CoilsOff) rfl rfl
  case pages =>
    intro p use
    rcases use with e | e <;> cases e
  case mode => cases n <;> rfl
  case owner => cases e
  case roles => cases ad

end Sys2Proof.Machine
end

section
/-! What the bytes of the line and of the store spell: the codes of operands (R1 to R12), the payloads of requests (R182),
the frames (R180) and the stored images of pages (R20, R22). -/

namespace Sys2Proof.Machine

variable {s t : State}

/-! ### Numbers as bytes (R193) -/

/-- Two bytes read high byte first are their number. -/
theorem readHalf_toNat (h l : Byte) : (readHalf h l).toNat = h.toNat * 256 + l.toNat := by
  unfold readHalf
  rw [BitVec.toNat_append, ← Nat.shiftLeft_add_eq_or_of_lt l.isLt, Nat.shiftLeft_eq]

theorem readWord_toNat (a b c d : Byte) :
    (readWord a b c d).toNat = ((a.toNat * 256 + b.toNat) * 256 + c.toNat) * 256 + d.toNat := by
  unfold readWord
  rw [BitVec.toNat_append, BitVec.toNat_append, BitVec.toNat_append, ← Nat.shiftLeft_add_eq_or_of_lt b.isLt,
    ← Nat.shiftLeft_add_eq_or_of_lt c.isLt, ← Nat.shiftLeft_add_eq_or_of_lt d.isLt]
  simp only [Nat.shiftLeft_eq]

@[simp] theorem byteOf_toNat (n : Nat) : (byteOf n).toNat = n % 256 := BitVec.toNat_ofNat n 8

/-- A 16-bit value written high byte first is read back. -/
theorem readHalf_be16 (d : Half) : readHalf (byteOf (d.toNat / 256)) (byteOf d.toNat) = d := by
  have small := d.isLt
  apply BitVec.eq_of_toNat_eq
  rw [readHalf_toNat, byteOf_toNat, byteOf_toNat]
  omega

/-- A 32-bit value written high byte first is read back. -/
theorem readWord_be32 (v : Word) : readWord (byteOf (v.toNat / 16777216)) (byteOf (v.toNat / 65536))
    (byteOf (v.toNat / 256)) (byteOf v.toNat) = v := by
  have small := v.isLt
  apply BitVec.eq_of_toNat_eq
  rw [readWord_toNat, byteOf_toNat, byteOf_toNat, byteOf_toNat, byteOf_toNat]
  omega

/-! ### Payloads (R182) -/

/-- Settles O11: every other field of a payload is a byte by itself. -/
theorem payloadSpellsRequest : Obligations.PayloadSpellsRequest := by
  intro r
  cases r
  case feederDemandSet f d =>
    calc parseRequest _ _ = .ok (.feederDemandSet f (readHalf (byteOf (d.toNat / 256)) (byteOf d.toNat))) := rfl
      _ = _ := by rw [readHalf_be16]
  case headWrite a b d =>
    calc parseRequest _ _ = .ok (.headWrite a b (readHalf (byteOf (d.toNat / 256)) (byteOf d.toNat))) := rfl
      _ = _ := by rw [readHalf_be16]
  case planWrite a b c v =>
    calc parseRequest _ _ = .ok (.planWrite a b c (readWord (byteOf (v.toNat / 16777216)) (byteOf (v.toNat / 65536))
            (byteOf (v.toNat / 256)) (byteOf v.toNat))) := rfl
      _ = _ := by rw [readWord_be32]
  all_goals rfl

/-! ### Codes (R1 to R12) -/

theorem secOf_eq_some_iff {b : Byte} {n : Sec} : secOf b = some n ↔ b = secCode n := by
  refine ⟨fun h => ?_, fun h => h ▸ secOf_secCode n⟩
  unfold secOf at h
  split at h <;> cases h <;> exact BitVec.eq_of_toNat_eq ‹_›

theorem srcOf_eq_some_iff {b : Byte} {x : Src} : srcOf b = some x ↔ b = srcCode x := by
  refine ⟨fun h => ?_, fun h => h ▸ srcOf_srcCode x⟩
  unfold srcOf at h
  split at h <;> cases h <;> exact BitVec.eq_of_toNat_eq ‹_›

theorem pointOfCode_eq_some_iff {b : Byte} {p : Point} : pointOfCode b = some p ↔ b = pointCode p := by
  refine ⟨fun h => ?_, fun h => h ▸ pointOfCode_pointCode p⟩
  unfold pointOfCode at h
  split at h <;> cases h <;> exact BitVec.eq_of_toNat_eq ‹_›

theorem chanOfCode_eq_some_iff {b : Byte} {c : Chan} : chanOfCode b = some c ↔ b = chanCode c := by
  refine ⟨fun h => ?_, fun h => h ▸ chanOfCode_chanCode c⟩
  unfold chanOfCode at h
  split at h <;> cases h <;> exact BitVec.eq_of_toNat_eq ‹_›

theorem pageOf_eq_some_iff {b : Byte} {p : PageNo} : pageOf b = some p ↔ b = pageCode p := by
  refine ⟨fun h => ?_, fun h => h ▸ pageOf_pageCode p⟩
  unfold pageOf at h
  split at h <;> cases h <;> exact BitVec.eq_of_toNat_eq ‹_›

theorem entryOfCode_eq_some_iff {b : Byte} {e : Entry} : entryOfCode b.toNat = some e ↔ b = entryCode e := by
  refine ⟨fun h => ?_, fun h => h ▸ entryOfCode_entryCode e⟩
  unfold entryOfCode at h
  split at h <;> cases h <;> exact BitVec.eq_of_toNat_eq ‹_›

theorem feederOf_eq_some_iff {b : Byte} {f : Feeder} : feederOf b = some f ↔ b = feederCode f := by
  refine ⟨fun h => ?_, fun h => h ▸ feederOf_feederCode f⟩
  unfold feederOf at h
  split at h
  · cases h
    apply BitVec.eq_of_toNat_eq
    rw [feederCode, byteOf_toNat]
    dsimp only
    omega
  · cases h

/-- The objects of the six groups, their fields and their places in a page (section 1.3). -/
def ItemPlace (g i f k : Nat) : Prop :=
  (g = 1 ∧ 1 ≤ i ∧ i ≤ 4 ∧ 1 ≤ f ∧ f ≤ 18 ∧ k = (i - 1) * 18 + (f - 1)) ∨
  (g = 2 ∧ 1 ≤ i ∧ i ≤ 2 ∧ 1 ≤ f ∧ f ≤ 3 ∧ k = 72 + (i - 1) * 3 + (f - 1)) ∨
  (g = 3 ∧ 1 ≤ i ∧ i ≤ 2 ∧ 1 ≤ f ∧ f ≤ 20 ∧ k = 78 + (i - 1) * 20 + (f - 1)) ∨
  (g = 4 ∧ 1 ≤ i ∧ i ≤ 5 ∧ 1 ≤ f ∧ f ≤ 6 ∧ k = 118 + (i - 1) * 6 + (f - 1)) ∨
  (g = 5 ∧ 1 ≤ i ∧ i ≤ 24 ∧ 1 ≤ f ∧ f ≤ 4 ∧ k = 148 + (i - 1) * 4 + (f - 1)) ∨
  (g = 6 ∧ i = 0 ∧ 1 ≤ f ∧ f ≤ 8 ∧ k = 244 + (f - 1))

/-- An address names the place of its group, object and field, within the lists of its group. -/
theorem itemAt_eq_some_iff {g i f k : Nat} {d : ItemSpec} : itemAt g i f = some (k, d) ↔
    ∃ specs lo hi base, itemGroup g = some (specs, lo, hi, base) ∧ lo ≤ i ∧ i ≤ hi ∧ 1 ≤ f ∧
      specs[f - 1]? = some d ∧ base + (i - lo) * specs.length + (f - 1) = k := by
  unfold itemAt
  cases itemGroup g with
  | none => simp
  | some v =>
    obtain ⟨specs, lo, hi, base⟩ := v
    dsimp only
    split
    · rename_i within
      obtain ⟨a, b, c⟩ := within
      rw [Option.map_eq_some_iff]
      constructor
      · rintro ⟨d', e, q⟩
        cases q
        exact ⟨specs, lo, hi, base, rfl, a, b, c, e, rfl⟩
      · rintro ⟨_, _, _, _, e, -, -, -, q, r⟩
        cases e
        exact ⟨d, q, by rw [r]⟩
    · rename_i outside
      refine ⟨fun e => (by cases e), ?_⟩
      rintro ⟨_, _, _, _, e, a, b, c, -⟩
      cases e
      exact absurd ⟨a, b, c⟩ outside

/-- How many fields an object of each group has. -/
theorem items_length : sourceItems.length = 18 ∧ busItems.length = 3 ∧ sectionItems.length = 20 ∧
    channelItems.length = 6 ∧ feederItems.length = 4 ∧ globalItems.length = 8 := ⟨rfl, rfl, rfl, rfl, rfl, rfl⟩

theorem ItemPlace.of_itemAt {g i f k : Nat} {d : ItemSpec} (h : itemAt g i f = some (k, d)) : ItemPlace g i f k := by
  obtain ⟨specs, lo, hi, base, group, low, high, pos, spec, place⟩ := itemAt_eq_some_iff.mp h
  obtain ⟨src, bus, sec, chan, feeder, glob⟩ := items_length
  have short : f - 1 < specs.length := (List.getElem?_eq_some_iff.mp spec).1
  unfold itemGroup at group
  split at group <;> cases group
  case h_1 =>
    rw [src] at short place
    exact .inl (by omega)
  case h_2 =>
    rw [bus] at short place
    exact .inr (.inl (by omega))
  case h_3 =>
    rw [sec] at short place
    exact .inr (.inr (.inl (by omega)))
  case h_4 =>
    rw [chan] at short place
    exact .inr (.inr (.inr (.inl (by omega))))
  case h_5 =>
    rw [feeder] at short place
    exact .inr (.inr (.inr (.inr (.inl (by omega)))))
  case h_6 =>
    rw [glob] at short place
    exact .inr (.inr (.inr (.inr (.inr (by omega)))))

/-- An object and a field within the lists of their group name an item. -/
theorem itemAt_isSome {g i f lo hi base : Nat} {specs : List ItemSpec}
    (group : itemGroup g = some (specs, lo, hi, base)) :
    (itemAt g i f).isSome = true ↔ (lo ≤ i ∧ i ≤ hi) ∧ 1 ≤ f ∧ f ≤ specs.length := by
  unfold itemAt
  rw [group]
  dsimp only
  split
  · simp only [Option.isSome_map, isSome_getElem?]
    omega
  · simp only [Option.isSome_none, Bool.false_eq_true, false_iff]
    omega

theorem inRange_iff {lo hi : Nat} {b : Byte} : inRange lo hi b = true ↔ lo ≤ b.toNat ∧ b.toNat ≤ hi := by
  simp [inRange]

/-- The addresses of section 1.3 are those that name an item (R12). -/
theorem itemAddress_iff (g i f : Byte) :
    itemAddress g i f = true ↔ (itemAt g.toNat i.toNat f.toNat).isSome = true := by
  unfold itemAddress
  split
  case h_7 n1 n2 n3 n4 n5 n6 =>
    have none : itemGroup g.toNat = none := by
      unfold itemGroup
      split
      all_goals first | rfl | contradiction
    simp [itemAt, none]
  all_goals
    rename_i e
    rw [e, itemAt_isSome rfl, Bool.and_eq_true, inRange_iff, inRange_iff]
    rfl

/-- What is read of a page after a write. -/
theorem Items.val_put (it : Items) (j k : Nat) (v : Word) (inside : k < 252) :
    (it.put k v).val j = if j = k then v.toNat else it.val j := by
  unfold Items.put Items.val
  rw [dif_pos inside]
  by_cases e : j = k
  · subst e
    simp [inside]
  · simp [Ne.symm e, e]

theorem ItemPlace.lt {g i f k : Nat} (h : ItemPlace g i f k) : k < 252 := by
  unfold ItemPlace at h
  omega

/-- Two addresses that name the same place are the same: their places determine group, object and field. -/
theorem ItemPlace.unique {g i f g' i' f' k : Nat} (h : ItemPlace g i f k) (h' : ItemPlace g' i' f' k) :
    g = g' ∧ i = i' ∧ f = f' := by
  rcases h with h | h | h | h | h | h <;> rcases h' with h' | h' | h' | h' | h' | h' <;> omega

/-- Settles O12: each code is decoded by its own clause, and each place lies in the stretch of its group. -/
theorem codesNameOneThing : Obligations.CodesNameOneThing :=
  ⟨⟨fun _ _ => secOf_eq_some_iff, fun _ _ => srcOf_eq_some_iff, fun _ _ => pointOfCode_eq_some_iff,
      fun _ _ => chanOfCode_eq_some_iff, fun _ _ => pageOf_eq_some_iff, fun _ _ => feederOf_eq_some_iff,
      fun _ _ => entryOfCode_eq_some_iff⟩,
    itemAddress_iff, fun _ _ _ _ _ h => (ItemPlace.of_itemAt h).lt,
    fun _ _ _ _ _ _ _ _ _ h h' => (ItemPlace.of_itemAt h).unique (.of_itemAt h'), Items.val_put⟩

/-! ### Frames (R180, R194) -/

/-- A payload is at most seven bytes long. -/
theorem Request.payload_length_le (r : Request) : r.payload.length ≤ 7 := by
  cases r <;> simp [Request.payload]

theorem Request.kind_lt (r : Request) : r.kind.toNat < 0x80 := by
  cases r <;> exact of_decide_eq_true rfl

/-- The bytes after SYNC, CRC included. -/
def Request.afterSync (r : Request) (tag : Byte) : List Byte :=
  let inner := [byteOf r.payload.length, r.kind, tag] ++ r.payload
  inner ++ be16 (crc16 inner).toNat

theorem Request.frame_eq (r : Request) (tag : Byte) : r.frame tag = 0xC3 :: r.afterSync tag := by
  simp [Request.frame, Request.afterSync]

/-- A frame complete brings its request to request service. -/
theorem frameComplete_afterSync (r : Request) (tag : Byte) (s : State) :
    frameComplete (r.afterSync tag) s = takeRequest tag r s := by
  have short := r.payload_length_le
  have len : (byteOf r.payload.length).toNat = r.payload.length := by
    rw [byteOf_toNat]
    omega
  unfold Request.afterSync frameComplete
  simp only [List.cons_append, List.nil_append]
  rw [len, List.take_left, List.drop_left, if_pos ⟨rfl, r.kind_lt⟩]
  unfold takeFrame takeRequest
  split
  · rfl
  · rw [payloadSpellsRequest r]

/-- The bytes taken before the frame is whole: they open with its LEN, which is at most 250, and are fewer. -/
theorem frameByte_afterSync {r : Request} {tag : Byte} {l rest : List Byte} (taken : l ≠ [])
    (e : l ++ rest = r.afterSync tag) :
    lenTooLong l = false ∧ (frameWhole l = true ↔ rest = []) := by
  have short := r.payload_length_le
  have len : (byteOf r.payload.length).toNat = r.payload.length := by
    rw [byteOf_toNat]
    omega
  cases l with
  | nil => exact absurd rfl taken
  | cons a q =>
    have size := congrArg List.length e
    simp only [Request.afterSync, List.cons_append, List.nil_append, List.cons.injEq] at e
    obtain ⟨rfl, -⟩ := e
    simp only [Request.afterSync, List.length_append, List.length_cons, List.length_nil, be16_length] at size
    have none : rest = [] ↔ rest.length = 0 := List.length_eq_zero_iff.symm
    refine ⟨by simp [lenTooLong, len]; omega, ?_⟩
    rw [none, frameWhole, len, beq_iff_eq]
    omega

/-- The rest of a frame, byte by byte, after some of it has been taken. -/
theorem execAll_rest {r : Request} {tag : Byte} (rest : List Byte) : ∀ (l : List Byte) (s : State),
    rest ≠ [] → l ++ rest = r.afterSync tag → s.inReset = false → s.spt.hmDe = false → s.spt.rx = .receiving l →
    execAll (lineCommands rest) s = .next (takeRequest tag r (setRx .hunting none s)) := by
  induction rest with
  | nil => exact fun _ _ ne => absurd rfl ne
  | cons b m ih =>
    intro l s _ e out quiet at_
    have takes : takeByte b true s = frameByte (l ++ [b]) s := by
      unfold takeByte
      rw [if_neg (by simp [quiet]), at_]
      rfl
    have e' : (l ++ [b]) ++ m = r.afterSync tag := by simpa using e
    obtain ⟨len, whole⟩ := frameByte_afterSync (by simp) e'
    cases m with
    | nil =>
      have last : frameByte (l ++ [b]) s = takeRequest tag r (setRx .hunting none s) := by
        unfold frameByte
        rw [if_neg (by simp [len]), if_pos (whole.mpr rfl), show l ++ [b] = r.afterSync tag by simpa using e',
          frameComplete_afterSync]
      calc execAll (lineCommands [b]) s = .next (live (takeByte b true) s) := rfl
        _ = _ := by rw [live_on _ out, takes, last]
    | cons c m =>
      have more : frameByte (l ++ [b]) s = setRx (.receiving (l ++ [b])) (some (s.now + 5)) s := by
        unfold frameByte
        rw [if_neg (by simp [len]), if_neg (by simp [whole])]
      calc execAll (lineCommands (b :: c :: m)) s
          = execAll (lineCommands (c :: m)) (live (takeByte b true) s) := rfl
        _ = execAll (lineCommands (c :: m)) (setRx (.receiving (l ++ [b])) (some (s.now + 5)) s) := by
            rw [live_on _ out, takes, more]
        _ = _ := ih _ _ (by simp) e' out quiet rfl

/-- Settles O13: each byte before the last lengthens the partly received frame, and the last completes it. -/
theorem frameIsItsCommand : Obligations.FrameIsItsCommand := by
  intro c tag r s h out quiet hunting
  have sync : takeByte 0xC3 true s = setRx (.receiving []) (some (s.now + 5)) s := by
    unfold takeByte
    rw [if_neg (by simp [quiet]), hunting]
    rfl
  have more : r.afterSync tag ≠ [] := by simp [Request.afterSync]
  have first : lineCommands (r.frame tag) = .lineByteReceived 0xC3 true :: lineCommands (r.afterSync tag) := by
    rw [Request.frame_eq]
    cases e : r.afterSync tag with
    | nil => exact absurd e more
    | cons => rfl
  calc execAll (lineCommands (r.frame tag)) s
      = execAll (lineCommands (r.afterSync tag)) (live (takeByte 0xC3 true) s) := by rw [first]; rfl
    _ = execAll (lineCommands (r.afterSync tag)) (setRx (.receiving []) (some (s.now + 5)) s) := by
        rw [live_on _ out, sync]
    _ = .next (takeRequest tag r (setRx .hunting none s)) := execAll_rest _ [] _ more rfl out quiet rfl
    _ = _ := by rw [exec_request h, live_on]; rfl; exact out

/-! ### Stored images (R20, R22) -/

/-- Values written as bytes are read back. -/
theorem readWords_itemBytes (l : List Word) : readWords (itemBytes l) = l := by
  induction l with
  | nil => rfl
  | cons w l ih =>
    calc readWords (itemBytes (w :: l))
        = readWord (byteOf (w.toNat / 16777216)) (byteOf (w.toNat / 65536)) (byteOf (w.toNat / 256)) (byteOf w.toNat) ::
            readWords (itemBytes l) := rfl
      _ = w :: l := by rw [readWord_be32, ih]

theorem itemBytes_length (l : List Word) : (itemBytes l).length = 4 * l.length := by
  induction l with
  | nil => rfl
  | cons w l ih =>
    rw [itemBytes, List.flatMap_cons, List.length_append, be32_length, ← itemBytes, ih, List.length_cons]
    omega

@[simp] theorem itemsOf_toList (it : Items) : itemsOf it.toList = some it := by
  unfold itemsOf
  rw [dif_pos it.length_toList]
  rfl

@[simp] theorem statusOf_code (st : PageStatus) : statusOf st.code = some st := by cases st <;> rfl

theorem imageBody_length (p : Page) : (imageBody p).length = 1010 := by
  rw [imageBody, List.length_append, itemBytes_length, Vector.length_toList]
  rfl

set_option maxRecDepth 20000 in
/-- The check value of R194. -/
theorem crc16_checkValue : crc16 [0x31, 0x32, 0x33, 0x34, 0x35, 0x36, 0x37, 0x38, 0x39] = 0x29B1 := by
  decide

/-- Settles O14: the body of an image is its first 1010 bytes, and its bytes are read back four by four. -/
theorem savedPageLoadsBack : Obligations.SavedPageLoadsBack := by
  refine ⟨crc16_checkValue, fun p => ?_⟩
  have whole : (pageImage p).length = 1012 := by
    rw [pageImage, List.length_append, imageBody_length, be16_length]
  have body : (pageImage p).take 1010 = imageBody p := List.take_left' (imageBody_length p)
  have check : (pageImage p).drop 1010 = be16 (crc16 (imageBody p)).toNat := List.drop_left' (imageBody_length p)
  refine ⟨whole, ?_⟩
  unfold imagePage
  dsimp only
  rw [body, if_pos ⟨whole, check⟩]
  simp only [imageBody, List.cons_append, List.nil_append, readWords_itemBytes, itemsOf_toList, statusOf_code, if_true]

end Sys2Proof.Machine
end

section
/-! The cross-item check of a plan page (R16) and the coincidence computation (R66 to R71). -/

namespace Sys2Proof.Machine

variable {s t : State} {it : Items}

/-! ### The cross-item check (R16) -/

/-- A check passes exactly where each of its tests does. -/
theorem firstFailure_eq_none_iff {l : List (Bool × CheckFailure)} : firstFailure l = none ↔ ∀ c ∈ l, c.1 = true := by
  simp [firstFailure]

/-- The tests of a page that passes, by their numbers. -/
theorem planCheck_eq_none_iff : planCheck it = none ↔
    (∀ x, ∀ c ∈ bandTests it x, c.1 = true) ∧ (∀ n, ∀ c ∈ listTests it n, c.1 = true) ∧
    (∀ n, ∀ c ∈ tieTests it n, c.1 = true) ∧ (∀ n, (windowTest it n).1 = true) ∧
    (it.prefs .sec1 ≠ [] ∨ it.prefs .sec2 ≠ []) := by
  have srcs {P : Src → Prop} : (∀ x ∈ allSrcs, P x) ↔ ∀ x, P x :=
    ⟨fun h x => h x (by cases x <;> decide), fun h x _ => h x⟩
  have secs {P : Sec → Prop} : (∀ n ∈ allSecs, P n) ↔ ∀ n, P n :=
    ⟨fun h n => h n (by cases n <;> decide), fun h n _ => h n⟩
  rw [planCheck, firstFailure_eq_none_iff, List.forall_mem_append, List.forall_mem_append, List.forall_mem_append,
    List.forall_mem_append, List.forall_mem_flatMap, List.forall_mem_flatMap, List.forall_mem_flatMap, List.forall_mem_map,
    srcs, secs, secs, secs]
  simp only [List.mem_singleton, forall_eq, Bool.or_eq_true, Bool.not_eq_true', List.isEmpty_eq_false_iff, and_assoc]

/-- Two codes of one entry are equal (R3). -/
theorem entryOfCode_inj {a b : Nat} {e : Entry} (h : entryOfCode a = some e) (k : entryOfCode b = some e) : a = b := by
  unfold entryOfCode at h k
  split at h <;> cases h <;> split at k <;> cases k <;> rfl

theorem entryOfCode_ne_zero {a : Nat} {e : Entry} (h : entryOfCode a = some e) : a ≠ 0 := by
  rintro rfl
  cases h

/-- An entry of a list stands in one of its three items (R4). -/
theorem mem_prefs {n : Sec} {e : Entry} (h : e ∈ it.prefs n) : entryOfCode (it.sec n .pref1) = some e ∨
    entryOfCode (it.sec n .pref2) = some e ∨ entryOfCode (it.sec n .pref3) = some e := by
  unfold Items.prefs at h
  obtain ⟨o, m, rfl⟩ := List.mem_filterMap.mp h
  have m' := List.takeWhile_subset _ m
  simpa [eq_comm] using m'

/-- The items of a list that test 2 passes: no gap, no entry twice, no source of kind ABSENT. -/
theorem listTests_passed {n : Sec} (h : ∀ c ∈ listTests it n, c.1 = true) :
    (it.sec n .pref1 = 0 → it.sec n .pref2 = 0) ∧ (it.sec n .pref2 = 0 → it.sec n .pref3 = 0) ∧
    (it.sec n .pref2 = 0 ∨ it.sec n .pref1 ≠ it.sec n .pref2) ∧
    (it.sec n .pref3 = 0 ∨ it.sec n .pref1 ≠ it.sec n .pref3 ∧ it.sec n .pref2 ≠ it.sec n .pref3) ∧
    ownPresent it n (it.sec n .pref1) = true ∧ ownPresent it n (it.sec n .pref2) = true ∧
    ownPresent it n (it.sec n .pref3) = true := by
  simp only [listTests, List.forall_mem_cons, Bool.or_eq_true, Bool.and_eq_true, beq_iff_eq, bne_iff_ne] at h
  obtain ⟨gap2, gap3, twice2, twice3, own1, own2, own3, -⟩ := h
  exact ⟨by omega, by omega, twice2, twice3, own1, own2, own3⟩

/-- A list without an entry twice, from its items. -/
theorem prefs_nodup {n : Sec} (twice2 : it.sec n .pref2 = 0 ∨ it.sec n .pref1 ≠ it.sec n .pref2)
    (twice3 : it.sec n .pref3 = 0 ∨ it.sec n .pref1 ≠ it.sec n .pref3 ∧ it.sec n .pref2 ≠ it.sec n .pref3) :
    (it.prefs n).Nodup := by
  have differ {a b : Nat} {x y : Entry} (ha : entryOfCode a = some x) (hb : entryOfCode b = some y) (ne : a ≠ b) : x ≠ y :=
    fun e => ne (entryOfCode_inj ha (e ▸ hb))
  unfold Items.prefs
  cases h1 : entryOfCode (it.sec n .pref1) with
  | none => simp [h1]
  | some x =>
    cases h2 : entryOfCode (it.sec n .pref2) with
    | none => simp [h1, h2]
    | some y =>
      have xy := differ h1 h2 (twice2.resolve_left (entryOfCode_ne_zero h2))
      cases h3 : entryOfCode (it.sec n .pref3) with
      | none => simp [h1, h2, h3, xy]
      | some z =>
        obtain ⟨ne13, ne23⟩ := twice3.resolve_left (entryOfCode_ne_zero h3)
        simp [h1, h2, h3, xy, differ h1 h3 ne13, differ h2 h3 ne23]

theorem kind_of_ownPresent {n : Sec} {code : Nat} {e : Entry} {x : Src} (h : ownPresent it n code = true)
    (names : entryOfCode code = some e) (own : ownSource n e = some x) : it.kind x ≠ .absent := by
  unfold ownPresent at h
  rw [names, Option.bind_some, own] at h
  simpa using h

theorem hasOwn_iff {n : Sec} : hasOwn it n = true ↔ ∃ e ∈ it.prefs n, e ≠ .tie := by
  simp [hasOwn]

theorem bandTests_passed {x : Src} (h : ∀ c ∈ bandTests it x, c.1 = true) (present : it.kind x ≠ .absent) :
    it.src x .vDropLo ≤ it.src x .vPickLo ∧ it.src x .vPickHi ≤ it.src x .vDropHi ∧
    it.src x .fPickDev ≤ it.src x .fDropDev := by
  simpa [bandTests, present] using h

theorem tieTests_passed {n : Sec} (h : ∀ c ∈ tieTests it n, c.1 = true) (holds : Entry.tie ∈ it.prefs n) :
    ∃ e ∈ it.prefs n.other, e ≠ .tie := by
  have code {a : Nat} (e : entryOfCode a = some .tie) : a = 3 := entryOfCode_inj e rfl
  simp only [tieTests, List.forall_mem_cons, Bool.or_eq_true, bne_iff_ne, hasOwn_iff] at h
  obtain ⟨t1, t2, t3, -⟩ := h
  rcases mem_prefs holds with e | e | e
  · exact t1.resolve_left (not_not.mpr (code e))
  · exact t2.resolve_left (not_not.mpr (code e))
  · exact t3.resolve_left (not_not.mpr (code e))

theorem below_mono {v vNom a b : Nat} (h : a ≤ b) (out : below v vNom a = true) : below v vNom b = true := by
  simp only [below, decide_eq_true_eq] at *
  exact out.trans_le (Nat.mul_le_mul_left vNom h)

theorem above_mono {v vNom a b : Nat} (h : a ≤ b) (out : above v vNom b = true) : above v vNom a = true := by
  simp only [above, decide_eq_true_eq] at *
  exact (Nat.mul_le_mul_left vNom h).trans_lt out

theorem anyPhase_mono {m : Summary} {f g : Nat → Bool} (h : ∀ v, f v = true → g v = true) (some : m.anyPhase f = true) :
    m.anyPhase g = true := by
  simp only [Summary.anyPhase, Bool.or_eq_true] at *
  exact some.imp (Or.imp (h _) (h _)) (h _)

/-- A summary is inside a band where it fails none of the tests (R46). -/
theorem causeIn_eq_none_iff {x : Src} {b : Band} {m : Summary} : it.causeIn x b m = .none ↔
    ¬it.deadSummary x m = true ∧ ¬(m.anyPhase fun v => below v (it.src x .vNom) b.lo) = true ∧
    ¬(m.anyPhase fun v => above v (it.src x .vNom) b.hi) = true ∧ m.freq ≠ 0 ∧
    it.src x .fNom ≤ m.freq + b.dev ∧ m.freq ≤ it.src x .fNom + b.dev ∧
    (m.acb != (it.src x .phaseOrder == 1)) = false := by
  unfold Items.causeIn
  repeat' split
  all_goals simp_all
  omega

/-- A summary inside a band is inside every band that holds it (R46). -/
theorem causeIn_none_of_nested {x : Src} {b b' : Band} (lo : b'.lo ≤ b.lo) (hi : b.hi ≤ b'.hi) (dev : b.dev ≤ b'.dev)
    {m : Summary} (h : it.causeIn x b m = .none) : it.causeIn x b' m = .none := by
  obtain ⟨live, low, high, freq, slow, fast, order⟩ := causeIn_eq_none_iff.mp h
  exact causeIn_eq_none_iff.mpr ⟨live, fun o => low (anyPhase_mono (fun _ => below_mono lo) o),
    fun o => high (anyPhase_mono (fun _ => above_mono hi) o), freq, by omega, by omega, order⟩

/-- Settles O15. -/
theorem planCheckFinds : Obligations.PlanCheckFinds := by
  intro it passed
  obtain ⟨bands, lists, ties, windows, some_list⟩ := planCheck_eq_none_iff.mp passed
  refine ⟨fun x present => ?bands, fun n => ?lists, fun n => by simpa [windowTest] using windows n, some_list,
    fun n => tieTests_passed (ties n)⟩
  case bands =>
    obtain ⟨lo, hi, dev⟩ := bandTests_passed (bands x) present
    exact ⟨lo, hi, dev, fun m => causeIn_none_of_nested lo hi dev⟩
  case lists =>
    obtain ⟨gap2, gap3, twice2, twice3, own1, own2, own3⟩ := listTests_passed (lists n)
    refine ⟨gap2, gap3, prefs_nodup twice2 twice3, fun e x m own => ?_⟩
    rcases mem_prefs m with names | names | names
    · exact kind_of_ownPresent own1 names own
    · exact kind_of_ownPresent own2 names own
    · exact kind_of_ownPresent own3 names own

/-! ### Whole-number arithmetic (R68 to R70) -/

theorem roundDiv_of_nonneg {n : Int} (d : Nat) (h : 0 ≤ n) : roundDiv n d = ((2 * n.natAbs + d) / (2 * d) : Nat) :=
  if_neg (by omega)

/-- A rounded quotient keeps the sign. -/
theorem roundDiv_neg (n : Int) {d : Nat} (pos : 0 < d) : roundDiv (-n) d = -roundDiv n d := by
  unfold roundDiv
  rw [Int.natAbs_neg]
  rcases lt_trichotomy n 0 with h | rfl | h
  · rw [if_neg (by omega), if_pos h, neg_neg]
  · have none : (2 * (0 : Int).natAbs + d) / (2 * d) = 0 := Nat.div_eq_of_lt (by omega)
    rw [none]
    rfl
  · rw [if_pos (by omega), if_neg (by omega)]

/-- The rounded quotient of a number that is not negative is a nearest one, and the greater one at a half. -/
theorem roundDiv_nearest_of_nonneg {n : Int} {d : Nat} (pos : 0 < d) (h : 0 ≤ n) :
    2 * (n - roundDiv n d * d).natAbs ≤ d ∧
    (2 * (n - roundDiv n d * d).natAbs = d → n.natAbs < (roundDiv n d * d).natAbs) := by
  have split := Nat.div_add_mod (2 * n.natAbs + d) (2 * d)
  have rest := Nat.mod_lt (2 * n.natAbs + d) (show 2 * d > 0 by omega)
  rw [roundDiv_of_nonneg d h]
  rw [Nat.mul_assoc, Nat.mul_comm d] at split
  rw [← Nat.cast_mul, Int.natAbs_natCast]
  omega

/-- A rounded quotient is a nearest whole number, and a half goes away from zero (R68, R70). -/
theorem roundDiv_nearest (n : Int) {d : Nat} (pos : 0 < d) :
    2 * (n - roundDiv n d * d).natAbs ≤ d ∧
    (2 * (n - roundDiv n d * d).natAbs = d → n.natAbs < (roundDiv n d * d).natAbs) := by
  rcases le_total 0 n with h | h
  · exact roundDiv_nearest_of_nonneg pos h
  · have mirrored := roundDiv_nearest_of_nonneg (n := -n) pos (by omega)
    rw [roundDiv_neg n pos, Int.neg_mul] at mirrored
    omega

/-- A wrapped angle lies in its interval and differs by whole turns (R69, R70). -/
theorem wrapAngle_spec (a : Int) : (-1800 < wrapAngle a ∧ wrapAngle a ≤ 1800) ∧ (wrapAngle a - a) % 3600 = 0 := by
  unfold wrapAngle
  dsimp only
  split <;> omega

/-! ### A computation (R66 to R71) -/

/-- Stage 1 passes exactly where both records are valid with a frequency and young enough (R67). -/
theorem stage1_eq_ok_iff {vi vb : Bool} {mi mb : Option Summary} {nd : Word} {i b : Summary} :
    stage1 vi vb mi mb nd = .ok (i, b) ↔ vi = true ∧ vb = true ∧ mi = some i ∧ mb = some b ∧
      0 < i.freq ∧ 0 < b.freq ∧ frameAge nd i.arrival ≤ 200 ∧ frameAge nd b.arrival ≤ 200 := by
  constructor
  · intro h
    unfold stage1 at h
    split at h
    · rename_i valid
      obtain ⟨rfl, rfl⟩ := Bool.and_eq_true_iff.mp valid
      split at h
      · cases h
      split at h
      · cases h
      · cases h
        rename_i freq age
        exact ⟨rfl, rfl, rfl, rfl, by omega, by omega, by omega, by omega⟩
    · cases h
  · rintro ⟨rfl, rfl, rfl, rfl, fi, fb, ai, ab⟩
    unfold stage1
    simp only [Bool.and_self]
    rw [if_neg (by omega), if_neg (by omega)]

/-- The four tests of the permit (R71). -/
theorem permitTest_eq_none_iff {p : Pair} {set : ItemSet} {n : Sec} {v : PairValues} :
    s.permitTest p set n v = none ↔
      v.dp.natAbs ≤ s.plan.window n set ∧ v.slip.natAbs ≤ s.plan.slipLimit n set ∧
      s.plan.bus p.busSec .vNom * s.plan.sec n .vInphaseMin ≤ (s.squ.buses.get p.busSec).vmax * 1000 ∧
      (set = .closedItems → s.incomingFit p.incoming = true) := by
  unfold State.permitTest
  dsimp only
  repeat' split
  all_goals simp_all

/-- The values of a computation that stage 1 passes. -/
def State.valuesOf (s : State) (p : Pair) (set : ItemSet) (n : Sec) (nd : Word) (i b : Summary) : PairValues :=
  let v := predict i b nd (s.bcu.get p.chan).tc
  { v with fails := s.permitTest p set n v }

/-- The two summaries of a pair, or why there is no result (R67). -/
def State.summariesOf (s : State) (p : Pair) (nd : Word) : Except NotAvailable (Summary × Summary) :=
  stage1 (s.pointValid p.incoming) (s.pointValid (.bus p.busSec)) (s.hlc.points.get p.incoming).last
    (s.hlc.points.get (.bus p.busSec)).last nd

theorem coincidence_of_ok {p : Pair} (set : ItemSet) (n : Sec) {nd : Word} {i b : Summary}
    (h : s.summariesOf p nd = .ok (i, b)) :
    s.coincidence p set n nd = ⟨nd, set, n, .available (s.valuesOf p set n nd i b)⟩ := by
  unfold State.summariesOf State.pointValid at h
  unfold State.coincidence
  dsimp only
  rw [h]
  rfl

theorem coincidence_of_error {p : Pair} (set : ItemSet) (n : Sec) {nd : Word} {e : NotAvailable}
    (h : s.summariesOf p nd = .error e) : s.coincidence p set n nd = ⟨nd, set, n, .notAvailable e⟩ := by
  unfold State.summariesOf State.pointValid at h
  unfold State.coincidence
  dsimp only
  rw [h]

theorem coincidence_frame (s : State) (p : Pair) (set : ItemSet) (n : Sec) (nd : Word) :
    (s.coincidence p set n nd).nd = nd ∧ (s.coincidence p set n nd).set = set ∧
    (s.coincidence p set n nd).judging = n := by
  cases h : s.summariesOf p nd with
  | error e =>
    rw [coincidence_of_error set n h]
    exact ⟨rfl, rfl, rfl⟩
  | ok v =>
    rw [coincidence_of_ok set n h]
    exact ⟨rfl, rfl, rfl⟩

/-- A result is available with the values of its two summaries exactly where stage 1 passes (R67). -/
theorem coincidence_available_iff {p : Pair} {set : ItemSet} {n : Sec} {nd : Word} {v : PairValues} :
    (s.coincidence p set n nd).formed = .available v ↔
      ∃ i b, s.summariesOf p nd = .ok (i, b) ∧ s.valuesOf p set n nd i b = v := by
  cases h : s.summariesOf p nd with
  | error e => simp [coincidence_of_error set n h]
  | ok w => simp [coincidence_of_ok set n h, Prod.ext_iff, and_assoc]

/-- The angle between the two summaries, the earlier one advanced to the later one's frame (R68, R69). -/
theorem valuesOf_d0 (s : State) (p : Pair) (set : ItemSet) (n : Sec) (nd : Word) (i b : Summary) :
    let v := s.valuesOf p set n nd i b
    let gap := ((frameAge nd i.arrival : Int) - frameAge nd b.arrival).natAbs
    let turn (f : Nat) : Int := roundDiv ((f * gap * 9 : Nat) : Int) 10000
    let angI : Int := if frameAge nd b.arrival < frameAge nd i.arrival then i.angle + turn i.freq else i.angle
    let angB : Int := if frameAge nd i.arrival < frameAge nd b.arrival then b.angle + turn b.freq else b.angle
    (v.d0 - (angI - angB)) % 3600 = 0 := by
  have later {x y : Nat} (h : y < x) : ((x : Int) - y).natAbs = x - y := by omega
  have earlier {x y : Nat} (h : x < y) : ((x : Int) - y).natAbs = y - x := by omega
  dsimp only [State.valuesOf, predict, advance]
  generalize frameAge nd i.arrival = ageI
  generalize frameAge nd b.arrival = ageB
  rcases lt_trichotomy ageB ageI with h | rfl | h
  · rw [if_pos h, if_neg (by omega), if_pos h, if_neg (by omega), later h]
    generalize roundDiv _ _ = k
    have wrapped := (wrapAngle_spec ((i.angle + k) % 3600 - b.angle)).2
    omega
  · simp only [lt_irrefl, if_false]
    exact (wrapAngle_spec _).2
  · rw [if_neg (by omega), if_pos h, if_neg (by omega), if_pos h, earlier h]
    generalize roundDiv _ _ = k
    have wrapped := (wrapAngle_spec (i.angle - (b.angle + k) % 3600)).2
    omega

/-- A result carries the permit exactly where the four tests pass (R71). -/
theorem permit_of_available {r : PairResult} {v : PairValues} (h : r.formed = .available v) :
    r.permit = true ↔ v.fails = none := by
  rw [PairResult.permit, h]
  exact Option.isNone_iff_eq_none

/-- Settles O16. -/
theorem coincidenceResult : Obligations.CoincidenceResult := by
  refine ⟨fun n d pos => ⟨(roundDiv_nearest n pos).1, (roundDiv_nearest n pos).2, roundDiv_neg n pos⟩,
    fun s p set n nd => ?_⟩
  obtain ⟨at_, items, judge⟩ := coincidence_frame s p set n nd
  refine ⟨at_, items, judge, fun e h => ?refused, fun i b vi vb li lb fi fb ai ab => ?formed, fun v h => ?available⟩
  case refused => simp only [PairResult.permit, h]
  case formed => exact ⟨_, coincidence_available_iff.mpr ⟨i, b, stage1_eq_ok_iff.mpr ⟨vi, vb, li, lb, fi, fb, ai, ab⟩, rfl⟩⟩
  case available =>
    obtain ⟨i, b, passed, values⟩ := coincidence_available_iff.mp h
    obtain ⟨vi, vb, li, lb, fi, fb, ai, ab⟩ := stage1_eq_ok_iff.mp passed
    have permit := permit_of_available h
    subst values
    exact ⟨vi, vb, i, b, li, lb, fi, fb, ai, ab, rfl, rfl, rfl, rfl, rfl, (wrapAngle_spec _).1, (wrapAngle_spec _).1,
      valuesOf_d0 s p set n nd i b, (wrapAngle_spec _).2, permit.trans permitTest_eq_none_iff⟩

end Sys2Proof.Machine
end

section
/-! The requests that read (R61, R72, R93, R162, R187 to R191), PLAN_CHECK, PLAN_ACTIVATE where no page takes effect,
PLAN_SAVE and the ends of the store writes (R16 to R21), and the head commands (R32 to R36). -/

namespace Sys2Proof.Machine

variable {s t : State} {tag : Byte}

/-! ### Requests that read -/

/-- An argument that names something is served with it. -/
theorem withArg_of {α : Type} {o : Option α} {a : α} (h : o = some a) (t : State) (f : α → Served) : withArg o t f = f a := by
  rw [h, withArg_some]

theorem feederOf_zero : feederOf 0 = none := rfl

/-- PAIR_GET without a new computation answers with the kept result (R72). -/
theorem servePair_last {i b k : Byte} {p : Pair} {set : ItemSet} (pair : pairOf i b = some p)
    (items : itemSetOf k = some set) :
    servePair i b 0 k t = answerNow (.pair (t.kept p) (t.watches .sec1 p) (t.watches .sec2 p)) t := by
  unfold servePair
  rw [pair, withArg_some, show bitOf 0 = some false from rfl, withArg_some, items, withArg_some]
  rfl

/-- PAIR_GET with a new computation keeps its result (R72). -/
theorem servePair_new {i b k : Byte} {p : Pair} {set : ItemSet} (pair : pairOf i b = some p)
    (items : itemSetOf k = some set) :
    servePair i b 1 k t =
      let r := t.coincidence p set p.busSec t.lastFrame
      answerNow (.pair (some r) (t.watches .sec1 p) (t.watches .sec2 p)) (keep p r t) := by
  unfold servePair
  rw [pair, withArg_some, show bitOf 1 = some true from rfl, withArg_some, items, withArg_some]
  rfl

theorem keep_replied (p : Pair) (r : PairResult) (s : State) (k g k' g' : Byte) (st : Status) (b : Body) :
    (keep p r (s.awaiting k g)).replied k' g' st b = (keep p r s).replied k' g' st b := by
  cases p <;> rfl

/-- NOTICE_GET with an empty queue (R191). -/
theorem serveNotice_none (e : t.spt.queue = []) : serveNotice t = answerNow (.notice none 0 t.spt.overflow) t := by
  unfold serveNotice
  rw [e]

/-- NOTICE_GET with a notice waiting (R191). -/
theorem serveNotice_some {n : Notice} {rest : List Notice} (e : t.spt.queue = n :: rest) : serveNotice t =
    answerNow (.notice (some n) rest.length t.spt.overflow)
      { t with spt := { t.spt with queue := rest, overflow := t.spt.overflow && !rest.isEmpty } } := by
  unfold serveNotice
  rw [e]

/-- Settles O17. -/
theorem readsAnswer : Obligations.ReadsAnswer := by
  intro s tag k
  refine ⟨exec_unmoved (r := .statusGet) rfl k rfl, fun p => exec_unmoved (r := .pointGet (pointCode p)) rfl k ?point,
    fun c => exec_unmoved (r := .breakerGet (chanCode c)) rfl k ?breaker,
    fun n ad => exec_unmoved (r := .sectionGet (secCode n)) rfl k ?section_, exec_unmoved (r := .feederGet 0) rfl k rfl,
    fun f => exec_unmoved (r := .feederGet (feederCode f)) rfl k ?feeder,
    fun g i f j d item => ?read, fun i b j p set pair items => ⟨?last, ?new⟩,
    fun e => exec_unmoved (r := .noticeGet) rfl k ?noNotice, fun n rest e => ?oldest,
    fun p => ?select⟩
  case point => exact withArg_of (pointOfCode_pointCode p) _ _
  case breaker => exact withArg_of (chanOfCode_chanCode c) _ _
  case section_ =>
    exact (withArg_of (secOf_secCode n) _ _).trans (afterStart_on (t := s.awaiting 0x30 tag) ad _)
  case feeder =>
    calc serveFeeder (feederCode f) _ = withArg (feederOf (feederCode f)) _ _ := if_neg (feederCode_ne_zero f)
      _ = _ := withArg_of (feederOf_feederCode f) _ _
  case read => exact exec_unmoved (r := .planRead g i f) rfl k (withArg_of item _ _)
  case last => exact exec_unmoved (r := .pairGet i b 0 j) rfl k (servePair_last pair items)
  case new => exact exec_done (r := .pairGet i b 1 j) rfl k (servePair_new pair items) (keep_replied ..)
  case noNotice => exact serveNotice_none (t := s.awaiting 0x03 tag) e
  case oldest => exact exec_done (r := .noticeGet) rfl k (serveNotice_some (t := s.awaiting 0x03 tag) e) rfl
  case select => exact exec_done (r := .planSelect (pageCode p)) rfl k (withArg_of (pageOf_pageCode p) _ _) rfl

/-! ### PLAN_CHECK and PLAN_ACTIVATE (R16 to R18) -/

section Pages

variable {p : PageNo}

theorem serveCheck_valid (v : (t.pst.pages.get p).status = .valid) :
    serveCheck (pageCode p) t = answerNow .empty t := by
  unfold serveCheck
  rw [pageOf_pageCode, withArg_some, if_pos v]

theorem serveCheck_passes (v : (t.pst.pages.get p).status ≠ .valid) (c : planCheck (t.pst.pages.get p).items = none) :
    serveCheck (pageCode p) t = answerNow .empty (modPage p (fun q => { q with status := .valid, saved := false }) t) := by
  unfold serveCheck
  rw [pageOf_pageCode, withArg_some, if_neg v, c]

theorem serveCheck_fails {e : CheckFailure} (v : (t.pst.pages.get p).status ≠ .valid)
    (c : planCheck (t.pst.pages.get p).items = some e) :
    serveCheck (pageCode p) t = .done t ⟨.checkFailed, .check e.code e.group e.index e.field⟩ := by
  unfold serveCheck
  rw [pageOf_pageCode, withArg_some, if_neg v, c]

/-- PLAN_ACTIVATE once the power-up sequence has ended (R185): its tests in their order (R17, R18). -/
theorem serveActivate_started (ad : t.adopted = true) : serveActivate (pageCode p) t =
    if (t.pst.pages.get p).status ≠ .valid then refuse .pageNotValid t
    else if t.pst.active = some p then answerNow (.outcome true) (modPst (fun t => { t with pendingPage := none }) t)
    else if t.pst.pendingPage = some p then answerNow (.outcome false) t
    else if t.bothAtRest then .after (takeEffect p t) fun _ => ⟨.ok, .outcome true⟩
    else answerNow (.outcome false) (modPst (fun t => { t with pendingPage := some p }) t) := by
  unfold serveActivate
  rw [pageOf_pageCode, withArg_some, afterStart_on ad]

end Pages

/-- Settles O21. -/
theorem planChecksAndWaits : Obligations.PlanChecksAndWaits := by
  intro s tag p k
  refine ⟨fun v => exec_unmoved (r := .planCheck (pageCode p)) rfl k (serveCheck_valid (t := s.awaiting 0x54 tag) v),
    fun v c => exec_storesPage (r := .planCheck (pageCode p)) rfl k (serveCheck_passes (t := s.awaiting 0x54 tag) v c),
    fun e v c => exec_done (r := .planCheck (pageCode p)) rfl k (serveCheck_fails (t := s.awaiting 0x54 tag) v c) (replied_twice ..), fun ad => ?_⟩
  have tests := serveActivate_started (p := p) (t := s.awaiting 0x55 tag) ad
  refine ⟨fun invalid => exec_refused (r := .planActivate (pageCode p)) rfl k (tests.trans (if_pos invalid)), fun valid active => ?active,
    fun valid other waiting => ?waiting, fun valid other free busy => ?busy⟩
  case active => exact exec_done (r := .planActivate (pageCode p)) rfl k (tests.trans ((if_neg (not_not.mpr valid)).trans (if_pos active))) rfl
  case waiting =>
    exact exec_unmoved (r := .planActivate (pageCode p)) rfl k (tests.trans ((if_neg (not_not.mpr valid)).trans ((if_neg other).trans (if_pos waiting))))
  case busy =>
    have notRest : ¬(s.awaiting 0x55 tag).bothAtRest = true := by
      rw [show (s.awaiting 0x55 tag).bothAtRest = s.bothAtRest from rfl, busy]
      exact Bool.false_ne_true
    exact exec_done (r := .planActivate (pageCode p)) rfl k (tests.trans ((if_neg (not_not.mpr valid)).trans ((if_neg other).trans ((if_neg free).trans
      (if_neg notRest))))) rfl

/-! ### PLAN_SAVE and the ends of the store writes (R20, R21, R41) -/

/-- A command of one change of state, out of reset. -/
theorem exec_act {c : Instr} {f : State → State} (h : exec c s = act f s) (out : s.inReset = false) :
    exec c s = .next (f s) := by
  rw [h, act, live_on _ out]

/-- A command of one change of state and the reports it gives rise to, out of reset. -/
theorem exec_event {c : Instr} {f : State → State} (h : exec c s = event f s) (out : s.inReset = false) :
    exec c s = .next (settle (f s)) := by
  rw [h, event, live_on _ out]

/-- The reply that a request of its kind waits for is formed (R181). -/
theorem formReply_waited {k : Byte} (r : Reply) (h : s.spt.service = some ⟨k, tag, .deferred⟩) :
    formReply k r s = setService k tag (.formed r) s := by
  unfold formReply
  rw [h]
  exact if_pos ⟨rfl, rfl⟩

/-- A write that is no pointer write waits behind those that wait (R21). -/
theorem enqueueWrite_behind {w : StoreWrite} (h : w.isPointer = false) (l : List StoreWrite) :
    enqueueWrite w l = l ++ [w] := by
  cases l with
  | nil => rfl
  | cons first waiting => exact if_neg (by simp [h])

section StoreEnds

variable {w : List StoreWrite}

theorem endPageWrite_of {p : PageNo} (h : s.pst.writes = .page p :: w) (good : Bool) :
    endPageWrite good s = formReply 0x56 ⟨writeStatus good, .empty⟩ (nextWrite (pageWritten p good s)) := by
  unfold endPageWrite
  rw [h]

theorem endPointerWrite_of {p : PageNo} (h : s.pst.writes = .pointer p :: w) (good : Bool) :
    endPointerWrite good s = nextWrite (pointerWritten p good s) := by
  unfold endPointerWrite
  rw [h]

theorem endLinkMapWrite_of {m : LinkMap} (h : s.pst.writes = .linkMap m :: w) (good : Bool) :
    endLinkMapWrite good s = formReply 0x63 ⟨writeStatus good, .empty⟩ (nextWrite (linkMapWritten m good s)) := by
  unfold endLinkMapWrite
  rw [h]

theorem pageWritten_writes (p : PageNo) (good : Bool) (s : State) : (pageWritten p good s).pst.writes = s.pst.writes := by
  cases good <;> rfl

theorem pageWritten_service (p : PageNo) (good : Bool) (s : State) :
    (pageWritten p good s).spt = s.spt := by
  cases good <;> rfl

theorem linkMapWritten_service (m : LinkMap) (good : Bool) (s : State) : (linkMapWritten m good s).spt = s.spt := by
  cases good <;> rfl

end StoreEnds

/-- Settles O24. -/
theorem pagesAreSaved : Obligations.PagesAreSaved := by
  intro s tag w
  refine ⟨fun p k => ?save, fun p out front waits => ⟨?good, ?bad⟩, fun p good out front => ?pointer,
    fun m out front waits => ⟨?map, ?badMap⟩⟩
  case save =>
    have queued : enqueueWrite (.page p) s.pst.writes = s.pst.writes ++ [.page p] := enqueueWrite_behind rfl _
    have served : serve (.planSave (pageCode p)) (s.awaiting 0x56 tag) = .waits _ := withArg_of (pageOf_pageCode p) _ _
    refine exec_waits rfl k served k.1.2 ?_
    rw [← queued]
    rfl
  case good =>
    rw [exec_act rfl out, endPageWrite_of front, formReply_waited (s := nextWrite (pageWritten p true s)) (tag := tag) _ waits]
    simp [pageWritten, nextWrite, modPage, setImage, modPst, front, writeStatus, State.replied, setService]
  case bad =>
    rw [exec_act rfl out, endPageWrite_of front, formReply_waited (s := nextWrite (pageWritten p false s)) (tag := tag) _ waits]
    simp [pageWritten, nextWrite, setImage, modPst, front, writeStatus, State.replied, setService, useFree]
  case pointer =>
    rw [exec_act rfl out, endPointerWrite_of front]
    simp [pointerWritten, nextWrite, modPst, front]
  case map =>
    rw [exec_act rfl out, endLinkMapWrite_of front, formReply_waited (s := nextWrite (linkMapWritten m true s)) (tag := tag) _ waits]
    simp [linkMapWritten, nextWrite, modPst, front, writeStatus, State.replied, setService]
  case badMap =>
    rw [exec_act rfl out, endLinkMapWrite_of front, formReply_waited (s := nextWrite (linkMapWritten m false s)) (tag := tag) _ waits]
    simp [linkMapWritten, nextWrite, modPst, front, writeStatus, State.replied, setService, useFree]

end Sys2Proof.Machine
end

section
/-! The head commands: their requests (R32 to R36) and their ends (R33, R34). -/

namespace Sys2Proof.Machine

variable {s t : State} {tag : Byte} {p : Point} {i : Byte} {d : Half}

/-! ### The requests -/

/-- A setting index of 0 to 31 (R32). -/
theorem indexOf_of (h : i.toNat ≤ 31) : indexOf i = some (BitVec.ofNat 5 i.toNat) := if_pos h

/-- An index that may be written (R32). -/
theorem writeIndexOf_of (low : 1 ≤ i.toNat) (high : i.toNat ≤ 30) : writeIndexOf i = some (BitVec.ofNat 5 i.toNat) := by
  have not0 : i ≠ 0 := by
    rintro rfl
    exact absurd low (by decide)
  have not31 : i ≠ 31 := by
    rintro rfl
    exact absurd high (by decide)
  unfold writeIndexOf
  rw [if_neg (not_or.mpr ⟨not0, not31⟩), indexOf_of (by omega)]

/-- An index as a five-bit value is told by its byte. -/
theorem index_eq_iff (h : i.toNat ≤ 31) {k : Nat} (small : k ≤ 31) :
    BitVec.ofNat 5 i.toNat = BitVec.ofNat 5 k ↔ i.toNat = k := by
  rw [← BitVec.toNat_inj, BitVec.toNat_ofNat, BitVec.toNat_ofNat]
  omega

theorem withHead_starting (h : t.hlc.link = .starting) (f : HeadPlace → Served) : withHead p t f = refuse .busy t := if_pos h

theorem withHead_unbound (h : t.hlc.link ≠ .starting) (u : (t.hlc.points.get p).bound = none) (f : HeadPlace → Served) :
    withHead p t f = refuse .headsUnbound t := by
  unfold withHead
  rw [if_neg h, u]

theorem withHead_bound {a : HeadPlace} (h : t.hlc.link ≠ .starting) (u : (t.hlc.points.get p).bound = some a)
    (f : HeadPlace → Served) : withHead p t f = f a := by
  unfold withHead
  rw [if_neg h, u]

/-- HEAD_READ with its operands in order. -/
theorem serveHeadRead_of (h : i.toNat ≤ 31) : serveHeadRead (pointCode p) i t =
    withHead p t fun a =>
      if BitVec.ofNat 5 i.toNat = 31 then answerNow (.headData 31 (t.hlc.points.get p).input) t
      else .waits (takeSlot ⟨false, some p, a, BitVec.ofNat 5 i.toNat, 0, none⟩ t) := by
  unfold serveHeadRead
  rw [pointOfCode_pointCode, withArg_some, indexOf_of h, withArg_some]

/-- HEAD_WRITE with its operands in order. -/
theorem serveHeadWrite_of (low : 1 ≤ i.toNat) (high : i.toNat ≤ 30) : serveHeadWrite (pointCode p) i d t =
    withHead p t fun a =>
      let u := takeSlot ⟨true, some p, a, BitVec.ofNat 5 i.toNat, d, none⟩ t
      .waits (if BitVec.ofNat 5 i.toNat = 30 then setWord a.addr d u else u) := by
  unfold serveHeadWrite
  rw [pointOfCode_pointCode, withArg_some, writeIndexOf_of low high, withArg_some]

/-! ### The ends of an outstanding command -/

section Ends

variable {c : HeadCmd} (slot : s.hlc.slot = some c) (sent : c.sentIn.isSome = true)
include slot sent

theorem readComplete_of (read : c.write = false) (asked : c.point.isSome = true) :
    readComplete d s = formReply 0x60 ⟨.ok, .headData c.index.toNat d⟩ (freeSlot s) := by
  unfold readComplete
  rw [slot]
  exact if_pos ⟨by simp [read], asked, sent⟩

theorem readTimeout_of (read : c.write = false) (asked : c.point.isSome = true) :
    readTimeout s = formReply 0x60 ⟨.headTimeout, .empty⟩ (freeSlot s) := by
  unfold readTimeout
  rw [slot]
  exact if_pos ⟨by simp [read], asked, sent⟩

theorem writePosted_of (write : c.write = true) : writePosted s = formReply 0x61 ⟨.ok, .empty⟩ (freeSlot s) := by
  unfold writePosted
  rw [slot]
  exact if_pos ⟨write, sent⟩

end Ends

/-- Settles O25. -/
theorem headCommandsServed : Obligations.HeadCommandsServed := by
  refine ⟨fun s tag p d k => ⟨fun starting i low => ⟨?readBusy, fun pos high => ?writeBusy⟩,
    fun link unbound i low => ⟨?readUnbound, fun pos high => ?writeUnbound⟩,
    fun h link bound => ⟨?last, fun i low => ⟨?reads, fun pos => ?writes⟩⟩⟩,
    fun s tag c d out slot sent => ⟨fun read asked waits => ⟨?complete, ?timeout⟩, fun write waits => ?posted⟩⟩
  case readBusy =>
    exact exec_refused (r := .headRead (pointCode p) i) rfl k ((serveHeadRead_of low).trans (withHead_starting (t := s.awaiting _ tag) starting _))
  case writeBusy =>
    exact exec_refused (r := .headWrite (pointCode p) i d) rfl k
      ((serveHeadWrite_of pos high).trans (withHead_starting (t := s.awaiting _ tag) starting _))
  case readUnbound =>
    exact exec_refused (r := .headRead (pointCode p) i) rfl k
      ((serveHeadRead_of low).trans (withHead_unbound (t := s.awaiting _ tag) link unbound _))
  case writeUnbound =>
    exact exec_refused (r := .headWrite (pointCode p) i d) rfl k
      ((serveHeadWrite_of pos high).trans (withHead_unbound (t := s.awaiting _ tag) link unbound _))
  case last =>
    exact exec_unmoved (r := .headRead (pointCode p) 31) rfl k
      ((serveHeadRead_of (i := 31) (by decide)).trans ((withHead_bound (t := s.awaiting _ tag) link bound _).trans (if_pos rfl)))
  case reads =>
    have notLast : BitVec.ofNat 5 i.toNat ≠ 31 := fun e => by
      have := (index_eq_iff (k := 31) (by omega) le_rfl).mp e
      omega
    exact exec_waits (r := .headRead (pointCode p) i) rfl k
      ((serveHeadRead_of (by omega)).trans ((withHead_bound (t := s.awaiting _ tag) link bound _).trans (if_neg notLast))) k.1.2 rfl
  case writes =>
    have output : BitVec.ofNat 5 i.toNat = 30 ↔ i = 30 :=
      (index_eq_iff (k := 30) (by omega) (by decide)).trans (BitVec.toNat_inj (x := i) (y := 30))
    refine exec_waits (r := .headWrite (pointCode p) i d) rfl k
      ((serveHeadWrite_of pos low).trans (withHead_bound (t := s.awaiting _ tag) link bound _)) ?_ (congrArg runAll ?_)
    · split <;> exact k.1.2
    · by_cases e : i = 30
      · rw [if_pos (output.mpr e), if_pos e]
        rfl
      · rw [if_neg (fun o => e (output.mp o)), if_neg e]
        rfl
  case complete =>
    rw [exec_act rfl out, readComplete_of slot sent read asked, formReply_waited (s := freeSlot s) _ waits]
    rfl
  case timeout =>
    rw [exec_act rfl out, readTimeout_of slot sent read asked, formReply_waited (s := freeSlot s) _ waits]
    rfl
  case posted =>
    rw [exec_act rfl out, writePosted_of slot sent write, formReply_waited (s := freeSlot s) _ waits]
    rfl

end Sys2Proof.Machine
end

section
/-! The link start and the binding (R37 to R42): LINK_RESTART, HEADS_BIND, the events of a link start up to the last
address, and its end. -/

namespace Sys2Proof.Machine

variable {s t u : State} {tag : Byte} {p q : Point}

/-! ### Reports on which no sequencer acts in MANUAL -/

/-- A request whose reply waits, begun with reports made. -/
theorem exec_waitsEvent {c : Instr} {r : Request} (h : c.request = some (tag, r)) (k : s.Ready)
    (d : serve r (s.awaiting r.kind tag) = .waits t) : exec c s = .next (settle t) := by
  rw [exec_ready h k, d]
  rfl

/-- A report that SQU, CCU or nobody takes, in MANUAL: the loss of a point, and what follows from it. -/
def Report.ofPoint : Report → Bool
  | .pointInvalid .. | .ccuPoint .. => true
  | r => r.idle

theorem Report.ofPoint_cases {r : Report} (h : r.ofPoint = true) :
    r.idle = true ∨ (∃ p nd, r = .pointInvalid p nd) ∨ ∃ p nd, r = .ccuPoint p nd := by
  cases r
  case pointInvalid p nd => exact .inr (.inl ⟨p, nd, rfl⟩)
  case ccuPoint p nd => exact .inr (.inr ⟨p, nd, rfl⟩)
  all_goals exact .inl h

/-- t is s but for the records of SQU and CCU, the port, the run records and the waiting reports, all of them of points. -/
structure PointsOnly (s t : State) : Prop where
  eq     : t = { s with squ := t.squ, ccu := t.ccu, spt := t.spt, mdc := { s.mdc with runs := t.mdc.runs }, agenda := t.agenda }
  agenda : (∀ r ∈ s.agenda, r.ofPoint = true) → ∀ r ∈ t.agenda, r.ofPoint = true

namespace PointsOnly

theorem refl (s : State) : PointsOnly s s := ⟨rfl, id⟩

theorem trans (h : PointsOnly s t) (k : PointsOnly t u) : PointsOnly s u :=
  ⟨by rw [k.eq, h.eq], k.agenda ∘ h.agenda⟩

theorem pst_eq (h : PointsOnly s t) : t.pst = s.pst := (congrArg State.pst h.eq :)
theorem mdc_modes (h : PointsOnly s t) : t.mdc.modes = s.mdc.modes := (congrArg (fun x : State => x.mdc.modes) h.eq :)

theorem manual (h : PointsOnly s t) (m : s.BothManual) : t.BothManual := by
  intro n
  unfold State.mode
  rw [h.mdc_modes]
  exact m n

theorem report {r : Report} (i : r.ofPoint = true) (s : State) : PointsOnly s (report r s) :=
  ⟨rfl, fun h q m => by
    rcases List.mem_append.mp m with m | m
    · exact h q m
    · rwa [List.mem_singleton.mp m]⟩

end PointsOnly

theorem squInvalid_pointsOnly (p : Point) (s : State) : PointsOnly s (squInvalid p s) := by
  unfold squInvalid
  cases p with
  | src x =>
    dsimp only
    split
    · exact .refl s
    · unfold changeSrc
      dsimp only
      rw [if_neg (by decide)]
      exact .trans (t := { s with squ := { s.squ with srcs := s.squ.srcs.set x ⟨.unknown, .meas, none, s.now⟩ } }) ⟨rfl, id⟩
        (.report rfl _)
  | bus b =>
    unfold setBus
    dsimp only
    split
    · exact ⟨rfl, id⟩
    · exact .trans (t := { s with squ := { s.squ with
        buses := s.squ.buses.set b ⟨.unknown, (s.squ.buses.get b).vmax, s.now⟩ } }) ⟨rfl, id⟩ (.report rfl _)

theorem keep_pointsOnly (p : Pair) (r : PairResult) (s : State) : PointsOnly s (keep p r s) := by
  cases p <;> exact ⟨rfl, id⟩

theorem computeWatch_pointsOnly (p : Point) (nd : Word) (n : Sec) (m : s.BothManual) :
    PointsOnly s (computeWatch p nd n s) := by
  rcases computeWatch_manual p nd n m with e | ⟨q, r, e⟩ <;> rw [e]
  · exact .refl s
  · exact keep_pointsOnly q r s

theorem handle_pointsOnly {r : Report} (i : r.ofPoint = true) (m : s.BothManual) : PointsOnly s (handle r s) := by
  rcases Report.ofPoint_cases i with i | ⟨p, nd, rfl⟩ | ⟨p, nd, rfl⟩
  · rw [handle_idle i m]
    exact .refl s
  · exact (squInvalid_pointsOnly p s).trans (.report rfl _)
  · have first := computeWatch_pointsOnly p nd .sec1 m
    exact first.trans (computeWatch_pointsOnly p nd .sec2 (first.manual m))

theorem runAll_pointsOnly (s : State) : PointsOnly s (runAll s) := by
  refine ⟨?_, fun h => by simpa using h⟩
  rw [runAll_eq]

theorem drain_pointsOnly (k : Nat) (m : s.BothManual) (i : ∀ r ∈ s.agenda, r.ofPoint = true) :
    PointsOnly s (drain k s) := by
  induction k generalizing s with
  | zero => exact .refl s
  | succ k ih =>
    cases e : s.agenda with
    | nil =>
      rw [drain_none _ e]
      exact .refl s
    | cons r rest =>
      rw [drain_cons _ e]
      rw [e] at i
      have taken : PointsOnly s { s with agenda := rest } :=
        ⟨rfl, fun h q mem => h q (by rw [e]; exact List.mem_cons_of_mem _ mem)⟩
      have passed := (taken.trans (handle_pointsOnly (i r List.mem_cons_self) (taken.manual m))).trans (runAll_pointsOnly _)
      exact passed.trans (ih (passed.manual m) (passed.agenda (by rwa [e])))

/-- An event whose reports are of points leaves, in MANUAL, all but SQU's, CCU's and the port's records. -/
theorem settle_pointsOnly (m : s.BothManual) (i : ∀ r ∈ s.agenda, r.ofPoint = true) : PointsOnly s (settle s) := by
  have first := runAll_pointsOnly s
  exact first.trans (drain_pointsOnly _ (first.manual m) (first.agenda i))

/-! ### LINK_RESTART (R37, R42) -/

theorem linkStart_hlc (s : State) : (linkStart s).hlc =
    { link := .starting, rstLow := true, rstEnd := some (s.now + 1), running := false, frameNo := 0, lastEnded := none,
      outTurn := .n0, slot := none, outFrame := ⟨0, 0, 0, 0⟩, words := .all ⟨0, false⟩, discovery := .idle,
      heads := .all .unread, points := .all .unbound } := by
  unfold linkStart
  dsimp only
  rw [unbindAll_hlc]
  rfl

theorem headOnly_spt (h : HeadOnly s t) : t.spt = s.spt := (congrArg State.spt h :)
theorem headOnly_pst (h : HeadOnly s t) : t.pst = s.pst := (congrArg State.pst h :)
theorem headOnly_mdc (h : HeadOnly s t) : t.mdc = s.mdc := (congrArg State.mdc h :)

/-! ### HEADS_BIND (R41) -/

/-- A fold that sets one point's record after another, each by what the head link held at first, sets each of them. -/
theorem foldl_points {f : State → Point → State} {new : HlcState → Point → PointRec}
    (sets : ∀ s p q, (f s p).hlc.points.get q = if p = q then new s.hlc p else s.hlc.points.get q)
    (keeps : ∀ s p q, p ≠ q → new (f s p).hlc q = new s.hlc q) (l : List Point) (once : l.Nodup) (s : State) (q : Point) :
    (l.foldl f s).hlc.points.get q = if q ∈ l then new s.hlc q else s.hlc.points.get q := by
  induction l generalizing s with
  | nil => rfl
  | cons p l ih =>
    obtain ⟨out, once'⟩ := List.nodup_cons.mp once
    rw [List.foldl_cons, ih once', sets]
    by_cases e : p = q
    · subst e
      rw [if_neg out, if_pos rfl, if_pos List.mem_cons_self]
    · rw [if_neg e, keeps s p q e]
      simp [Ne.symm e]

theorem allPoints_nodup : allPoints.Nodup := by decide

theorem mem_allPoints (p : Point) : p ∈ allPoints := by
  rcases p with x | x <;> cases x <;> decide

/-- What is discovered is told by the answers of the addresses alone (R39). -/
theorem discovered_of_heads {h k : HlcState} (e : k.heads = h.heads) : k.discovered = h.discovered := by
  unfold HlcState.discovered HlcState.chosen HlcState.linesOf
  rw [e]

/-- A point's record after HEADS_BIND (R41). -/
def HlcState.rebound (h : HlcState) (p : Point) : PointRec :=
  if (h.points.get p).bound = h.discovered p then h.points.get p
  else match h.discovered p with
    | some a => { PointRec.unbound with bound := some a, status := .present }
    | none => .unbound

theorem rebind_hlc (p : Point) (s : State) :
    (rebind p s).hlc = { s.hlc with points := s.hlc.points.set p (s.hlc.rebound p) } := by
  have twice {α : Type} (t : ByPoint α) (i : Point) (v w : α) : (t.set i v).set i w = t.set i w :=
    ByPoint.ext_get fun j => by
      simp only [ByPoint.get_set]
      split <;> rfl
  unfold rebind HlcState.rebound
  dsimp only
  split
  · simp
  · cases e : s.hlc.discovered p with
    | none => exact unbind_hlc _ p s
    | some h => simp [bindPoint, unbind_hlc, twice]

/-- HEADS_BIND rebinds every point by what was discovered. -/
theorem rebindAll_points (s : State) (q : Point) :
    (allPoints.foldl (fun t p => rebind p t) s).hlc.points.get q = s.hlc.rebound q := by
  rw [foldl_points (new := HlcState.rebound) (fun s p q => ?sets) (fun s p q ne => ?keeps) allPoints allPoints_nodup,
    if_pos (mem_allPoints q)]
  case sets =>
    rw [rebind_hlc, ByPoint.get_set]
  case keeps =>
    have same : (rebind p s).hlc.discovered = s.hlc.discovered := discovered_of_heads (by rw [rebind_hlc])
    have record : (rebind p s).hlc.points.get q = s.hlc.points.get q := by
      rw [rebind_hlc]
      exact ByPoint.get_set_other _ _ ne
    unfold HlcState.rebound
    rw [same, record]

theorem rebindAll_head (s : State) : HeadOnly s (allPoints.foldl (fun t p => rebind p t) s) :=
  .foldl _ (fun _ _ => rebind_head _ _) _ _

/-- The reports of HEADS_BIND are of points. -/
theorem rebind_agenda (p : Point) (s : State) (i : ∀ r ∈ s.agenda, r.ofPoint = true) :
    ∀ r ∈ (rebind p s).agenda, r.ofPoint = true := by
  have unbound : PointsOnly s { unbind s.lastFrame p s with hlc := s.hlc } := by
    unfold unbind reportInvalid
    split
    · exact .report rfl s
    · exact .refl s
  unfold rebind
  dsimp only
  split
  · exact i
  · split <;> exact unbound.agenda i

theorem bindDiscovered_eq (s : State) : bindDiscovered s = { s with
    hlc := { (allPoints.foldl (fun t p => rebind p t) s).hlc with link := .bound }
    agenda := (allPoints.foldl (fun t p => rebind p t) s).agenda
    pst := { s.pst with
      linkMap := s.hlc.discoveredMap
      writes := s.pst.writes ++ [.linkMap s.hlc.discoveredMap] } } := by
  have head := rebindAll_head s
  have queued : enqueueWrite (.linkMap s.hlc.discoveredMap) s.pst.writes = _ := enqueueWrite_behind rfl _
  unfold bindDiscovered
  dsimp only
  rw [show allPoints.foldl (fun t p => rebind p t) s = _ from head, ← queued]
  rfl

theorem bindDiscovered_agenda (i : ∀ r ∈ s.agenda, r.ofPoint = true) :
    ∀ r ∈ (bindDiscovered s).agenda, r.ofPoint = true := by
  rw [bindDiscovered_eq]
  exact List.foldlRecOn (motive := fun t : State => ∀ r ∈ t.agenda, r.ofPoint = true) allPoints _ i
    fun t h p _ => rebind_agenda p t h

/-- Settles O26. -/
theorem linkRequestsServed : Obligations.LinkRequestsServed := by
  intro s tag k
  refine ⟨fun starting => exec_refused (r := .linkRestart) rfl k (if_pos starting), fun link => ?restart,
    fun m waiting => ⟨fun starting => exec_refused (r := .headsBind) rfl k (if_pos starting),
      fun link conflict => exec_refused (r := .headsBind) rfl k ((if_neg link).trans (if_pos conflict)),
      fun link free => ?bind⟩⟩
  case restart =>
    have moved := settle_moves (.refl : Moves (linkStart (s.awaiting 0x62 tag)) _)
    have head := linkStart_head (s.awaiting 0x62 tag)
    refine ⟨_, exec_waitsEvent (r := .linkRestart) rfl k (if_neg link), ?_, ?_, ?_⟩
    · exact moved.hlc_eq.trans (linkStart_hlc _)
    · exact moved.service_eq.trans (by rw [headOnly_spt head]; rfl)
    · exact moved.linkMap_eq.trans (by rw [headOnly_pst head]; rfl)
  case bind =>
    have waits : serve .headsBind (s.awaiting 0x63 tag) = .waits (bindDiscovered (s.awaiting 0x63 tag)) :=
      (if_neg link).trans (if_neg fun conflict => Bool.false_ne_true (free.symm.trans conflict))
    have bound := bindDiscovered_eq (s.awaiting 0x63 tag)
    have i := bindDiscovered_agenda (s := s.awaiting 0x63 tag) (by rw [show (s.awaiting 0x63 tag).agenda = [] from k.1.2]; simp)
    have m' : (bindDiscovered (s.awaiting 0x63 tag)).BothManual := by
      rw [bound]
      exact m
    have moved := settle_moves (.refl : Moves (bindDiscovered (s.awaiting 0x63 tag)) _)
    have points := settle_pointsOnly m' i
    refine ⟨_, exec_waitsEvent (r := .headsBind) rfl k waits, ?_, fun p => ?_, ?_, ?_⟩
    · rw [moved.hlc_eq, bound]
    · rw [moved.hlc_eq, bound]
      exact rebindAll_points _ p
    · rw [points.pst_eq, bound]
      rfl
    · rw [moved.service_eq, bound]
      rfl

/-! ### The events of a link start (R37, R38) -/

theorem readEnded_next {a b : Six} (h : nextAddress a = some b) (e : HeadEntry) (s : State) : readEnded a e s =
    { s with hlc := { s.hlc with
      heads := s.hlc.heads.set a e, discovery := .reading b, slot := some ⟨false, none, ⟨b, .n0⟩, 0, 0, none⟩ } } := by
  unfold readEnded
  dsimp only
  rw [h]
  rfl

theorem readyEnd_of {seen : BySix Bool} (h : s.hlc.discovery = .ready seen) : readyEnd s = discoverRead .n0 s := by
  unfold readyEnd
  rw [h]

theorem readSilent_of {a : Six} (h : s.hlc.discovery = .reading a) : readSilent s = readEnded a .silent s := by
  unfold readSilent
  rw [h]

theorem resetReleased_of {d : Nat} (h : s.hlc.rstEnd = some d) : resetReleased s =
    beginFrame 0 .n0 (modHlc (fun h => { h with
      rstLow := false, rstEnd := none, running := true, discovery := .ready (.all false) }) (reach d s)) := by
  unfold resetReleased
  rw [h]

/-- The first frame carries no command and no written word (R25). -/
theorem slots_bare {h : HlcState} (turn : h.outTurn = .n0) (word : h.words.get .n0 = ⟨0, false⟩) (slot : h.slot = none) :
    h.slots = ⟨0x800000, 0, 0, 0⟩ := by
  unfold HlcState.slots HlcState.carried
  rw [turn, word, slot]
  rfl

/-- Settles O30. -/
theorem linkStartGoesOn : Obligations.LinkStartGoesOn := by
  intro s calm
  refine ⟨fun d low slot word => ?released, fun seen ready => ?ready, fun a b reading next => ?silent⟩
  case released =>
    rw [exec_act rfl calm.1, resetReleased_of low]
    unfold beginFrame
    simp only [modHlc, reach, slot, Option.map_none]
    rw [slots_bare]
    exacts [rfl, word, rfl]
  case ready =>
    rw [exec_act rfl calm.1, readyEnd_of ready]
    rfl
  case silent =>
    rw [exec_event rfl calm.1, readSilent_of reading, readEnded_next next, settle_none]
    exact calm.2

/-! ### The end of a link start (R40, R42) -/

/-- A point's record at a link start that binds (R28, R40). -/
def HlcState.boundRec (h : HlcState) (p : Point) : PointRec :=
  match h.discovered p with
  | some a => { PointRec.unbound with bound := some a, status := .present }
  | none => h.points.get p

theorem bindAll_eq (s : State) : bindAll s = { s with hlc := { s.hlc with points := (bindAll s).hlc.points } } := by
  unfold bindAll
  refine List.foldlRecOn (motive := fun t : State => t = { s with hlc := { s.hlc with points := t.hlc.points } })
    allPoints _ rfl fun t h p _ => ?_
  rw [h]
  split <;> rfl

theorem bindAll_points (s : State) (p : Point) : (bindAll s).hlc.points.get p = s.hlc.boundRec p := by
  unfold bindAll
  have each := foldl_points (f := fun t p => match s.hlc.discovered p with | some h => bindPoint p h t | none => t)
    (new := fun h p => match s.hlc.discovered p with
      | some a => { PointRec.unbound with bound := some a, status := .present }
      | none => h.points.get p)
    (fun t p q => ?sets) (fun t p q ne => ?keeps) allPoints allPoints_nodup s p
  case sets =>
    cases s.hlc.discovered p with
    | none =>
      dsimp only
      split
      · rename_i e
        rw [e]
      · rfl
    | some a => exact ByPoint.get_set _ p q _
  case keeps =>
    cases s.hlc.discovered q with
    | some a => rfl
    | none =>
      cases s.hlc.discovered p with
      | none => rfl
      | some a => exact ByPoint.get_set_other _ _ ne
  rw [if_pos (mem_allPoints p)] at each
  exact each

/-- What the decision of binding leaves (R40), with the reply of LINK_RESTART (R42). -/
structure BindingDecided (s u : State) (tag : Byte) (t : State) : Prop where
  bound    : u.mapAgrees = true → t.hlc.link = .bound ∧ ∀ p, t.hlc.points.get p = u.hlc.boundRec p
  silent   : u.mapAgrees = true → t.spt.queue = s.spt.queue ∧ t.spt.overflow = s.spt.overflow
  mismatch : u.mapAgrees = false → t.hlc.link = .unbound ∧ t.hlc.points = u.hlc.points ∧
    let v := post (.mapMismatch u.differing u.hlc.duplicate u.hlc.lineConflict u.hlc.unrecognised) s
    t.spt.queue = v.spt.queue ∧ t.spt.overflow = v.spt.overflow
  heads    : t.hlc.heads = u.hlc.heads ∧ t.hlc.discovery = .idle
  service  : t.spt.service = some ⟨0x62, tag, .formed ⟨.ok, .restart t.hlc.link u.hlc.duplicate u.hlc.lineConflict
    u.hlc.unrecognised u.differing⟩⟩

/-- The decision looks at the head link's binding and at the port. -/
theorem BindingDecided.congr (h : BindingDecided s u tag t) {v : State} (spt : v.spt = t.spt)
    (hlc : v.hlc.link = t.hlc.link ∧ v.hlc.points = t.hlc.points ∧ v.hlc.heads = t.hlc.heads ∧
      v.hlc.discovery = t.hlc.discovery) : BindingDecided s u tag v := by
  obtain ⟨link, points, heads, discovery⟩ := hlc
  obtain ⟨bound, silent, mismatch, ended, service⟩ := h
  exact ⟨by rwa [link, points], by rwa [spt], by rwa [link, points, spt], by rwa [heads, discovery], by rwa [spt, link]⟩

theorem decideBinding_agrees (a : s.mapAgrees = true) : decideBinding s = { s with hlc := { s.hlc with
    discovery := .idle, slot := none, link := .bound
    points := (bindAll (modHlc (fun h => { h with discovery := .idle, slot := none }) s)).hlc.points } } := by
  unfold decideBinding
  dsimp only
  rw [if_pos a, bindAll_eq]
  rfl

/-- A notice looks at the port and the tick (R190). -/
theorem post_spt_congr (n : Note) (spt : t.spt = s.spt) (now : t.now = s.now) : (post n t).spt = (post n s).spt := by
  unfold post State.stamp
  rw [spt, now]
  split <;> rfl

theorem decideBinding_differs (a : s.mapAgrees = false) : decideBinding s = { s with
    hlc := { s.hlc with discovery := .idle, slot := none, link := .unbound }
    spt := (post (.mapMismatch s.differing s.hlc.duplicate s.hlc.lineConflict s.hlc.unrecognised) s).spt } := by
  unfold decideBinding
  dsimp only
  rw [if_neg (by rw [a]; exact Bool.false_ne_true), post_eq,
    show (post _ (modHlc _ (modHlc _ s))).spt = (post _ s).spt from post_spt_congr _ rfl rfl]
  rfl

/-- The end of a link start once the board is adopted, from a port and a tick that discovery has left as they were. -/
theorem linkStartEnd_decides (ad : u.adopted = true) (waits : u.spt.service = some ⟨0x62, tag, .deferred⟩)
    (spt : u.spt = s.spt) (now : u.now = s.now) :
    BindingDecided s u tag (linkStartEnd u) ∧ (linkStartEnd u).agenda = u.agenda := by
  have ended {t : State} (e : decideBinding u = t) (ad' : t.adopted = true)
      (waits' : t.spt.service = some ⟨0x62, tag, .deferred⟩) :
      linkStartEnd u = setService 0x62 tag (.formed t.restartAnswer) t := by
    unfold linkStartEnd
    dsimp only
    rw [e, formReply_waited _ waits']
    exact if_pos ad'
  cases a : u.mapAgrees with
  | true =>
    rw [ended (decideBinding_agrees a) ad waits]
    refine ⟨⟨fun _ => ⟨rfl, bindAll_points _⟩, fun _ => ?_, fun b => by simp [a] at b, ⟨rfl, rfl⟩, rfl⟩, rfl⟩
    rw [← spt]
    exact ⟨rfl, rfl⟩
  | false =>
    rw [ended (decideBinding_differs a) ad ((Moves.noted .refl _).service_eq.trans waits)]
    refine ⟨⟨fun b => by simp [a] at b, fun b => by simp [a] at b, fun _ => ⟨rfl, rfl, ?_⟩, ⟨rfl, rfl⟩, rfl⟩, rfl⟩
    have same := post_spt_congr (.mapMismatch u.differing u.hlc.duplicate u.hlc.lineConflict u.hlc.unrecognised) spt now
    exact ⟨(congrArg SptState.queue same :), (congrArg SptState.overflow same :)⟩

theorem readEnded_last (e : HeadEntry) (s : State) : readEnded .n5 e s = linkStartEnd (s.discovered e) := rfl

/-- What a frame's end changes of the head link after its own work: the next frame. -/
theorem beginFrame_decided (n : Word) (turn : Six) (h : BindingDecided s u tag t) :
    BindingDecided s u tag (beginFrame n turn t) := h.congr rfl ⟨rfl, rfl, rfl, rfl⟩

/-- The end of the link start's event, run requests included. -/
theorem settle_decided (h : BindingDecided s u tag t) (a : t.agenda = []) : BindingDecided s u tag (settle t) := by
  rw [settle_none a]
  exact h.congr (by simp) (by simp)

/-- The answers of a frame are the lines that answer, each with its identity (R38). -/
theorem mem_answersOf {lines : BySix InLine} {a i : Six} {d : Half} : ⟨i, d⟩ ∈ answersOf lines a ↔ Heard lines a i d := by
  have one (j : Six) : ((if (lines.get j).good a = true then
      match (lines.get j).echo with
      | some (0, d) => some ⟨j, d⟩
      | _ => none
    else none) = some (⟨i, d⟩ : HeadAnswer)) ↔ j = i ∧ Heard lines a i d := by
    unfold Heard
    split
    · rename_i good
      split
      · rename_i e heard
        constructor
        · intro h
          cases h
          exact ⟨rfl, good, heard⟩
        · rintro ⟨rfl, -, heard'⟩
          cases heard.symm.trans heard'
          rfl
      · rename_i other
        refine ⟨fun h => (by cases h), ?_⟩
        rintro ⟨rfl, -, heard⟩
        exact absurd heard (other d)
    · rename_i bad
      refine ⟨fun h => (by cases h), ?_⟩
      rintro ⟨rfl, good, -⟩
      exact absurd good bad
  unfold answersOf
  rw [List.mem_filterMap]
  constructor
  · rintro ⟨j, -, h⟩
    exact ((one j).mp h).2
  · intro h
    exact ⟨i, by cases i <;> decide, (one i).mpr ⟨rfl, h⟩⟩

/-- With no point bound a frame brings nothing to any. -/
theorem allPointFrames_unbound (lines : BySix InLine) (n : Word) (h : ∀ p, (s.hlc.points.get p).bound = none) :
    allPointFrames lines n s = s := by
  have calm (p : Point) : s.eventful lines n p = false := by
    unfold State.eventful
    dsimp only
    rw [h p]
  have none (p : Point) : pointFrame lines n p s = s := by
    unfold pointFrame
    rw [h p]
  have busy : allPoints.filter (s.eventful lines n) = [] := List.filter_eq_nil_iff.mpr fun p _ => by simp [calm p]
  unfold allPointFrames
  rw [busy]
  have still : (allPoints.filter fun p => !([] : List Point).contains p).foldl (fun t p => pointFrame lines n p t) s = s :=
    List.foldlRecOn (motive := fun t : State => t = s) _ _ rfl fun t e p _ => by rw [e, none]
  simpa [raceOrder] using still

/-- A read of discovery is no request's (R38). -/
theorem commandFrame_discovery {c : HeadCmd} (slot : s.hlc.slot = some c) (read : c.write = false)
    (own : c.point = none) (lines : BySix InLine) (n : Word) : commandFrame lines n s = s := by
  unfold commandFrame
  rw [slot]
  dsimp only
  split
  · rfl
  · rw [if_neg (by simp [read]), if_pos (by simp [own])]

/-- The end of an address's read at a frame (R38): an answer, or silence at the 64th frame. -/
theorem discoveryFrame_ends {lines : BySix InLine} {n sent : Word} {a : Six} (reading : s.hlc.discovery = .reading a)
    (out : s.hlc.slot.bind (·.sentIn) = some sent) (age : 0 < frameAge n sent)
    (ends : (∃ i d, Heard lines a i d) ∨ 64 ≤ frameAge n sent) :
    ∃ e, discoveryFrame lines n s = readEnded a e s ∧ HeardAs lines a e := by
  unfold discoveryFrame
  rw [reading]
  dsimp only
  rw [out]
  dsimp only
  rw [if_neg (by omega)]
  cases e : answersOf lines a with
  | nil =>
    have silent : ∀ i d, ¬Heard lines a i d := fun i d h => by
      have := mem_answersOf.mpr h
      simp [e] at this
    have late : 64 ≤ frameAge n sent := ends.resolve_left fun ⟨i, d, h⟩ => silent i d h
    dsimp only
    rw [if_pos late, readSilent_of reading]
    exact ⟨.silent, rfl, silent⟩
  | cons x l => exact ⟨.answered (x :: l), rfl, by simp, fun i d => by rw [← e, mem_answersOf]⟩

/-- The work of a frame's end (R26 to R39), before the next frame begins. -/
theorem frameEnd_of (running : s.hlc.running = true) (lines : BySix InLine) :
    frameEnd lines s =
      let n := s.hlc.frameNo
      let t := modHlc (fun h => { h with lastEnded := some n }) s
      let u := settle (discoveryFrame lines n (commandFrame lines n (allPointFrames lines n t)))
      beginFrame (n + 1) (sixNext u.hlc.outTurn) u := if_pos running

/-- Settles O31. -/
theorem linkStartEnds : Obligations.LinkStartEnds := by
  intro s tag calm ad reading waits
  refine ⟨⟨_, exec_event rfl calm.1, ?silent⟩, fun lines last => ?frame⟩
  case silent =>
    rw [readSilent_of reading, readEnded_last]
    obtain ⟨decided, none⟩ := linkStartEnd_decides (s := s) (u := s.discovered .silent) ad waits rfl rfl
    obtain ⟨bound, quiet, mismatch, heads, service⟩ := settle_decided decided (none.trans calm.2)
    exact ⟨bound, quiet, mismatch, heads.1, heads.2, service⟩
  case frame =>
    obtain ⟨running, unbound, sent, slot, age, last⟩ := last
    let t : State := modHlc (fun h => { h with lastEnded := some s.hlc.frameNo }) s
    obtain ⟨e, ended, heard⟩ := discoveryFrame_ends (s := t) reading (by show s.hlc.slot.bind _ = _; rw [slot]; rfl) age last
    obtain ⟨decided, none⟩ := linkStartEnd_decides (s := s) (u := t.discovered e) ad waits rfl rfl
    have work : discoveryFrame lines s.hlc.frameNo (commandFrame lines s.hlc.frameNo
        (allPointFrames lines s.hlc.frameNo t)) = linkStartEnd (t.discovered e) := by
      rw [allPointFrames_unbound (s := t) lines _ unbound, commandFrame_discovery (s := t) slot rfl rfl, ended,
        readEnded_last]
    have frame : frameEnd lines s =
        let u := settle (linkStartEnd (t.discovered e))
        beginFrame (s.hlc.frameNo + 1) (sixNext u.hlc.outTurn) u := by
      rw [← work]
      exact frameEnd_of running lines
    refine ⟨_, e, exec_act rfl calm.1, heard, ?_⟩
    rw [frame]
    obtain ⟨bound, quiet, mismatch, heads, service⟩ := beginFrame_decided _ _ (settle_decided decided (none.trans calm.2))
    exact ⟨bound, quiet, mismatch, heads.1, heads.2, service⟩

end Sys2Proof.Machine
end

section
/-! Heads lost, stale records and the ends of the qualification timers in MANUAL (R29 to R31, R50 to R58); the ALARM
one-shot, GEN_TEST and the generators' timers (R97, R98, R172 to R174). -/

namespace Sys2Proof.Machine

variable {s t u : State} {tag : Byte} {p : Point} {x : Src}

/-! ### Reports that at most CCU takes, in MANUAL -/

/-- A report on which nothing acts in MANUAL but, where a watch names the point, CCU. -/
def Report.passing (r : Report) : Prop := r.idle = true ∨ ∃ p nd, r = .ccuPoint p nd

theorem computeWatch_ccu (p : Point) (nd : Word) (n : Sec) (m : s.BothManual) :
    ∃ c, computeWatch p nd n s = { s with ccu := c } := by
  rcases computeWatch_manual p nd n m with e | ⟨q, r, e⟩ <;> rw [e]
  · exact ⟨s.ccu, rfl⟩
  · cases q <;> exact ⟨_, rfl⟩

theorem handle_passing {r : Report} (i : r.passing) (m : s.BothManual) : ∃ c, handle r s = { s with ccu := c } := by
  rcases i with i | ⟨p, nd, rfl⟩
  · exact ⟨s.ccu, handle_idle i m⟩
  · obtain ⟨c, first⟩ := computeWatch_ccu p nd .sec1 m
    obtain ⟨c', second⟩ := computeWatch_ccu (s := { s with ccu := c }) p nd .sec2 m
    refine ⟨c', ?_⟩
    show computeWatch p nd .sec2 (computeWatch p nd .sec1 s) = _
    rw [first, second]

/-- Reports that at most CCU takes leave all but CCU's and the run records. -/
theorem drain_passing (k : Nat) (m : s.BothManual) (i : ∀ r ∈ s.agenda, r.passing) :
    ∃ c v l, drain k s = { s with ccu := c, mdc := { s.mdc with runs := v }, agenda := l } := by
  induction k generalizing s with
  | zero => exact ⟨_, _, _, rfl⟩
  | succ k ih =>
    cases e : s.agenda with
    | nil => exact ⟨s.ccu, s.mdc.runs, s.agenda, drain_none _ e⟩
    | cons r rest =>
      rw [e] at i
      obtain ⟨c, taken⟩ := handle_passing (s := { s with agenda := rest }) (i r List.mem_cons_self) m
      rw [drain_cons _ e, taken, runAll_eq]
      obtain ⟨c', v, l, ended⟩ := ih (s := { s with
          ccu := c, mdc := { s.mdc with runs := (runAll { s with agenda := rest, ccu := c }).mdc.runs }, agenda := rest })
        m (fun q h => i q (List.mem_cons_of_mem _ h))
      exact ⟨c', v, l, ended⟩

/-- What SQU does at a point's loss: the record of the point, and reports on which nothing acts in MANUAL. -/
theorem squInvalid_eq (p : Point) (s : State) :
    ∃ l : List Report, squInvalid p s = { s with squ := (squInvalid p s).squ, agenda := s.agenda ++ l } ∧
      ∀ r ∈ l, r.idle = true := by
  unfold squInvalid
  cases p with
  | src x =>
    dsimp only
    split
    · exact ⟨[], by simp, by simp⟩
    · exact ⟨[.srcChanged x (s.srcState x) .unknown .meas], rfl, by simp [Report.idle]⟩
  | bus b =>
    unfold setBus
    dsimp only
    split
    · exact ⟨[], by simp, by simp⟩
    · exact ⟨[.busChanged b (s.squ.buses.get b).state .unknown], rfl, by simp [Report.idle, Report.inert]⟩

/-- At a point's loss SQU looks at its own records and the tick. -/
theorem squInvalid_squ_congr (p : Point) (squ : t.squ = s.squ) (now : t.now = s.now) :
    (squInvalid p t).squ = (squInvalid p s).squ := by
  unfold squInvalid
  cases p with
  | src x =>
    unfold State.srcState
    rw [squ]
    dsimp only
    split
    · exact squ
    · simp [changeSrc, squ, now]
  | bus b =>
    unfold setBus
    dsimp only
    rw [squ, now]
    split <;> rfl

/-- The end of an event whose one report is the loss of a point, in MANUAL: SQU takes it. -/
theorem settle_pointInvalid {nd : Word} (m : s.BothManual) (a : s.agenda = [.pointInvalid p nd]) :
    ∃ c v l, settle s =
      { s with squ := (squInvalid p s).squ, ccu := c, mdc := { s.mdc with runs := v }, agenda := l } := by
  obtain ⟨r, first⟩ : ∃ r, runAll s = { s with mdc := { s.mdc with runs := r } } := ⟨_, runAll_eq s⟩
  let t : State := { s with mdc := { s.mdc with runs := r }, agenda := [] }
  obtain ⟨l, taken, idle⟩ := squInvalid_eq p t
  have squ : (squInvalid p t).squ = (squInvalid p s).squ := squInvalid_squ_congr p rfl rfl
  have handled : handle (.pointInvalid p nd) t = { t with
      squ := (squInvalid p s).squ, agenda := l ++ [.ccuPoint p nd] } := by
    show report _ (squInvalid p t) = _
    rw [taken, squ]
    rfl
  have passing : ∀ q ∈ l ++ [Report.ccuPoint p nd], q.passing := by
    intro q h
    rcases List.mem_append.mp h with h | h
    · exact .inl (idle q h)
    · exact .inr ⟨p, nd, List.mem_singleton.mp h⟩
  obtain ⟨w, again⟩ : ∃ w, runAll { t with squ := (squInvalid p s).squ, agenda := l ++ [.ccuPoint p nd] } =
      { t with squ := (squInvalid p s).squ, agenda := l ++ [.ccuPoint p nd], mdc := { s.mdc with runs := w } } :=
    ⟨_, runAll_eq _⟩
  obtain ⟨c, v, l', ended⟩ := drain_passing (s := { t with
    squ := (squInvalid p s).squ, agenda := l ++ [.ccuPoint p nd], mdc := { s.mdc with runs := w } }) 4095 m passing
  refine ⟨c, v, l', ?_⟩
  calc settle s = drain (4095 + 1) { s with mdc := { s.mdc with runs := r } } := by rw [settle, first]
    _ = drain 4095 (runAll (handle (.pointInvalid p nd) t)) := drain_cons _ a
    _ = _ := by rw [handled, again, ended]

/-! ### Heads lost and stale records (R29 to R31) -/

/-- What the loss of a point leaves, in MANUAL (R53, R58). -/
structure PointLost (s : State) (p : Point) (r' : PointRec) (t : State) : Prop where
  hlc     : t.hlc = { s.hlc with points := s.hlc.points.set p r' }
  bcu     : t.bcu = s.bcu
  seqs    : t.seqs = s.seqs
  valid   : (s.hlc.points.get p).valid = true → t.squ = (squInvalid p s).squ
  invalid : (s.hlc.points.get p).valid = false → t.squ = s.squ

/-- The end of an event in which a point's record stops being valid, in MANUAL. -/
theorem settle_reportInvalid {r' : PointRec} {nd : Word} (calm : s.agenda = []) (m : s.BothManual) (bad : r'.valid = false)
    (e : t = { s with hlc := { s.hlc with points := s.hlc.points.set p r' }, spt := t.spt }) :
    PointLost s p r' (settle (reportInvalid (s.hlc.points.get p).valid p nd t)) := by
  have m' : t.BothManual := by
    rw [e]
    exact m
  have no : t.pointValid p = false := by
    rw [e]
    simp [State.pointValid, bad]
  cases v : (s.hlc.points.get p).valid with
  | true =>
    have a : (report (.pointInvalid p nd) t).agenda = [.pointInvalid p nd] := by
      rw [e]
      simp [calm]
    obtain ⟨c, w, l, ended⟩ := settle_pointInvalid (s := report (.pointInvalid p nd) t) m' a
    have squ : (squInvalid p (report (.pointInvalid p nd) t)).squ = (squInvalid p s).squ :=
      squInvalid_squ_congr p (by rw [e]; rfl) (by rw [e]; rfl)
    rw [reportInvalid, if_pos ⟨rfl, by simp [no]⟩, ended, squ]
    refine ⟨?_, ?_, ?_, fun _ => rfl, fun f => by simp [v] at f⟩ <;> rw [e] <;> rfl
  | false =>
    rw [reportInvalid, if_neg (by simp), settle_none (by rw [e]; exact calm)]
    refine ⟨?_, ?_, ?_, fun f => by simp [v] at f, fun _ => ?_⟩ <;> simp <;> rw [e]

theorem recordStale_of (fresh : (s.hlc.points.get p).fresh = true) : recordStale p s =
    reportInvalid (s.hlc.points.get p).valid p s.lastFrame (modPoint p (fun r => { r with fresh := false }) s) := if_pos fresh

theorem headLost_of {h : HeadPlace} (bound : (s.hlc.points.get p).bound = some h)
    (present : (s.hlc.points.get p).status = .present) : headLost p s =
    reportInvalid (s.hlc.points.get p).valid p s.lastFrame
      (post (.headLost p h) (modPoint p (fun r => { r with status := .lost, loss := 32 }) s)) := by
  unfold headLost
  dsimp only
  rw [bound]
  exact if_pos present

/-! ### The ends of the qualification timers (R50, R52) -/

/-- A source that becomes HEALTHY: in MANUAL its start timer is cancelled and no more (R173). -/
theorem srcReported_healthy (x : Src) (m : s.BothManual) : srcReported x .healthy s = runHealthy x s := by
  have a := auto_of_manual m
  have a' : ∀ n, (runHealthy x s).auto n = false := a
  simp [srcReported, clearExclusion, seqSource, a, a']

/-- An event in a still state with one report that no sequencer acts on ends with what is made of the report. -/
theorem settle_one {r : Report} (g : s.NoGenerator) (a : s.agenda = [r]) (h : handle r { s with agenda := [] } = t)
    (g' : t.NoGenerator) (a' : t.agenda = []) : settle s = t := by
  rw [settle, runAll_noGenerator g, drain_cons _ a, h, runAll_noGenerator g', drain_none _ a']

theorem squInvalid_src (known : s.srcState x ≠ .unknown) (present : s.srcState x ≠ .absent) :
    (squInvalid (.src x) s).squ = { s.squ with srcs := s.squ.srcs.set x ⟨.unknown, .meas, none, s.now⟩ } := by
  unfold squInvalid
  dsimp only
  rw [if_neg (by simp [known, present])]
  rfl

theorem squInvalid_bus (b : Sec) (s : State) : (squInvalid (.bus b) s).squ =
    let q := s.squ.buses.get b
    let q' : BusRec := ⟨.unknown, q.vmax, if q.state = .unknown then q.entered else s.now⟩
    { s.squ with buses := s.squ.buses.set b q' } := by
  unfold squInvalid setBus
  dsimp only
  split
  · rename_i e
    rw [← e]
  · rfl

theorem pickExpired_of {d : Nat} (h : (s.squ.srcs.get x).timer = some (.pick, d)) :
    pickExpired x s = changeSrc x .healthy .none none (reach d s) := by
  unfold pickExpired
  rw [h]

theorem dropExpired_of {d : Nat}
    (h : (s.squ.srcs.get x).timer = some (.drop, d) ∨ (s.squ.srcs.get x).timer = some (.fast, d)) :
    dropExpired x s = changeSrc x .down (s.squ.srcs.get x).cause none (reach d s) := by
  unfold dropExpired
  rcases h with h | h <;> rw [h]

/-- The state after a source has changed at a deadline, with its notice. -/
def State.sourceAt (s : State) (x : Src) (d : Nat) (st : SrcState) (cause : Cause) : State :=
  post (.sourceState x st (s.squ.srcs.get x).state cause)
    { s with now := max s.now d, squ := { s.squ with srcs := s.squ.srcs.set x ⟨st, cause, none, max s.now d⟩ } }

theorem changeSrc_reached {st : SrcState} (announced : (st = .healthy || st = .down) = true) (cause : Cause) (d : Nat) :
    changeSrc x st cause none (reach d s) =
      report (.srcChanged x (s.squ.srcs.get x).state st cause) (s.sourceAt x d st cause) := by
  unfold changeSrc
  dsimp only
  rw [if_pos announced]
  rfl

section Reached

variable {st : SrcState} {cause : Cause} {d : Nat}

theorem sourceAt_agenda : (s.sourceAt x d st cause).agenda = s.agenda := by simp [State.sourceAt]
theorem sourceAt_plan : (s.sourceAt x d st cause).plan = s.plan := by simp [State.sourceAt, State.plan]
theorem sourceAt_manual (m : s.BothManual) : (s.sourceAt x d st cause).BothManual := by
  intro n
  simpa [State.sourceAt, State.mode] using m n
theorem sourceAt_noGenerator (g : s.NoGenerator) : (s.sourceAt x d st cause).NoGenerator := by
  intro y
  rw [sourceAt_plan]
  exact g y

end Reached

/-- An event in which one source changes ends, in a still state, with what is made of its report. -/
theorem settle_source {st : SrcState} {cause : Cause} {d : Nat} {prev : SrcState} (h : s.Still)
    (handled : srcReported x st (s.sourceAt x d st cause) = u) (plan : u.plan = s.plan) (agenda : u.agenda = []) :
    settle (report (.srcChanged x prev st cause) (s.sourceAt x d st cause)) = u := by
  obtain ⟨calm, -, g, -⟩ := h
  have none : (s.sourceAt x d st cause).agenda = [] := sourceAt_agenda.trans calm.2
  have taken : ({ report (.srcChanged x prev st cause) (s.sourceAt x d st cause) with agenda := [] } : State) =
      s.sourceAt x d st cause := by
    rw [← none]
    rfl
  refine settle_one (r := .srcChanged x prev st cause) (sourceAt_noGenerator g) ?_ ?_ (fun y => ?_) agenda
  · rw [report_agenda, none]
    rfl
  · rw [taken]
    exact handled
  · rw [plan]
    exact g y

/-- The records of SQU after the loss of a point, written out. -/
theorem PointLost.records {r' : PointRec} (h : PointLost s p r' t) :
    t.hlc = { s.hlc with points := s.hlc.points.set p r' } ∧ t.bcu = s.bcu ∧ t.seqs = s.seqs ∧
    (∀ x, p = .src x → (s.hlc.points.get p).valid = true → s.srcState x ≠ .absent → s.srcState x ≠ .unknown →
      t.squ = { s.squ with srcs := s.squ.srcs.set x ⟨.unknown, .meas, none, s.now⟩ }) ∧
    (∀ b, p = .bus b → (s.hlc.points.get p).valid = true →
      let q := s.squ.buses.get b
      let q' : BusRec := ⟨.unknown, q.vmax, if q.state = .unknown then q.entered else s.now⟩
      t.squ = { s.squ with buses := s.squ.buses.set b q' }) ∧
    ((s.hlc.points.get p).valid = false → t.squ = s.squ) := by
  refine ⟨h.hlc, h.bcu, h.seqs, fun x e v present known => ?_, fun b e v => ?_, h.invalid⟩
  · subst e
    rw [h.valid v, squInvalid_src known present]
  · subst e
    rw [h.valid v, squInvalid_bus]

/-- Settles O29. -/
theorem sourcesLoseAndQualify : Obligations.SourcesLoseAndQualify := by
  refine ⟨fun s p calm m => ⟨fun bound present => ⟨_, exec_event rfl calm.1, ?lost⟩,
      fun fresh => ⟨_, exec_event rfl calm.1, ?stale⟩⟩,
    fun s x d still => ⟨fun timer => ?pick, fun timer => ?drop⟩⟩
  case lost =>
    obtain ⟨h, bound⟩ := Option.isSome_iff_exists.mp bound
    rw [headLost_of bound present]
    exact (settle_reportInvalid calm.2 m (by simp [PointRec.valid]) (post_eq _ _)).records
  case stale =>
    rw [recordStale_of fresh]
    exact (settle_reportInvalid calm.2 m (by simp [PointRec.valid]) rfl).records
  case pick =>
    rw [exec_event rfl still.1.1, pickExpired_of timer, changeSrc_reached rfl]
    refine congrArg _ (settle_source still (srcReported_healthy x (sourceAt_manual still.2.1)) ?_ ?_ |>.trans ?_)
    · exact sourceAt_plan
    · exact sourceAt_agenda.trans still.1.2
    · simp [runHealthy, modRun, State.sourceAt]
  case drop =>
    have idle (v : State) (m : v.BothManual) (c : Cause) : srcReported x .down v = v :=
      handle_idle (r := .srcChanged x .down .down c) rfl m
    rw [exec_event rfl still.1.1, dropExpired_of timer, changeSrc_reached rfl]
    exact congrArg _ (settle_source still (idle _ (sourceAt_manual still.2.1) .none) sourceAt_plan
      (sourceAt_agenda.trans still.1.2))

/-! ### The run requests (R171, R172) -/

theorem holdsSource_iff {l : List SecEntry} : holdsSource l x = true ↔ ∃ e ∈ l, ownSource e.sec e.entry = some x := by
  simp [holdsSource]

theorem exists_allSecs {P : Sec → Prop} : (∃ n ∈ allSecs, P n) ↔ ∃ n, P n :=
  ⟨fun ⟨n, _, h⟩ => ⟨n, h⟩, fun ⟨n, h⟩ => ⟨n, by cases n <;> decide, h⟩⟩

theorem sectionWaits_iff : s.sectionWaits x = true ↔ s.healthy x = false ∧ ∃ n, ((s.ctx n).state = .waitSource ∨
    (s.ctx n).state = .decay ∨ (s.ctx n).state = .closing) ∧ ∃ e ∈ s.selEntries n, ownSource e.sec e.entry = some x := by
  unfold State.sectionWaits
  rw [Bool.and_eq_true, Bool.not_eq_true', List.any_eq_true, exists_allSecs]
  simp only [Bool.and_eq_true, Bool.or_eq_true, beq_iff_eq, holdsSource_iff, or_assoc]

theorem feedInDoubt_iff : s.feedInDoubt x = true ↔ ∃ n y, s.feedSource n = some y ∧ s.srcState y = .dropout ∧
    ∃ e ∈ s.plan.prefs n, ownSource n e = some x := by
  have list (n : Sec) : holdsSource (s.prefs n) x = true ↔ ∃ e ∈ s.plan.prefs n, ownSource n e = some x := by
    rw [holdsSource_iff]
    simp [State.prefs]
  unfold State.feedInDoubt
  rw [List.any_eq_true, exists_allSecs]
  refine exists_congr fun n => ?_
  rw [Bool.and_eq_true, list]
  cases s.feedSource n with
  | none => simp
  | some y => simp

theorem runRequest_iff : s.runRequest x = true ↔ s.plan.kind x = .generator ∧
    (s.sectionWaits x = true ∨ s.feedInDoubt x = true ∨ s.closed (srcChan x) = true ∨ (s.mdc.runs.get x).test = true) := by
  simp only [State.runRequest, Bool.and_eq_true, Bool.or_eq_true, beq_iff_eq, or_assoc]

/-- A source's run record after its run request is formed again (R171, R172). -/
def State.moved (s : State) (x : Src) : RunRec :=
  if s.plan.kind x = .generator then
    (s.mdc.runs.get x).move (s.runRequest x) s.blocked (s.healthy x) s.now (s.plan.src x .tGenStart) (s.plan.src x .tCool)
  else s.mdc.runs.get x

theorem runStep_runs (x y : Src) (s : State) :
    (runStep x s).mdc.runs.get y = if x = y then s.moved x else s.mdc.runs.get y := by
  unfold runStep State.moved
  split
  · rw [modRun_mdc]
    exact BySrc.get_set _ _ _ _
  · split
    · rename_i e
      rw [e]
    · rfl

/-- One record's move does not touch another's request. -/
theorem runStep_moved {x y : Src} (ne : x ≠ y) (s : State) : (runStep x s).moved y = s.moved y := by
  have record : (runStep x s).mdc.runs.get y = s.mdc.runs.get y := by rw [runStep_runs, if_neg ne]
  have frame : runStep x s = { s with mdc := { s.mdc with runs := (runStep x s).mdc.runs } } := runStep_eq x s
  generalize (runStep x s).mdc.runs = v at record frame
  rw [frame]
  unfold State.moved State.runRequest
  dsimp only
  rw [record]
  rfl

theorem foldl_runStep (l : List Src) (once : l.Nodup) (s : State) (y : Src) :
    (l.foldl (fun t x => runStep x t) s).mdc.runs.get y = if y ∈ l then s.moved y else s.mdc.runs.get y := by
  induction l generalizing s with
  | nil => rfl
  | cons x l ih =>
    obtain ⟨out, once'⟩ := List.nodup_cons.mp once
    rw [List.foldl_cons, ih once']
    by_cases e : x = y
    · subst e
      rw [if_neg out, if_pos List.mem_cons_self, runStep_runs, if_pos rfl]
    · rw [runStep_moved e, runStep_runs, if_neg e]
      simp [Ne.symm e]

/-- Forming the run requests moves each record by its own request. -/
theorem runAll_runs (ad : s.adopted = true) (x : Src) : (runAll s).mdc.runs.get x = s.moved x := by
  rw [runAll, if_pos ad, foldl_runStep allSrcs (by decide), if_pos (by cases x <;> decide)]

/-- Settles O23. -/
theorem runRequestsMoveRecords : Obligations.RunRequestsMoveRecords := by
  refine ⟨fun s x => ?request, fun r healthy now tGen tCool => ⟨fun off => ?off, fun run => ?run, fun cool => ?cool⟩,
    fun s ad => ⟨runAll_eq s, fun x => runAll_runs ad x⟩⟩
  case request => rw [runRequest_iff, sectionWaits_iff, feedInDoubt_iff]
  case off =>
    unfold RunRec.move
    rw [off]
    exact ⟨rfl, rfl, fun q => by cases q <;> rfl⟩
  case run =>
    unfold RunRec.move
    rw [run]
    exact ⟨rfl, fun b => by cases b <;> rfl, rfl⟩
  case cool =>
    unfold RunRec.move
    rw [cool]
    exact ⟨fun b => by cases b <;> rfl, rfl, rfl⟩

/-- A move keeps the test flag. -/
theorem moved_test (s : State) (x : Src) : (s.moved x).test = (s.mdc.runs.get x).test := by
  unfold State.moved RunRec.move
  repeat' split
  all_goals rfl

/-! ### The ALARM and the generators (R97, R98, R172 to R174) -/

theorem coolExpiry_of {d : Nat} (h : (s.mdc.runs.get x).coolAt = some d) : coolExpiry x s =
    if s.blocked then modRun x (fun r => { r with coolAt := none, noted := true }) (reach d s)
    else modRun x (fun r => { r with state := .off, coolAt := none, startAt := none, noted := false }) (reach d s) := by
  unfold coolExpiry
  rw [h]
  rfl

theorem startExpiry_of {d : Nat} (h : (s.mdc.runs.get x).startAt = some d) : startExpiry x s =
    post (.genStartFail x (s.mdc.runs.get x).startUsed (s.squ.srcs.get x).state (s.squ.srcs.get x).cause)
      (modRun x (fun r => { r with startAt := none }) (reach d s)) := by
  unfold startExpiry
  rw [h]
  rfl

theorem alarmOver_of {d : Nat} (h : s.mdc.alarm = some d) :
    alarmOver s = { s with now := max s.now d, mdc := { s.mdc with alarm := none } } := by
  unfold alarmOver
  rw [h]
  rfl

/-- GEN_TEST with its operands in order (R173, R185). -/
theorem serveGenTest_of {v : Byte} {b : Bool} (value : bitOf v = some b) (ad : t.adopted = true) :
    serveGenTest (srcCode x) v t =
      if t.plan.kind x ≠ .generator then refuse .notAvailable t
      else .after (modRun x (fun r => { r with test := b }) t)
        fun u => ⟨.ok, .gen (u.mdc.runs.get x).test (u.mdc.runs.get x).state (u.runLine x)⟩ := by
  unfold serveGenTest
  rw [srcOf_srcCode, withArg_some, value, withArg_some, afterStart_on ad]

/-- Settles O33. -/
theorem outputsFollow : Obligations.OutputsFollow := by
  intro s tag v b
  refine ⟨fun k => exec_done (r := .alarmSilence) rfl k rfl rfl, fun d out alarm => ?alarm,
    fun x k ad value => ⟨fun other => ?none, fun gen => ?test⟩,
    fun x d out => ⟨fun cool free => ?cool, fun cool held => ?noted, fun start => ?start⟩⟩
  case alarm => rw [exec_act rfl out, alarmOver_of alarm]
  case none =>
    exact exec_refused (r := .genTest (srcCode x) v) rfl k
      ((serveGenTest_of (t := s.awaiting 0x72 tag) value ad).trans (if_pos other))
  case test =>
    have served := (serveGenTest_of (t := s.awaiting 0x72 tag) (x := x) value ad).trans (if_neg (not_not.mpr gen))
    have flag : ((runAll (modRun x (fun r => { r with test := b }) (s.awaiting 0x72 tag))).mdc.runs.get x).test = b := by
      rw [runAll_runs (s := modRun x _ (s.awaiting 0x72 tag)) ad, moved_test]
      simp
    rw [exec_after (r := .genTest (srcCode x) v) rfl k served, settle_none (by exact k.1.2), flag]
    rfl
  case cool => rw [exec_act rfl out, coolExpiry_of cool, if_neg (by simp [free])]; rfl
  case noted => rw [exec_act rfl out, coolExpiry_of cool, if_pos held]; rfl
  case start => rw [exec_act rfl out, startExpiry_of start]; rfl

end Sys2Proof.Machine
end

section
/-! The end of a head link frame: the bound points (R26 to R31), the next frame's outbound slots (R25, R36), and what the
frame brings to the head command in the slot and to discovery (R33, R34, R38). -/

namespace Sys2Proof.Machine

variable {s t u : State} {lines : BySix InLine} {n : Word} {p : Point}

/-! ### Notices stay in the queue -/

/-- Every notice of s is in t, unless t's queue has dropped one (R190). -/
def NotesGrow (s t : State) : Prop :=
  t.spt.overflow = false → s.spt.overflow = false ∧ ∀ m ∈ s.spt.queue.map (·.note), m ∈ t.spt.queue.map (·.note)

namespace NotesGrow

theorem refl (s : State) : NotesGrow s s := fun o => ⟨o, fun _ h => h⟩

theorem trans (h : NotesGrow s t) (k : NotesGrow t u) : NotesGrow s u := fun o =>
  ⟨(h (k o).1).1, fun m q => (k o).2 m ((h (k o).1).2 m q)⟩

theorem of_spt (q : t.spt.queue = s.spt.queue) (o : t.spt.overflow = s.spt.overflow) : NotesGrow s t := fun f =>
  ⟨o ▸ f, fun m h => by rwa [q]⟩

theorem noted (h : NotesGrow s t) {m : Note} (k : s.Noted m) : t.Noted m := fun o => (h o).2 m (k (h o).1)

theorem post (m : Note) (s : State) : NotesGrow s (post m s) := by
  unfold Machine.post
  split
  · exact fun o => ⟨o, fun m h => by simp only [List.map_append, List.mem_append]; exact .inl h⟩
  · exact fun o => by cases o

end NotesGrow

/-- A notice posted is in the queue, unless the queue was full (R190). -/
theorem noted_post (m : Note) (s : State) : (post m s).Noted m := by
  unfold post State.Noted
  split
  · simp
  · exact fun o => by cases o

theorem Moves.notesGrow (h : Moves s t) : NotesGrow s t := by
  have same {u v : State} (k : NotesGrow s u) (e : v.spt = u.spt) : NotesGrow s v :=
    k.trans (.of_spt (by rw [e]) (by rw [e]))
  induction h with
  | refl => exact .refl s
  | other _ e ih => exact same ih (congrArg Guarded.spt e :)
  | noted _ n ih => exact ih.trans (.post n _)
  | close _ c q _ ih => exact same ih (by simp [startClose])
  | claim _ n _ _ _ ih => exact same ih (by simp [startClose])
  | release _ ih => exact same ih (by simp [releaseTie])
  | trip _ c q _ ih => exact same ih (startTrip_spt _ _ _)
  | stop _ c ih => exact same ih (by simp [stopPulse])
  | learned _ c v ih => exact same ih (by simp)
  | shed _ f _ ih => exact same ih (by simp [markShed])
  | back _ f _ ih => exact same ih (by simp [markBack])
  | pop _ n f _ ih => exact same ih (by simp [markBack])
  | demand _ f v ih => exact ih
  | drive _ f ih => exact same ih (by simp)
  | drop _ _ ih => exact ih
  | activate _ p _ ih => exact ih

/-! ### One point at the end of a frame (R26 to R31) -/

/-- A bound point's record after its line's part of the frame, its staleness aside. -/
def PointRec.heard (r : PointRec) (l : InLine) (good : Bool) (n : Word) : PointRec :=
  if good then
    let r' := { r with status := .present, loss := 0, input := if l.slotValid 8 then l.s8.extractLsb' 0 16 else r.input }
    match l.summary n with
    | some m => { r' with last := some m, fresh := true }
    | none => r'
  else if r.status = .present ∧ 31 ≤ r.loss then { r with status := .lost, loss := 32 }
  else { r with loss := min 32 (r.loss + 1) }

/-- A record that is 240 frames old is stale (R29). -/
def PointRec.staled (r : PointRec) (n : Word) : PointRec := if r.aged n then { r with fresh := false } else r

/-- A point's record at the end of a frame. -/
def PointRec.afterFrame (r : PointRec) (lines : BySix InLine) (n : Word) : PointRec :=
  match r.bound with
  | none => r
  | some h => (r.heard (lines.get h.line) ((lines.get h.line).good h.addr) n).staled n

/-- t has one point's record replaced, and keeps the rest of the head link, the request in service and the notices. -/
structure PointSet (s : State) (p : Point) (r : PointRec) (t : State) : Prop where
  hlc     : t.hlc = { s.hlc with points := s.hlc.points.set p r }
  service : t.spt.service = s.spt.service
  notes   : NotesGrow s t

namespace PointSet

variable {r r' : PointRec}

theorem moves (h : PointSet s p r t) (k : Moves t u) : PointSet s p r u :=
  ⟨k.hlc_eq.trans h.hlc, k.service_eq.trans h.service, h.notes.trans k.notesGrow⟩

theorem get (h : PointSet s p r t) : t.hlc.points.get p = r := by
  rw [h.hlc]
  exact ByPoint.get_set_self _ _ _

/-- The record is changed once more. -/
theorem again (h : PointSet s p r t) {f : PointRec → PointRec} (e : f r = r') : PointSet s p r' (modPoint p f t) where
  hlc := by
    have twice {α : Type} (t : ByPoint α) (i : Point) (v w : α) : (t.set i v).set i w = t.set i w :=
      ByPoint.ext_get fun j => by
        simp only [ByPoint.get_set]
        split <;> rfl
    simp [h.hlc, twice, e]
  service := by simpa using h.service
  notes := h.notes.trans (.of_spt (by simp) (by simp))

theorem start {f : PointRec → PointRec} (e : f (s.hlc.points.get p) = r) : PointSet s p r (modPoint p f s) :=
  ⟨by simp [e], by simp, .of_spt (by simp) (by simp)⟩

theorem same (s : State) (p : Point) : PointSet s p (s.hlc.points.get p) s := ⟨by simp, rfl, .refl s⟩

end PointSet

section Bound

variable {h : HeadPlace}

theorem goodFrame_set (h : HeadPlace) (l : InLine) (p : Point) (s : State) :
    PointSet s p { s.hlc.points.get p with
      status := .present, loss := 0
      input := if l.slotValid 8 then l.s8.extractLsb' 0 16 else (s.hlc.points.get p).input } (goodFrame p h l s) := by
  have marked : PointSet s p _ (modPoint p (fun r => { r with
    status := .present, loss := 0, input := if l.slotValid 8 then l.s8.extractLsb' 0 16 else r.input }) s) := .start rfl
  unfold goodFrame
  dsimp only
  by_cases lost : (s.hlc.points.get p).status = .lost
  · rw [if_pos lost]
    exact marked.moves (.noted .refl _)
  · rw [if_neg lost]
    exact marked

theorem arrive_set {r : PointRec} {m : Summary} (h : PointSet s p r t) :
    PointSet s p { r with last := some m, fresh := true } (arrive p m t) :=
  (h.again (f := fun r => { r with last := some m, fresh := true }) rfl).moves (report_moves _ (judge_moves p m .refl))

theorem reportInvalid_moves (was : Bool) (p : Point) (nd : Word) (s : State) : Moves s (reportInvalid was p nd s) := by
  unfold reportInvalid
  split
  · exact report_moves _ .refl
  · exact .refl

theorem modPoint_grows (p : Point) (f : PointRec → PointRec) (s : State) : NotesGrow s (modPoint p f s) :=
  .of_spt (by simp) (by simp)

theorem recordStale_grows (p : Point) (s : State) : NotesGrow s (recordStale p s) := by
  unfold recordStale
  dsimp only
  split
  · exact (modPoint_grows _ _ _).trans (reportInvalid_moves _ _ _ _).notesGrow
  · exact .refl s

theorem arrive_grows (p : Point) (m : Summary) (s : State) : NotesGrow s (arrive p m s) :=
  (modPoint_grows _ _ _).trans (report_moves _ (judge_moves p m .refl)).notesGrow

theorem badFrame_set (bound : (s.hlc.points.get p).bound = some h) (l : InLine) :
    PointSet s p ((s.hlc.points.get p).heard l false n) (badFrame p s) := by
  unfold badFrame PointRec.heard
  dsimp only
  rw [if_neg Bool.false_ne_true]
  split
  · rename_i lost
    rw [headLost_of bound lost.1]
    have marked : PointSet s p _ (modPoint p (fun r => { r with status := .lost, loss := 32 }) s) := .start rfl
    exact marked.moves ((Moves.noted .refl _).trans (reportInvalid_moves _ _ _ _))
  · exact .start rfl

theorem heardFrame_set (bound : (s.hlc.points.get p).bound = some h) (l : InLine) :
    PointSet s p ((s.hlc.points.get p).heard l (l.good h.addr) n)
      (if l.good h.addr then
        let t := goodFrame p h l s
        match l.summary n with
        | some m => arrive p m t
        | none => t
      else badFrame p s) := by
  cases good : l.good h.addr with
  | false => exact badFrame_set bound l
  | true =>
    rw [if_pos rfl]
    dsimp only
    unfold PointRec.heard
    rw [if_pos rfl]
    cases l.summary n with
    | none => exact goodFrame_set h l p s
    | some m => exact arrive_set (goodFrame_set h l p s)

/-- The record goes stale where it has the age (R29). -/
theorem staled_set {r : PointRec} (k : PointSet s p r t) :
    PointSet s p (r.staled n) (if (t.hlc.points.get p).aged n then settle (recordStale p t) else t) := by
  unfold PointRec.staled
  rw [k.get]
  split
  · rename_i aged
    have fresh : (t.hlc.points.get p).fresh = true := by
      rw [k.get]
      unfold PointRec.aged at aged
      exact (Bool.and_eq_true_iff.mp aged).1
    rw [recordStale_of fresh]
    exact (k.again (f := fun r => { r with fresh := false }) rfl).moves ((reportInvalid_moves _ _ _ _).trans (settle_moves .refl))
  · exact k

end Bound

/-- One point at the end of a frame has its own record moved and nothing else of the head link. -/
theorem pointFrame_set (lines : BySix InLine) (n : Word) (p : Point) (s : State) :
    PointSet s p ((s.hlc.points.get p).afterFrame lines n) (pointFrame lines n p s) := by
  unfold pointFrame PointRec.afterFrame
  cases bound : (s.hlc.points.get p).bound with
  | none => exact .same s p
  | some h => exact staled_set ((heardFrame_set bound (lines.get h.line)).moves (settle_moves .refl))

/-! ### All points at the end of a frame -/

/-- A point with this record posts a notice at the end of a frame. -/
def PointPosts (lines : BySix InLine) (n : Word) (p : Point) (r : PointRec) (m : Note) : Prop :=
  ∀ s : State, s.hlc.points.get p = r → (pointFrame lines n p s).Noted m

/-- What the point frames leave: each point's record moved by its own line, the rest of the head link as it was. -/
structure PointsHeard (s : State) (lines : BySix InLine) (n : Word) (t : State) : Prop where
  hlc     : t.hlc = { s.hlc with points := t.hlc.points }
  points  : ∀ p, t.hlc.points.get p = (s.hlc.points.get p).afterFrame lines n
  service : t.spt.service = s.spt.service
  notes   : NotesGrow s t
  told    : ∀ p m, PointPosts lines n p (s.hlc.points.get p) m → t.Noted m

theorem insertRanked_perm {α : Type} (x : Nat × α) (l : List (Nat × α)) : (insertRanked x l).Perm (x :: l) := by
  induction l with
  | nil => exact .refl _
  | cons y l ih =>
    unfold insertRanked
    split
    · exact .refl _
    · exact (ih.cons y).trans (.swap x y l)

theorem sortRanked_perm {α : Type} (l : List (Nat × α)) : (sortRanked l).Perm (l.map (·.2)) := by
  have sorted : (l.foldr insertRanked []).Perm l := by
    induction l with
    | nil => exact .refl _
    | cons x l ih => exact (insertRanked_perm x _).trans (ih.cons x)
  exact sorted.map _

/-- The order in which things that fall together are taken leaves none out and takes none twice. -/
theorem raceOrder_perm {α : Type} (k : Nat) (l : List α) : (raceOrder k l).Perm l := by
  unfold raceOrder
  split
  · exact .refl _
  · exact .refl _
  · refine (sortRanked_perm _).trans (.of_eq ?_)
    rw [List.map_map]
    exact List.zipIdx_map_fst 0 l

/-- Points taken one after another, each once. -/
theorem foldl_pointFrames (lines : BySix InLine) (n : Word) (l : List Point) (once : l.Nodup) (s : State) :
    let t := l.foldl (fun t p => pointFrame lines n p t) s
    t.hlc = { s.hlc with points := t.hlc.points } ∧
    (∀ q, t.hlc.points.get q =
      if q ∈ l then (s.hlc.points.get q).afterFrame lines n else s.hlc.points.get q) ∧
    t.spt.service = s.spt.service ∧ NotesGrow s t := by
  have points (s : State) (p q : Point) : (pointFrame lines n p s).hlc.points.get q =
      if p = q then (s.hlc.points.get p).afterFrame lines n else s.hlc.points.get q := by
    rw [(pointFrame_set lines n p s).hlc]
    exact ByPoint.get_set _ _ _ _
  have rest := List.foldlRecOn (motive := fun t : State =>
      t.hlc = { s.hlc with points := t.hlc.points } ∧ t.spt.service = s.spt.service ∧ NotesGrow s t) l
    (fun t p => pointFrame lines n p t) ⟨rfl, rfl, .refl s⟩ fun t ⟨hlc, service, notes⟩ p _ => by
      obtain ⟨hlc', service', notes'⟩ := pointFrame_set lines n p t
      exact ⟨by rw [hlc', hlc], service'.trans service, notes.trans notes'⟩
  refine ⟨rest.1, ?_, rest.2⟩
  refine foldl_points (new := fun h p => (h.points.get p).afterFrame lines n) points (fun s p q ne => ?_) l once s
  rw [points, if_neg ne]

/-- Points taken one after another post their notices. -/
theorem foldl_posts {r : PointRec} {m : Note} (posts : PointPosts lines n p r m) (l : List Point) (mem : p ∈ l) (s : State)
    (e : s.hlc.points.get p = r) : (l.foldl (fun t p => pointFrame lines n p t) s).Noted m := by
  induction l generalizing s with
  | nil => cases mem
  | cons q l ih =>
    have grow (t : State) : NotesGrow t (l.foldl (fun t p => pointFrame lines n p t) t) :=
      List.foldlRecOn (motive := NotesGrow t) l _ (.refl t) fun u h p _ => h.trans (pointFrame_set lines n p u).notes
    by_cases same : q = p
    · exact (grow _).noted (posts s e |> fun h => same ▸ h)
    · refine ih ((List.mem_cons.mp mem).resolve_left (Ne.symm same)) _ ?_
      rw [(pointFrame_set lines n q s).hlc]
      exact (ByPoint.get_set _ _ _ _).trans ((if_neg same).trans e)

/-- Each bound point is taken once at the end of a frame, whatever the order. -/
theorem allPointFrames_heard (lines : BySix InLine) (n : Word) (s : State) :
    PointsHeard s lines n (allPointFrames lines n s) := by
  unfold allPointFrames
  dsimp only
  generalize busyEq : allPoints.filter (s.eventful lines n) = busy
  obtain ⟨hlc, points, service, notes⟩ := foldl_pointFrames lines n (allPoints.filter fun p => !busy.contains p)
    (allPoints_nodup.filter _) s
  generalize tEq : (allPoints.filter fun p => !busy.contains p).foldl (fun t p => pointFrame lines n p t) s = t at *
  have free : ∀ b : Bool, (if b then useFree t else t).hlc = t.hlc ∧ (if b then useFree t else t).spt = t.spt := by
    intro b
    cases b <;> exact ⟨rfl, rfl⟩
  obtain ⟨hlcF, sptF⟩ := free (decide (2 ≤ busy.length))
  simp only [decide_eq_true_eq] at hlcF sptF
  have once : (raceOrder t.freeCount busy).Nodup :=
    (raceOrder_perm _ _).nodup_iff.mpr (busyEq ▸ allPoints_nodup.filter _)
  obtain ⟨hlc', points', service', notes'⟩ := foldl_pointFrames lines n (raceOrder t.freeCount busy) once
    (if 2 ≤ busy.length then useFree t else t)
  have grow : NotesGrow t (if 2 ≤ busy.length then useFree t else t) := .of_spt (by rw [sptF]) (by rw [sptF])
  refine ⟨by rw [hlc', hlcF, hlc], fun p => ?_, ?_, notes.trans (grow.trans notes'), fun p m posts => ?_⟩
  · simp only [points', (raceOrder_perm _ _).mem_iff, hlcF, points]
    by_cases late : p ∈ busy <;> simp [late, mem_allPoints p]
  · rw [service', sptF, service]
  · by_cases late : p ∈ busy
    · refine foldl_posts posts _ ((raceOrder_perm _ _).mem_iff.mpr late) _ ?_
      rw [hlcF, points, if_neg (by simp [late])]
    · refine ((grow.trans notes').noted (?_ : t.Noted m))
      rw [← tEq]
      exact foldl_posts posts _ (by simp [late, mem_allPoints p]) _ rfl

/-! ### A point's record after a frame -/

section Record

variable {h : HeadPlace} {r : PointRec} {l : InLine} {m : Summary}

theorem PointRec.heard_good (r : PointRec) (l : InLine) (n : Word) : r.heard l true n =
    { r with
      status := .present, loss := 0, input := if l.slotValid 8 then l.s8.extractLsb' 0 16 else r.input
      last := (l.summary n).or r.last, fresh := (l.summary n).isSome || r.fresh } := by
  unfold PointRec.heard
  rw [if_pos rfl]
  cases l.summary n <;> rfl

theorem PointRec.heard_lost (present : r.status = .present) (late : 31 ≤ r.loss) :
    r.heard l false n = { r with status := .lost, loss := 32 } := by
  simp [PointRec.heard, present, late]

theorem PointRec.heard_missed (early : r.status = .lost ∨ r.loss < 31) :
    r.heard l false n = { r with loss := min 32 (r.loss + 1) } := by
  have not : ¬(r.status = .present ∧ 31 ≤ r.loss) := by
    rintro ⟨present, late⟩
    rcases early with lost | early
    · rw [present] at lost
      cases lost
    · omega
  simp [PointRec.heard, not]

/-- A bad frame moves the status and the loss count alone. -/
theorem PointRec.heard_bad (r : PointRec) (l : InLine) (n : Word) :
    ∃ st k, r.heard l false n = { r with status := st, loss := k } := by
  unfold PointRec.heard
  rw [if_neg Bool.false_ne_true]
  split
  · exact ⟨_, _, rfl⟩
  · exact ⟨r.status, _, rfl⟩

theorem PointRec.staled_eq (r : PointRec) (n : Word) : r.staled n = { r with fresh := r.fresh && !r.aged n } := by
  unfold PointRec.staled
  cases e : r.aged n <;> simp

theorem PointRec.afterFrame_bound (bound : r.bound = some h) (lines : BySix InLine) (n : Word) :
    r.afterFrame lines n = (r.heard (lines.get h.line) ((lines.get h.line).good h.addr) n).staled n := by
  unfold PointRec.afterFrame
  rw [bound]

theorem PointRec.afterFrame_unbound (bound : r.bound = none) (lines : BySix InLine) (n : Word) :
    r.afterFrame lines n = r := by
  unfold PointRec.afterFrame
  rw [bound]

theorem summary_arrival (e : l.summary n = some m) : m.arrival = n := by
  unfold InLine.summary at e
  dsimp only at e
  split at e
  · rw [← Option.some.inj e]
  · cases e

/-- The second half of a point's frame: its reports are taken, and its age is looked at (R27, R29). -/
def pointEnd (p : Point) (n : Word) (s : State) : State :=
  let t := settle s
  if (t.hlc.points.get p).aged n then settle (recordStale p t) else t

theorem pointFrame_bound (bound : (s.hlc.points.get p).bound = some h) (lines : BySix InLine) (n : Word) :
    pointFrame lines n p s = pointEnd p n
      (if (lines.get h.line).good h.addr then
        let t := goodFrame p h (lines.get h.line) s
        match (lines.get h.line).summary n with
        | some m => arrive p m t
        | none => t
      else badFrame p s) := by
  unfold pointFrame
  rw [bound]
  rfl

theorem pointEnd_grows (p : Point) (n : Word) (s : State) : NotesGrow s (pointEnd p n s) := by
  have settled (t : State) : NotesGrow t (settle t) := (settle_moves (.refl (s := t))).notesGrow
  unfold pointEnd
  dsimp only
  split
  · exact (settled s).trans ((recordStale_grows p _).trans (settled _))
  · exact settled s

/-- A head that was LOST is told of at its next good frame (R30). -/
theorem headBack_posts (bound : r.bound = some h) (good : (lines.get h.line).good h.addr = true) (lost : r.status = .lost) :
    PointPosts lines n p r (.headBack p h) := by
  rintro s rfl
  have back : (goodFrame p h (lines.get h.line) s).Noted (.headBack p h) := by
    unfold goodFrame
    dsimp only
    rw [if_pos lost]
    exact noted_post _ _
  rw [pointFrame_bound bound]
  refine (pointEnd_grows p n _).noted ?_
  rw [if_pos good]
  dsimp only
  cases (lines.get h.line).summary n with
  | none => exact back
  | some m => exact (arrive_grows p m _).noted back

/-- A head that is LOST at a frame that was not good is told of (R30). -/
theorem headLost_posts (bound : r.bound = some h) (bad : (lines.get h.line).good h.addr = false) (present : r.status = .present)
    (late : 31 ≤ r.loss) : PointPosts lines n p r (.headLost p h) := by
  rintro s rfl
  rw [pointFrame_bound bound]
  refine (pointEnd_grows p n _).noted ?_
  rw [if_neg (by simp [bad])]
  unfold badFrame
  dsimp only
  rw [if_pos ⟨present, late⟩, headLost_of bound present]
  exact (reportInvalid_moves _ _ _ _).notesGrow.noted (noted_post _ _)

end Record

/-! ### The head command at the end of a frame (R33, R34) -/

theorem formReply_service (k : Byte) (r : Reply) (s : State) :
    ∃ v, formReply k r s = { s with spt := { s.spt with service := v } } := by
  unfold formReply
  split
  · split
    · exact ⟨_, rfl⟩
    · exact ⟨s.spt.service, rfl⟩
  · exact ⟨s.spt.service, rfl⟩

/-- A command's end frees the slot at most, and forms its reply at most. -/
def CommandEnds (s t : State) : Prop :=
  ∃ c v, t = { s with hlc := { s.hlc with slot := c }, spt := { s.spt with service := v } } ∧ (c = s.hlc.slot ∨ c = none)

namespace CommandEnds

theorem same (s : State) : CommandEnds s s := ⟨s.hlc.slot, s.spt.service, rfl, .inl rfl⟩

theorem freed (k : Byte) (r : Reply) (s : State) : CommandEnds s (formReply k r (freeSlot s)) := by
  obtain ⟨v, e⟩ := formReply_service k r (freeSlot s)
  exact ⟨none, v, e, .inr rfl⟩

theorem posted (s : State) : CommandEnds s (writePosted s) := by
  unfold writePosted
  split
  · split
    · exact freed _ _ s
    · exact same s
  · exact same s

theorem completed (d : Half) (s : State) : CommandEnds s (readComplete d s) := by
  unfold readComplete
  split
  · split
    · exact freed _ _ s
    · exact same s
  · exact same s

theorem timedOut (s : State) : CommandEnds s (readTimeout s) := by
  unfold readTimeout
  split
  · split
    · exact freed _ _ s
    · exact same s
  · exact same s

theorem late (k : Nat) (s : State) : CommandEnds s (if 64 ≤ k then readTimeout s else s) := by
  split
  · exact timedOut s
  · exact same s

end CommandEnds

theorem commandFrame_ends (lines : BySix InLine) (n : Word) (s : State) : CommandEnds s (commandFrame lines n s) := by
  unfold commandFrame
  split
  · exact .same s
  · split
    · exact .same s
    · dsimp only
      split
      · exact .posted s
      · split
        · exact .same s
        · split
          · split
            · exact .completed _ s
            · exact .late _ s
          · exact .late _ s

/-- A command that has not gone out goes on waiting. -/
theorem commandFrame_waiting (h : ∀ c, s.hlc.slot = some c → c.sentIn = none) (lines : BySix InLine) (n : Word) :
    commandFrame lines n s = s := by
  unfold commandFrame
  cases slot : s.hlc.slot with
  | none => rfl
  | some c =>
    dsimp only
    rw [h c slot]


/-! ### The next frame's slots (R25, R36) -/

theorem outTag_toNat (a : Six) (w : Bool) :
    (tagBit true 23 ||| tagBit w 20 ||| (BitVec.ofNat 24 (sixNo a) <<< 14)).toNat =
      2 ^ 23 + (if w then 2 ^ 20 else 0) + sixNo a * 2 ^ 14 := by
  cases a <;> cases w <;> rfl

/-- The command's fields of the TAG lie beside the output word's. -/
theorem commandTag_toNat (a b : Six) (w write : Bool) :
    ((tagBit true 23 ||| tagBit w 20 ||| (BitVec.ofNat 24 (sixNo a) <<< 14)) ||| tagBit true 22 ||| tagBit write 21 |||
        (BitVec.ofNat 24 (sixNo b) <<< 17)).toNat =
      2 ^ 23 + (if w then 2 ^ 20 else 0) + sixNo a * 2 ^ 14 + 2 ^ 22 + (if write then 2 ^ 21 else 0) + sixNo b * 2 ^ 17 := by
  cases a <;> cases b <;> cases w <;> cases write <;> rfl

theorem carriedHalf_toNat (b : Bool) (d : Half) :
    (if b then d.zeroExtend 24 else (0 : Slot)).toNat = if b then d.toNat else 0 := by
  cases b with
  | false => rfl
  | true => simp; omega

theorem slots_word (h : HlcState) : h.slots.s3.toNat =
    if (h.words.get h.outTurn).written then (h.words.get h.outTurn).word.toNat else 0 := by
  unfold HlcState.slots
  dsimp only
  split <;> exact carriedHalf_toNat _ _

theorem slots_free {h : HlcState} (free : h.carried = none) :
    h.slots.tag.toNat = 2 ^ 23 + (if (h.words.get h.outTurn).written then 2 ^ 20 else 0) + sixNo h.outTurn * 2 ^ 14 ∧
    h.slots.s1 = 0 ∧ h.slots.s2 = 0 := by
  unfold HlcState.slots
  rw [free]
  exact ⟨outTag_toNat _ _, rfl, rfl⟩

theorem slots_command {h : HlcState} {c : HeadCmd} (carried : h.carried = some c) :
    h.slots.tag.toNat = 2 ^ 23 + (if (h.words.get h.outTurn).written then 2 ^ 20 else 0) + sixNo h.outTurn * 2 ^ 14 +
      2 ^ 22 + (if c.write then 2 ^ 21 else 0) + sixNo c.place.addr * 2 ^ 17 ∧
    h.slots.s1.toNat = c.index.toNat ∧ h.slots.s2.toNat = if c.write then c.data.toNat else 0 := by
  unfold HlcState.slots
  rw [carried]
  refine ⟨commandTag_toNat _ _ _ _, ?_, carriedHalf_toNat _ _⟩
  simp
  omega

/-- The command that the next frame finds in the slot: one that waited goes out in it (R33, R34). -/
def HeadCmd.sentBy (n : Word) (c : HeadCmd) : HeadCmd := if c.sentIn.isNone then { c with sentIn := some n } else c

/-- A command that went out in an earlier frame is not carried. -/
theorem carried_none {c : Option HeadCmd} {h : HlcState} (slot : h.slot = c.map (HeadCmd.sentBy h.frameNo))
    (gone : ∀ d, c = some d → ∃ k, d.sentIn = some k ∧ k ≠ h.frameNo) : h.carried = none := by
  unfold HlcState.carried
  rw [slot]
  cases c with
  | none => rfl
  | some d =>
    obtain ⟨k, sent, ne⟩ := gone d rfl
    simp [HeadCmd.sentBy, sent, ne]

/-- A command that waited is carried. -/
theorem carried_waited {d : HeadCmd} {h : HlcState} (slot : h.slot = some (HeadCmd.sentBy h.frameNo d))
    (waits : d.sentIn = none) : h.carried = some { d with sentIn := some h.frameNo } := by
  unfold HlcState.carried
  rw [slot]
  simp [HeadCmd.sentBy, waits]

theorem beginFrame_hlc (n : Word) (turn : Six) (s : State) :
    (beginFrame n turn s).hlc =
      let h := { s.hlc with frameNo := n, outTurn := turn, slot := s.hlc.slot.map (HeadCmd.sentBy n) }
      { h with outFrame := h.slots } := rfl

/-! ### The end of a frame (R24 to R31) -/

/-- The state in which the work of a frame's end begins. -/
def State.ending (s : State) : State := { s with hlc := { s.hlc with lastEnded := some s.hlc.frameNo } }

/-- A frame's end where discovery is idle: the points, the command, and then the next frame. -/
theorem frameEnd_idle (running : s.hlc.running = true) (idle : s.hlc.discovery = .idle) (lines : BySix InLine) :
    ∃ t, PointsHeard s.ending lines s.hlc.frameNo t ∧
      frameEnd lines s = beginFrame (s.hlc.frameNo + 1) (sixNext s.hlc.outTurn)
        (settle (commandFrame lines s.hlc.frameNo t)) := by
  have heard := allPointFrames_heard lines s.hlc.frameNo s.ending
  rw [frameEnd_of running]
  show ∃ t, _ ∧ (let u := settle (discoveryFrame lines s.hlc.frameNo (commandFrame lines s.hlc.frameNo
    (allPointFrames lines s.hlc.frameNo s.ending))); beginFrame (s.hlc.frameNo + 1) (sixNext u.hlc.outTurn) u) = _
  generalize allPointFrames lines s.hlc.frameNo s.ending = t at heard
  refine ⟨t, heard, ?_⟩
  obtain ⟨c, v, ended, -⟩ := commandFrame_ends lines s.hlc.frameNo t
  have still : discoveryFrame lines s.hlc.frameNo (commandFrame lines s.hlc.frameNo t) =
      commandFrame lines s.hlc.frameNo t := by
    have : (commandFrame lines s.hlc.frameNo t).hlc.discovery = .idle := by
      rw [ended]
      show t.hlc.discovery = _
      rw [heard.hlc]
      exact idle
    unfold discoveryFrame
    rw [this]
  have turn : (settle (commandFrame lines s.hlc.frameNo t)).hlc.outTurn = s.hlc.outTurn := by
    rw [(settle_moves .refl).hlc_eq, ended]
    show t.hlc.outTurn = _
    rw [heard.hlc]
    rfl
  dsimp only
  rw [still, turn]

/-- A point's record and notices after a frame, as its line and its record before tell (R26 to R31). -/
theorem PointRec.afterFrame_holds {r : PointRec} {h : HeadPlace} (bound : r.bound = some h) (lines : BySix InLine) (n : Word)
    (told : ∀ m, PointPosts lines n p r m → t.Noted m) :
    let l := lines.get h.line
    let u := r.afterFrame lines n
    u.bound = some h ∧
    (u.input = if l.good h.addr = true ∧ l.slotValid 8 = true then l.s8.extractLsb' 0 16 else r.input) ∧
    (match if l.good h.addr then l.summary n else none with
      | some m => u.last = some m ∧ u.fresh = true
      | none => u.last = r.last ∧ (r.fresh = false → u.fresh = false) ∧
        ∀ m, r.fresh = true → r.last = some m → u.fresh = decide (frameAge n m.arrival < 240)) ∧
    if l.good h.addr then u.status = .present ∧ u.loss = 0 ∧ (r.status = .lost → t.Noted (.headBack p h))
    else
      (r.status = .present → 31 ≤ r.loss → u.status = .lost ∧ u.loss = 32 ∧ t.Noted (.headLost p h)) ∧
      (r.status = .lost → r.loss = 32 → u.status = .lost ∧ u.loss = 32) ∧
      (r.loss < 31 → u.status = r.status ∧ u.loss = r.loss + 1) := by
  have posts := headBack_posts (p := p) (n := n) (lines := lines) bound
  have lostPosts := headLost_posts (p := p) (n := n) (lines := lines) bound
  have kept (r' : PointRec) (last : r'.last = r.last) (fresh : r'.fresh = r.fresh) :
      (r'.staled n).last = r.last ∧ (r.fresh = false → (r'.staled n).fresh = false) ∧
      ∀ m, r.fresh = true → r.last = some m → (r'.staled n).fresh = decide (frameAge n m.arrival < 240) := by
    rw [PointRec.staled_eq]
    refine ⟨last, fun stale => by simp [fresh, stale], fun m f e => ?_⟩
    simp [PointRec.aged, last, fresh, f, e, ← decide_not]
  intro l u
  have after : u = (r.heard l (l.good h.addr) n).staled n := PointRec.afterFrame_bound bound lines n
  clear_value u
  subst after
  cases good : l.good h.addr with
  | true =>
    rw [PointRec.heard_good]
    refine ⟨by rw [PointRec.staled_eq]; exact bound, by rw [PointRec.staled_eq]; simp, ?_, ?_⟩
    · rw [if_pos rfl]
      cases summary : l.summary n with
      | none => exact kept _ rfl rfl
      | some m =>
        rw [PointRec.staled_eq]
        simp [PointRec.aged, frameAge, summary_arrival summary]
    · rw [if_pos rfl, PointRec.staled_eq]
      exact ⟨rfl, rfl, fun lost => told _ (posts good lost)⟩
  | false =>
    obtain ⟨st, k, bad⟩ := PointRec.heard_bad r l n
    refine ⟨by rw [PointRec.staled_eq, bad]; exact bound, by rw [PointRec.staled_eq, bad]; simp, ?_, ?_⟩
    · rw [if_neg Bool.false_ne_true]
      exact kept _ (by rw [bad]) (by rw [bad])
    · rw [if_neg Bool.false_ne_true, PointRec.staled_eq]
      refine ⟨fun present late => ?_, fun lost full => ?_, fun early => ?_⟩
      · rw [PointRec.heard_lost present late]
        exact ⟨rfl, rfl, told _ (lostPosts good present late)⟩
      · rw [PointRec.heard_missed (.inl lost)]
        exact ⟨lost, by simp [full]⟩
      · rw [PointRec.heard_missed (.inr early)]
        exact ⟨rfl, by simp; omega⟩

/-- Settles O27. -/
theorem frameEnds : Obligations.FrameEnds := by
  intro s lines out running idle
  obtain ⟨t, heard, frame⟩ := frameEnd_idle running idle lines
  obtain ⟨c, v, ended, slot⟩ := commandFrame_ends lines s.hlc.frameNo t
  obtain ⟨u, settled⟩ : ∃ u, u = settle (commandFrame lines s.hlc.frameNo t) := ⟨_, rfl⟩
  have hlc : u.hlc = { s.hlc with lastEnded := some s.hlc.frameNo, points := t.hlc.points, slot := c } := by
    rw [settled, (settle_moves .refl).hlc_eq, ended]
    show { t.hlc with slot := c } = _
    rw [heard.hlc]
    rfl
  have begun := beginFrame_hlc (s.hlc.frameNo + 1) (sixNext s.hlc.outTurn) u
  rw [hlc] at begun
  rw [← settled] at frame
  have grow : NotesGrow t (beginFrame (s.hlc.frameNo + 1) (sixNext s.hlc.outTurn) u) :=
    (NotesGrow.of_spt (by rw [ended]) (by rw [ended])).trans
      ((settled ▸ settle_moves .refl : Moves (commandFrame lines s.hlc.frameNo t) u).notesGrow.trans (.of_spt rfl rfl))
  refine ⟨_, exec_act rfl out, ?_⟩
  rw [frame, begun]
  refine ⟨rfl, rfl, rfl, running, rfl, idle, ⟨slots_word _, fun gone => ?_, fun d front waits => ?_⟩, fun p => ?_⟩
  · refine slots_free (carried_none rfl fun d (e : c = some d) => ?_)
    rcases slot with same | free
    · rw [same, heard.hlc] at e
      obtain ⟨k, sent, ne⟩ := gone d e
      exact ⟨k, sent, ne⟩
    · cases free.symm.trans e
  · have slotWaits : c = some d := by
      have front' : t.hlc.slot = some d := by
        rw [heard.hlc]
        exact front
      have still := commandFrame_waiting (s := t) (by rintro c e; cases front'.symm.trans e; exact waits) lines s.hlc.frameNo
      exact ((congrArg (·.hlc.slot) (still.symm.trans ended) :).symm.trans front' :)
    subst slotWaits
    exact slots_command (c := { d with sentIn := some (s.hlc.frameNo + 1) }) (carried_waited rfl waits)
  · dsimp only
    rw [heard.points p]
    cases bound : (s.hlc.points.get p).bound with
    | none => exact PointRec.afterFrame_unbound bound _ _
    | some h => exact PointRec.afterFrame_holds bound lines _ fun m posts => grow.noted (heard.told p m posts)


end Sys2Proof.Machine
end

section
/-! What a frame's end brings to the head command in the slot and to discovery (R32 to R34, R38, R39). -/

namespace Sys2Proof.Machine

variable {s t u : State} {lines : BySix InLine} {n : Word} {c : HeadCmd} {sent : Word}

/-! ### The command in the slot (R33, R34) -/

/-- A write's frame ends (R34). -/
theorem commandFrame_write (slot : s.hlc.slot = some c) (out : c.sentIn.isSome = true) (write : c.write = true) :
    commandFrame lines n s = writePosted s := by
  obtain ⟨k, e⟩ := Option.isSome_iff_exists.mp out
  unfold commandFrame
  rw [slot]
  dsimp only
  rw [e]
  exact if_pos write

section Read

variable (slot : s.hlc.slot = some c) (out : c.sentIn = some sent) (read : c.write = false) (asked : c.point.isSome = true)
  (age : 0 < frameAge n sent)

include slot out read asked age

/-- An outstanding read is judged by its head's line (R33). -/
theorem commandFrame_read : commandFrame lines n s =
    let l := lines.get c.place.line
    match if l.good c.place.addr then l.echo else none with
    | some (i, d) => if i = c.index.toNat then readComplete d s else if 64 ≤ frameAge n sent then readTimeout s else s
    | none => if 64 ≤ frameAge n sent then readTimeout s else s := by
  have mine : ¬(c.point.isNone = true ∨ frameAge n sent = 0) := by
    rintro (none | zero)
    · cases e : c.point <;> simp_all
    · omega
  unfold commandFrame
  rw [slot]
  dsimp only
  rw [out]
  dsimp only
  rw [if_neg (by simp [read]), if_neg mine] <;> rfl

theorem commandFrame_answered {d : Half} (good : (lines.get c.place.line).good c.place.addr = true)
    (echo : (lines.get c.place.line).echo = some (c.index.toNat, d)) : commandFrame lines n s = readComplete d s := by
  rw [commandFrame_read slot out read asked age]
  simp [good, echo]

theorem commandFrame_unanswered
    (silent : ∀ d, ¬((lines.get c.place.line).good c.place.addr = true ∧
      (lines.get c.place.line).echo = some (c.index.toNat, d))) :
    commandFrame lines n s = if 64 ≤ frameAge n sent then readTimeout s else s := by
  rw [commandFrame_read slot out read asked age]
  dsimp only
  split
  · rename_i i d heard
    split at heard
    · rename_i good
      rw [if_neg]
      rintro rfl
      exact silent d ⟨good, heard⟩
    · cases heard
  · rfl

end Read

/-! ### Discovery (R38) -/

theorem foldl_noteReady (lines : BySix InLine) (l : List Six) (seen : BySix Bool) (i : Six) :
    (l.foldl (fun t i => if (lines.get i).ready then t.set i true else t) seen).get i =
      (seen.get i || (decide (i ∈ l) && (lines.get i).ready)) := by
  induction l generalizing seen with
  | nil => simp
  | cons j l ih =>
    rw [List.foldl_cons, ih]
    by_cases same : j = i
    · subst same
      cases (lines.get j).ready <;> simp
    · have : (if (lines.get j).ready = true then seen.set j true else seen).get i = seen.get i := by
        split
        · rw [BySix.get_set, if_neg same]
        · rfl
      simp [this, Ne.symm same]

/-- A line is noted once it shows READY. -/
theorem noteReady_get (lines : BySix InLine) (seen : BySix Bool) (i : Six) :
    (noteReady lines seen).get i = (seen.get i || (lines.get i).ready) := by
  unfold noteReady
  rw [foldl_noteReady]
  cases i <;> simp [allSix]

theorem allSix_all (f : Six → Bool) : allSix.all f = true ↔ ∀ i, f i = true := by
  rw [List.all_eq_true]
  exact ⟨fun h i => h i (by cases i <;> decide), fun h i _ => h i⟩

section Ready

variable {seen : BySix Bool} (ready : s.hlc.discovery = .ready seen)

include ready

/-- The first phase of discovery ends with every line noted or with frame 799 (R38). -/
theorem discoveryFrame_allReady (ends : (∀ i, (seen.get i || (lines.get i).ready) = true) ∨ 799 ≤ n.toNat) :
    discoveryFrame lines n s =
      discoverRead .n0 (modHlc (fun h => { h with discovery := .ready (noteReady lines seen) }) s) := by
  unfold discoveryFrame
  rw [ready]
  dsimp only
  rw [readyEnd_of (seen := noteReady lines seen) rfl, if_pos]
  rcases ends with all | late
  · simp [noteReady_get, all]
  · simp [late]

theorem discoveryFrame_notReady (open' : ∃ i, (seen.get i || (lines.get i).ready) = false) (early : n.toNat < 799) :
    discoveryFrame lines n s = modHlc (fun h => { h with discovery := .ready (noteReady lines seen) }) s := by
  obtain ⟨i, dark⟩ := open'
  have not : allSix.all (fun i => (noteReady lines seen).get i) = false := by
    rw [Bool.eq_false_iff, ne_eq, allSix_all]
    intro all
    have := all i
    rw [noteReady_get, dark] at this
    cases this
  unfold discoveryFrame
  rw [ready]
  dsimp only
  rw [if_neg]
  simp [not, early]

end Ready

/-- An address's read that no line answers (R38). -/
theorem discoveryFrame_silent {a : Six} (reading : s.hlc.discovery = .reading a)
    (out : s.hlc.slot.bind (·.sentIn) = some sent) (age : 0 < frameAge n sent) (silent : ∀ i d, ¬Heard lines a i d) :
    discoveryFrame lines n s = if 64 ≤ frameAge n sent then readEnded a .silent s else s := by
  have none : answersOf lines a = [] := List.eq_nil_iff_forall_not_mem.mpr fun x m => silent x.line x.identity (mem_answersOf.mp m)
  unfold discoveryFrame
  rw [reading]
  dsimp only
  rw [out]
  dsimp only
  rw [if_neg (by omega), none, ← readSilent_of reading]

/-- An address's read that a line answers (R38). -/
theorem discoveryFrame_answered {a i : Six} {d : Half} (reading : s.hlc.discovery = .reading a)
    (out : s.hlc.slot.bind (·.sentIn) = some sent) (age : 0 < frameAge n sent) (heard : Heard lines a i d) :
    discoveryFrame lines n s = readEnded a (.answered (answersOf lines a)) s := by
  obtain ⟨x, l, e⟩ := List.exists_cons_of_ne_nil (List.ne_nil_of_mem (mem_answersOf.mpr heard))
  unfold discoveryFrame
  rw [reading]
  dsimp only
  rw [out]
  dsimp only
  rw [if_neg (by omega), e]

/-! ### The frame's end -/

/-- A frame's end outside idle discovery, with no request's command in the slot. -/
theorem frameEnd_discovery (running : s.hlc.running = true)
    (own : ∀ c, s.hlc.slot = some c → c.write = false ∧ c.point = none) (lines : BySix InLine) :
    ∃ t, PointsHeard s.ending lines s.hlc.frameNo t ∧
      frameEnd lines s = beginFrame (s.hlc.frameNo + 1)
        (sixNext (settle (discoveryFrame lines s.hlc.frameNo t)).hlc.outTurn) (settle (discoveryFrame lines s.hlc.frameNo t)) := by
  have heard := allPointFrames_heard lines s.hlc.frameNo s.ending
  refine ⟨_, heard, ?_⟩
  have slot : (allPointFrames lines s.hlc.frameNo s.ending).hlc.slot = s.hlc.slot := by
    rw [heard.hlc]
    rfl
  have none : commandFrame lines s.hlc.frameNo (allPointFrames lines s.hlc.frameNo s.ending) =
      allPointFrames lines s.hlc.frameNo s.ending := by
    cases e : s.hlc.slot with
    | none => exact commandFrame_waiting (by rw [slot, e]; rintro _ ⟨⟩) _ _
    | some c => exact commandFrame_discovery (slot.trans e) (own c e).1 (own c e).2 _ _
  rw [frameEnd_of running, ← none]
  rfl

section Begun

variable (m : Word) (a : Six) (s : State)

/-- The reports of a frame leave the head link and the request in service as the frame left them. -/
theorem begun_hlc : (beginFrame m a (settle s)).hlc =
    let h := { s.hlc with frameNo := m, outTurn := a, slot := s.hlc.slot.map (HeadCmd.sentBy m) }
    { h with outFrame := h.slots } := by
  rw [beginFrame_hlc, (settle_moves .refl).hlc_eq]

theorem begun_service : (beginFrame m a (settle s)).spt.service = s.spt.service := (settle_moves (.refl (s := s))).service_eq

end Begun

/-- Settles O28. -/
theorem framesAreHeard : Obligations.FramesAreHeard := by
  intro s lines inUse running n
  refine ⟨_, exec_act rfl inUse, fun c idle slot waits => ?waiting, fun c sent tag idle slot out read asked waits age => ?read,
    fun c tag idle slot out write waits => ?write, fun seen ready slot => ?ready,
    fun a b sent reading next slot age => ?reading⟩
  case waiting =>
    obtain ⟨t, heard, frame⟩ := frameEnd_idle running idle lines
    have slot' : t.hlc.slot = some c := by
      rw [heard.hlc]
      exact slot
    rw [commandFrame_waiting (by rintro d e; cases slot'.symm.trans e; exact waits)] at frame
    rw [frame, begun_hlc]
    have sentNow : t.hlc.slot.map (HeadCmd.sentBy (n + 1)) = some { c with sentIn := some (n + 1) } := by
      simp [slot', HeadCmd.sentBy, waits]
    exact ⟨sentNow, (carried_waited (d := c) (congrArg (Option.map (HeadCmd.sentBy (n + 1))) slot') waits).trans sentNow.symm⟩
  case read =>
    obtain ⟨t, heard, frame⟩ := frameEnd_idle running idle lines
    have slot' : t.hlc.slot = some c := by
      rw [heard.hlc]
      exact slot
    have waits' : t.spt.service = some ⟨0x60, tag, .deferred⟩ := heard.service.trans waits
    have isSent : c.sentIn.isSome = true := by simp [out]
    rw [frame, begun_hlc, begun_service]
    refine ⟨fun d ⟨good, echo⟩ => ?_, fun silent late => ?_, fun silent early => ?_⟩
    · rw [commandFrame_answered slot' out read asked age good echo, readComplete_of slot' isSent read asked,
        formReply_waited (s := freeSlot t) _ waits']
      exact ⟨rfl, rfl⟩
    · rw [commandFrame_unanswered slot' out read asked age silent, if_pos late, readTimeout_of slot' isSent read asked,
        formReply_waited (s := freeSlot t) _ waits']
      exact ⟨rfl, rfl⟩
    · rw [commandFrame_unanswered slot' out read asked age silent, if_neg (by omega)]
      exact ⟨by simp [slot', HeadCmd.sentBy, out], heard.service⟩
  case write =>
    obtain ⟨t, heard, frame⟩ := frameEnd_idle running idle lines
    have slot' : t.hlc.slot = some c := by
      rw [heard.hlc]
      exact slot
    have waits' : t.spt.service = some ⟨0x61, tag, .deferred⟩ := heard.service.trans waits
    rw [frame, begun_hlc, begun_service, commandFrame_write slot' out write, writePosted_of slot' out write,
      formReply_waited (s := freeSlot t) _ waits']
    exact ⟨rfl, rfl⟩
  case ready =>
    obtain ⟨t, heard, frame⟩ := frameEnd_discovery running (by rintro c e; cases slot.symm.trans e) lines
    have ready' : t.hlc.discovery = .ready seen := by
      rw [heard.hlc]
      exact ready
    have slot' : t.hlc.slot = none := by
      rw [heard.hlc]
      exact slot
    rw [frame, begun_hlc]
    refine ⟨fun ends => ?_, fun dark early => ?_⟩
    · rw [discoveryFrame_allReady ready' ends]
      exact ⟨rfl, rfl⟩
    · rw [discoveryFrame_notReady ready' dark early]
      exact ⟨_, rfl, noteReady_get lines seen, by simp [modHlc, slot']⟩
  case reading =>
    obtain ⟨t, heard, frame⟩ := frameEnd_discovery running (by rintro c e; cases slot.symm.trans e; exact ⟨rfl, rfl⟩) lines
    have reading' : t.hlc.discovery = .reading a := by
      rw [heard.hlc]
      exact reading
    have slot' : t.hlc.slot = s.hlc.slot := by
      rw [heard.hlc]
      rfl
    have heads' : t.hlc.heads = s.hlc.heads := by
      rw [heard.hlc]
      rfl
    have out : t.hlc.slot.bind (·.sentIn) = some sent := by
      rw [slot', slot]
      rfl
    rw [frame, begun_hlc]
    refine ⟨fun ⟨i, d, answers⟩ => ?_, fun silent late => ?_, fun silent early => ?_⟩
    · rw [discoveryFrame_answered reading' out age answers, readEnded_next next]
      exact ⟨⟨rfl, rfl⟩, _, by rw [← heads'], fun i d => mem_answersOf⟩
    · rw [discoveryFrame_silent reading' out age silent, if_pos late, readEnded_next next]
      exact ⟨⟨rfl, rfl⟩, by rw [← heads']⟩
    · rw [discoveryFrame_silent reading' out age silent, if_neg (by omega)]
      exact ⟨reading', by rw [slot', slot]; rfl, heads'⟩

end Sys2Proof.Machine
end

section
/-! The breaker channels with both sections in MANUAL (chapter 5): manual operation, lockout and clearing, pulse ends and
confirm deadlines. -/

namespace Sys2Proof.Machine

variable {s t u : State} {tag : Byte} {c : Chan} {k : Nat}

/-! ### A state reached with inert reports made -/

/-- t is u with at most k more reports made, on none of which a sequencer acts in MANUAL. -/
def InertlyMade (k : Nat) (t u : State) : Prop :=
  ∃ l : List Report, t = { u with agenda := u.agenda ++ l } ∧ (∀ r ∈ l, r.inert = true) ∧ l.length ≤ k

namespace InertlyMade

theorem refl (s : State) : InertlyMade 0 s s := ⟨[], by simp, by simp, by simp⟩

theorem mono {m : Nat} (h : InertlyMade k t u) (le : k ≤ m) : InertlyMade m t u := by
  obtain ⟨l, e, inert, len⟩ := h
  exact ⟨l, e, inert, len.trans le⟩

/-- One more change of state that makes at most one report, whatever the agenda. -/
theorem step (h : InertlyMade k t u) {f : State → State} {v : State}
    (one : ∀ a, InertlyMade 1 (f { u with agenda := a }) { v with agenda := a }) (same : v.agenda = u.agenda) :
    InertlyMade (k + 1) (f t) v := by
  obtain ⟨l, rfl, inert, len⟩ := h
  obtain ⟨m, e, inert', len'⟩ := one (u.agenda ++ l)
  refine ⟨l ++ m, by rw [e, same, List.append_assoc], fun r mem => ?_, by rw [List.length_append]; omega⟩
  exact (List.mem_append.mp mem).elim (inert r) (inert' r)

/-- A change of state that makes no report and does not read the agenda. -/
theorem map (h : InertlyMade k t u) {f : State → State} (free : ∀ a, f { u with agenda := a } = { f u with agenda := a })
    (same : (f u).agenda = u.agenda) : InertlyMade k (f t) (f u) := by
  obtain ⟨l, rfl, inert, len⟩ := h
  exact ⟨l, by rw [free, same], inert, len⟩

theorem modChan (h : InertlyMade k t u) (c : Chan) (f : ChanRec → ChanRec) :
    InertlyMade (k + 1) (modChan c f t) { u with bcu := u.bcu.set c (f (u.bcu.get c)) } :=
  h.step (fun a => modChan_cases c f { u with agenda := a }) rfl

theorem releaseTieFor (h : InertlyMade k t u) (c : Chan) :
    InertlyMade (k + 1) (releaseTieFor c t) { u with owner := if c = .bkt then none else u.owner } :=
  h.step (fun a => releaseTieFor_cases c { u with agenda := a }) rfl

theorem report (h : InertlyMade k t u) {r : Report} (inert : r.inert = true) : InertlyMade (k + 1) (report r t) u :=
  h.step (fun a => ⟨[r], rfl, by simpa using inert, le_rfl⟩) rfl

theorem post (h : InertlyMade k t u) (n : Note) : InertlyMade k (post n t) (post n u) :=
  h.map (fun a => by unfold Machine.post; dsimp only; split <;> rfl) (by unfold Machine.post; split <;> rfl)

theorem triggerAlarm (h : InertlyMade k t u) : InertlyMade k (triggerAlarm t) (triggerAlarm u) := h.map (fun _ => rfl) rfl

/-- The reports are taken, and nothing acts on them. -/
theorem settle (h : InertlyMade k t u) (still : u.Still) (few : k ≤ 4096) : settle t = u := by
  obtain ⟨l, e, inert, len⟩ := h
  have calm : u.agenda = [] := still.1.2
  exact settle_still (l := l) still (by rw [e, calm]; rfl) rfl rfl calm inert (len.trans few)

end InertlyMade

/-- A notice posted leaves a still state still. -/
theorem State.Still.posted (n : Note) (h : s.Still) : (post n s).Still := by
  rw [post_eq]
  exact h

theorem triggerAlarm_post (n : Note) (s : State) : triggerAlarm (post n s) = post n (triggerAlarm s) := by
  unfold triggerAlarm post
  dsimp only
  split <;> rfl

theorem post_withOwner (n : Note) (o : Option Sec) (s : State) : post n { s with owner := o } = { post n s with owner := o } := by
  unfold post
  dsimp only
  split <;> rfl

/-- An event command whose state is reached with inert reports made. -/
theorem exec_inertly {i : Instr} {f : State → State} (e : exec i s = event f s) (out : s.inReset = false)
    (h : InertlyMade k (f s) u) (still : u.Still) (few : k ≤ 4096) : exec i s = .next u := by
  rw [exec_event e out, h.settle still few]

/-- A request answered after an event whose state is reached with inert reports made. -/
theorem exec_replied {i : Instr} {r : Request} (req : i.request = some (tag, r)) (ready : s.Ready) {f : State → Reply}
    (served : serve r (s.awaiting r.kind tag) = .after t f) (h : InertlyMade k t u) (still : u.Still) (few : k ≤ 4096) :
    exec i s = .next (setService r.kind tag (.formed (f u)) u) := by
  rw [exec_after req ready served, h.settle still few]

/-! ### Manual operation (R166, R167) -/

/-- A channel of a section in AUTO takes no manual operation (R166). -/
theorem manualChan_of_auto {n : Sec} (mine : chanOf c n = true) (auto : s.mode n = .auto) : s.manualChan c = false := by
  rw [Bool.eq_false_iff]
  intro manual
  have all := List.all_eq_true.mp manual n (by cases n <;> decide)
  simp [mine, auto] at all

theorem serveOperate_auto (adopted : t.adopted = true) (not : t.manualChan c = false) {b : Byte} {a : Action}
    (action : actionOf b = some a) : serveOperate (chanCode c) b t = refuse .wrongMode t := by
  unfold serveOperate
  rw [chanOfCode_chanCode, withArg_some, action, withArg_some, afterStart_on adopted, if_pos (by simp [not])]

section Operate

variable (adopted : t.adopted = true) (manual : t.manualChan c = true)

include adopted manual

theorem serveOperate_close : serveOperate (chanCode c) 1 t = manualClose c t := by
  unfold serveOperate
  rw [chanOfCode_chanCode, withArg_some, actionOf_close, withArg_some, afterStart_on adopted, if_neg (by simp [manual])]

theorem serveOperate_trip : serveOperate (chanCode c) 2 t = operated c (tripTrigger c .mdc t) := by
  unfold serveOperate
  rw [chanOfCode_chanCode, withArg_some, actionOf_trip, withArg_some, afterStart_on adopted, if_neg (by simp [manual])]

theorem serveOperate_stop : serveOperate (chanCode c) 3 t = operated c (stopPulse c t, none) := by
  unfold serveOperate
  rw [chanOfCode_chanCode, withArg_some, actionOf_stop, withArg_some, afterStart_on adopted, if_neg (by simp [manual])]

end Operate

/-- The state on which a manual close's trigger is tested: a computation for a second path is kept (R73, R167). -/
def State.judged (s : State) (c : Chan) : State :=
  if s.secondPath c then
    keep (manualPair c) (s.coincidence (manualPair c) .closedItems (manualPair c).busSec s.lastFrame) s
  else s

theorem manualClose_permitted (h : s.secondPath c = true →
      (s.coincidence (manualPair c) .closedItems (manualPair c).busSec s.lastFrame).permit = true) :
    manualClose c s = operated c (closeTrigger c .mdc (s.judged c)) := by
  unfold manualClose State.judged
  split
  · rename_i second
    dsimp only
    rw [if_pos (h second)]
  · rfl

theorem manualClose_refused (second : s.secondPath c = true)
    (not : (s.coincidence (manualPair c) .closedItems (manualPair c).busSec s.lastFrame).permit = false) :
    let q := s.coincidence (manualPair c) .closedItems (manualPair c).busSec s.lastFrame
    manualClose c s = .done (keep (manualPair c) q s) ⟨.interlock, .coincidence q⟩ := by
  unfold manualClose
  rw [if_pos second]
  exact if_neg (by simp [not])

/-- Nothing but the kept results moves with the computation. -/
theorem judged_eq (s : State) (c : Chan) : ∃ r, s.judged c = { s with ccu := r } := by
  unfold State.judged
  split
  · cases manualPair c <;> exact ⟨_, rfl⟩
  · exact ⟨s.ccu, rfl⟩

section Refusal

variable (free : s.blocked = false)

theorem closeRefusal_blocked (blocked : s.blocked = true) : s.closeRefusal c = some .blocked := if_pos blocked

include free

theorem closeRefusal_interlock (trip : (s.bcu.get c).tripEnd.isSome = true) : s.closeRefusal c = some .interlock := by
  unfold State.closeRefusal
  rw [if_neg (by simp [free]), if_pos trip]

variable (noTrip : (s.bcu.get c).tripEnd = none)

include noTrip

theorem closeRefusal_busy (close : (s.bcu.get c).closeEnd.isSome = true) : s.closeRefusal c = some .busy := by
  unfold State.closeRefusal
  rw [if_neg (by simp [free]), if_neg (by simp [noTrip]), if_pos close]

theorem closeRefusal_notAvailable (noClose : (s.bcu.get c).closeEnd = none) (not : (s.bcu.get c).available = false) :
    s.closeRefusal c = some .notAvailable := by
  unfold State.closeRefusal State.avail
  rw [if_neg (by simp [free]), if_neg (by simp [noTrip]), if_neg (by simp [noClose]), if_pos (by simp [not])]

theorem closeRefusal_passed (noClose : (s.bcu.get c).closeEnd = none) (available : (s.bcu.get c).available = true) :
    s.closeRefusal c = none := by
  unfold State.closeRefusal State.avail
  rw [if_neg (by simp [free]), if_neg (by simp [noTrip]), if_neg (by simp [noClose]), if_neg (by simp [available])]

end Refusal

theorem closeTrigger_refused {q : Requester} {e : Status} (h : s.closeRefusal c = some e) :
    closeTrigger c q s = (s, some e) := by
  unfold closeTrigger
  rw [h]

theorem closeTrigger_accepted {q : Requester} (h : s.closeRefusal c = none) :
    closeTrigger c q s = (startClose c q s, none) := by
  unfold closeTrigger
  rw [h]

/-- Settles O34. -/
theorem manualCloses : Obligations.ManualCloses := by
  intro s tag c ready adopted cmd
  refine ⟨fun n mine auto => ?wrong, fun manual second => ?second, fun still => ?operated⟩
  case wrong =>
    have not := manualChan_of_auto (s := s.awaiting 0x21 tag) mine auto
    have refused {b : Byte} {a : Action} (action : actionOf b = some a) :=
      serveOperate_auto (t := s.awaiting 0x21 tag) adopted not action
    exact ⟨exec_done (r := .breakerOperate (chanCode c) 1) rfl ready (refused actionOf_close) rfl,
      exec_done (r := .breakerOperate (chanCode c) 2) rfl ready (refused actionOf_trip) rfl,
      exec_done (r := .breakerOperate (chanCode c) 3) rfl ready (refused actionOf_stop) rfl⟩
  case second =>
    intro p q not
    refine exec_done (r := .breakerOperate (chanCode c) 1) rfl ready
      (t := keep p q (s.awaiting 0x21 tag)) ?_ (keep_replied _ _ _ _ _ _ _ _ _)
    refine (serveOperate_close (t := s.awaiting 0x21 tag) adopted manual).trans ?_
    exact manualClose_refused (s := s.awaiting 0x21 tag) second not
  case operated =>
    intro p q u r permitted
    have closes : serve (.breakerOperate (chanCode c) 1) (s.awaiting 0x21 tag) =
        operated c (closeTrigger c .mdc ((s.awaiting 0x21 tag).judged c)) :=
      (serveOperate_close (t := s.awaiting 0x21 tag) adopted (manualChan_of_manual (s := s) still.2.1 c)).trans
        (manualClose_permitted permitted)
    have sameU (st : Status) (b : Body) : ((s.awaiting 0x21 tag).judged c).replied 0x21 tag st b = u.replied 0x21 tag st b := by
      show _ = (s.judged c).replied 0x21 tag st b
      unfold State.judged
      show (if s.secondPath c then _ else _ : State).replied _ _ _ _ = _
      split
      · exact keep_replied _ _ _ _ _ _ _ _ _
      · rfl
    obtain ⟨results, e⟩ := judged_eq (s.awaiting 0x21 tag) c
    have refused (st : Status) (h : ((s.awaiting 0x21 tag).judged c).closeRefusal c = some st) :
        exec cmd s = .next (u.replied 0x21 tag st .empty) := by
      refine exec_done (r := .breakerOperate (chanCode c) 1) rfl ready (closes.trans ?_) (sameU st .empty)
      rw [closeTrigger_refused h]
      rfl
    refine ⟨fun blocked => refused _ (closeRefusal_blocked ?_), fun free trip => refused _ (closeRefusal_interlock ?_ ?_),
      fun free noTrip close => refused _ (closeRefusal_busy ?_ ?_ ?_),
      fun free noTrip noClose not => refused _ (closeRefusal_notAvailable ?_ ?_ ?_ ?_),
      fun free noTrip noClose available => ?accepted⟩
    case accepted =>
      have passed : ((s.awaiting 0x21 tag).judged c).closeRefusal c = none := by
        refine closeRefusal_passed ?_ ?_ ?_ ?_ <;> rw [e] <;> assumption
      have begun : InertlyMade 1 (startClose c .mdc ((s.awaiting 0x21 tag).judged c))
          { (s.awaiting 0x21 tag).judged c with bcu := s.bcu.set c (s.closeBegun c .mdc s.now) } := by
        rw [e]
        exact (InertlyMade.refl _).modChan c _
      have after : serve (.breakerOperate (chanCode c) 1) (s.awaiting 0x21 tag) =
          .after (startClose c .mdc ((s.awaiting 0x21 tag).judged c))
            fun u => ⟨.ok, .position (u.bcu.get c).position⟩ := by
        rw [closes, closeTrigger_accepted passed]
        rfl
      refine (exec_replied (r := .breakerOperate (chanCode c) 1) rfl ready after begun ?_ (by omega)).trans ?_
      · rw [e]
        exact still
      · have position : ((s.bcu.set c (s.closeBegun c .mdc s.now)).get c).position = .closing := by
          rw [ByChan.get_set_self]
          rfl
        have final := congrArg (fun v : State => ({ v with bcu := s.bcu.set c (s.closeBegun c .mdc s.now) } : State))
          (sameU .ok (.position .closing))
        dsimp only
        rw [position]
        exact congrArg Host.Outcome.next final
    all_goals
      rw [e]
      assumption

/-- A trip begun (R80, R82, R132): the record's part, and the owner where a close of BKT is withdrawn. -/
theorem startTrip_inertly (c : Chan) (q : Requester) (s : State) :
    InertlyMade 3 (startTrip c q s) { s with
      bcu := s.bcu.set c ((s.bcu.get c).trip q s.now (s.tripWidth c) (s.plan.chan c .tripConfirm))
      owner := if c = .bkt ∧ (s.bcu.get c).position = .closing ∧ (s.bcu.get c).op.isSome then none else s.owner } := by
  have made := (InertlyMade.refl s).modChan c fun r => r.trip q s.now (s.tripWidth c) (s.plan.chan c .tripConfirm)
  have kept (h : ¬((s.bcu.get c).position = .closing ∧ (s.bcu.get c).op.isSome = true)) :
      (if c = .bkt ∧ (s.bcu.get c).position = .closing ∧ (s.bcu.get c).op.isSome then none else s.owner) = s.owner :=
    if_neg fun k => h k.2
  unfold startTrip
  dsimp only
  split
  · rename_i o closing operation
    have withdrawn := (made.report (r := .closeWithdrawn c o.requester) rfl).releaseTieFor c
    simpa [closing, operation] using withdrawn
  · rename_i other
    rw [kept fun ⟨closing, operation⟩ => ?_]
    · exact made.mono (by omega)
    · obtain ⟨o, e⟩ := Option.isSome_iff_exists.mp operation
      exact other o closing e

/-- A trip's record, in one form for every position (R82). -/
theorem trip_eq (r : ChanRec) (q : Requester) (now width confirm : Nat) :
    let go : Bool := r.position == .isOpen || r.position == .isClosed || r.position == .closing
    r.trip q now width confirm = { r with
      closeEnd := none, tripEnd := some (now + width), cmdClosed := false
      position := if go then .opening else r.position
      op := if go then some ⟨.trip, q, now, now + confirm, false⟩ else r.op } := by
  unfold ChanRec.trip
  cases h : r.position <;> rfl

/-- Settles O35. -/
theorem manualTripAndStop : Obligations.ManualTripAndStop := by
  intro s tag c ready still adopted r go r' r''
  have manual := manualChan_of_manual (s := s) still.2.1 c
  have trips := serveOperate_trip (t := s.awaiting 0x21 tag) adopted manual
  have stops := serveOperate_stop (t := s.awaiting 0x21 tag) adopted manual
  refine ⟨fun blocked => ?refused, fun free => ?trip, ?stop⟩
  case refused =>
    refine exec_done (r := .breakerOperate (chanCode c) 2) (t := s.awaiting 0x21 tag) rfl ready (trips.trans ?_) rfl
    unfold tripTrigger
    rw [if_pos (show (s.awaiting 0x21 tag).blocked = true from blocked)]
    rfl
  case trip =>
    have after : serve (.breakerOperate (chanCode c) 2) (s.awaiting 0x21 tag) =
        .after (startTrip c .mdc (s.awaiting 0x21 tag)) fun u => ⟨.ok, .position (u.bcu.get c).position⟩ := by
      refine trips.trans ?_
      unfold tripTrigger
      rw [if_neg (show ¬(s.awaiting 0x21 tag).blocked = true by rw [show (s.awaiting 0x21 tag).blocked = false from free]; simp)]
      rfl
    have tripped : (s.bcu.get c).trip .mdc s.now (s.tripWidth c) (s.plan.chan c .tripConfirm) = r' := trip_eq _ _ _ _ _
    refine (exec_replied (r := .breakerOperate (chanCode c) 2) rfl ready after (startTrip_inertly c .mdc _) still
      (by omega)).trans ?_
    show Host.Outcome.next (State.replied { s with
      bcu := s.bcu.set c ((s.bcu.get c).trip .mdc s.now (s.tripWidth c) (s.plan.chan c .tripConfirm)), owner := _ } _ _ _
      (.position ((s.bcu.set c ((s.bcu.get c).trip .mdc s.now (s.tripWidth c) (s.plan.chan c .tripConfirm))).get c).position))
      = _
    rw [tripped, ByChan.get_set_self]
    rfl
  case stop =>
    have after : serve (.breakerOperate (chanCode c) 3) (s.awaiting 0x21 tag) =
        .after (stopPulse c (s.awaiting 0x21 tag)) fun u => ⟨.ok, .position (u.bcu.get c).position⟩ := stops
    refine (exec_replied (r := .breakerOperate (chanCode c) 3) rfl ready after ((InertlyMade.refl _).modChan c _) still
      (by omega)).trans ?_
    show Host.Outcome.next (State.replied { s with bcu := s.bcu.set c r'' } _ _ _
      (.position ((s.bcu.set c r'').get c).position)) = _
    rw [ByChan.get_set_self]
    rfl

/-! ### Lockout and clearing (R90, R91) -/

theorem prtAccept_kept {level : Bool} (h : level = false ∨ (s.bcu.get c).position = .locked) :
    prtAccept c level s = modChan c (fun r => { r with prot := r.prot.accept level }) s := by
  unfold prtAccept
  dsimp only
  rw [if_pos]
  rcases h with released | locked
  · simp [released]
  · simp [locked]

/-- PRT asserted on a channel that was not LOCKED (R90, R97, R132). -/
theorem prtAccept_locks (adopted : s.adopted = true) (clear : (s.bcu.get c).prot.accepted = false)
    (free : (s.bcu.get c).position ≠ .locked) :
    InertlyMade 4 (prtAccept c true s) (triggerAlarm (post (.lockout c (s.bcu.get c).position (s.bcu.get c).aux.accepted) { s with
      bcu := s.bcu.set c (s.bcu.get c).lockedOut
      owner := if c = .bkt ∧ (s.bcu.get c).op.any (·.kind == .close) then none else s.owner })) := by
  have made := (InertlyMade.refl s).modChan c ChanRec.lockedOut
  unfold prtAccept
  dsimp only
  rw [if_neg (by simp [clear, free]), if_pos adopted]
  cases op : (s.bcu.get c).op with
  | none => simpa using (((made.report (r := .channelLocked c) rfl).post _).triggerAlarm).mono (m := 4) (by omega)
  | some o =>
    have ended : InertlyMade 3
        (report (.lockoutEnded c o)
          (if o.kind = .close then releaseTieFor c (modChan c ChanRec.lockedOut s) else modChan c ChanRec.lockedOut s))
        { s with
          bcu := s.bcu.set c (s.bcu.get c).lockedOut
          owner := if c = .bkt ∧ (some o).any (·.kind == .close) then none else s.owner } := by
      refine InertlyMade.report ?_ rfl
      by_cases close : o.kind = .close
      · simpa [close] using made.releaseTieFor c
      · simpa [close] using made.mono (m := 2) (by omega)
    exact ((ended.report (r := .channelLocked c) rfl).post _).triggerAlarm

theorem clearChan_inertly (c : Chan) (s : State) :
    InertlyMade 2 (clearChan c s) { s with bcu := s.bcu.set c (s.bcu.get c).cleared } :=
  ((InertlyMade.refl s).modChan c ChanRec.cleared).report rfl

section Clear

/-- A channel that a clear returns to service (R91). -/
theorem serveClear_cleared (h : (t.bcu.get c).position = .faulted ∨
      ((t.bcu.get c).position = .locked ∧ (t.bcu.get c).prot.accepted = false)) :
    serveClear (chanCode c) t = .after (clearChan c t) fun u => ⟨.ok, .position (u.bcu.get c).position⟩ := by
  unfold serveClear
  rw [chanOfCode_chanCode, withArg_some]
  dsimp only
  rcases h with faulted | ⟨locked, released⟩
  · rw [faulted]
  · rw [locked]
    exact if_neg (by simp [released])

theorem serveClear_held (locked : (t.bcu.get c).position = .locked) (held : (t.bcu.get c).prot.accepted = true) :
    serveClear (chanCode c) t = refuse .interlock t := by
  unfold serveClear
  rw [chanOfCode_chanCode, withArg_some]
  dsimp only
  rw [locked]
  exact if_pos held

theorem serveClear_still (faulted : (t.bcu.get c).position ≠ .faulted) (locked : (t.bcu.get c).position ≠ .locked) :
    serveClear (chanCode c) t = .done t ⟨.ok, .position (t.bcu.get c).position⟩ := by
  unfold serveClear
  rw [chanOfCode_chanCode, withArg_some]
  dsimp only
  cases h : (t.bcu.get c).position with
  | faulted => exact absurd h faulted
  | locked => exact absurd h locked
  | isOpen | isClosed | closing | opening => rfl

end Clear

/-- Settles O36. -/
theorem lockoutLocksAndClears : Obligations.LockoutLocksAndClears := by
  constructor
  · intro s c still adopted r
    refine ⟨fun clear free => ?asserted, fun locked => ?again, ?released⟩
    case asserted =>
      rw [exec_inertly (f := prtAccept c true) rfl still.1.1 (prtAccept_locks (c := c) adopted clear free)
        (State.Still.posted _ still) (by omega), triggerAlarm_post]
      rfl
    case again =>
      refine exec_inertly (f := prtAccept c true) rfl still.1.1 (k := 1) ?_ still (by omega)
      rw [prtAccept_kept (.inr locked)]
      exact (InertlyMade.refl s).modChan c _
    case released =>
      refine exec_inertly (f := prtAccept c false) rfl still.1.1 (k := 1) ?_ still (by omega)
      rw [prtAccept_kept (.inl rfl)]
      exact (InertlyMade.refl s).modChan c _
  · intro s tag c ready still r cmd st
    refine ⟨fun h => ?cleared, fun locked held => ?held, fun faulted locked => ?other⟩
    case cleared =>
      refine (exec_replied (r := .channelClear (chanCode c)) rfl ready
        (serveClear_cleared (t := s.awaiting 0x22 tag) h) (clearChan_inertly c _) still (by omega)).trans ?_
      show Host.Outcome.next (State.replied { s with bcu := s.bcu.set c r.cleared } _ _ _
        (.position ((s.bcu.set c r.cleared).get c).position)) = _
      rw [ByChan.get_set_self]
      rfl
    case held =>
      exact exec_done (r := .channelClear (chanCode c)) (t := s.awaiting 0x22 tag) rfl ready
        (serveClear_held (t := s.awaiting 0x22 tag) locked held) rfl
    case other =>
      exact exec_done (r := .channelClear (chanCode c)) (t := s.awaiting 0x22 tag) rfl ready
        (serveClear_still (t := s.awaiting 0x22 tag) faulted locked) rfl

/-! ### Pulse ends, levels and settle timers (R78, R83, R92, R177) -/

theorem closePulseOver_of {d : Nat} (running : (s.bcu.get c).closeEnd = some d) :
    closePulseOver c s = modChan c (fun r => { r with closeEnd := none }) (reach d s) := by
  unfold closePulseOver
  rw [running]

theorem tripPulseOver_of {d : Nat} (running : (s.bcu.get c).tripEnd = some d) :
    tripPulseOver c s = modChan c (fun r => { r with tripEnd := none }) (reach d s) := by
  unfold tripPulseOver
  rw [running]

theorem settleOver_inertly {d : Nat} {n : Sec} (running : s.mdc.settle.get n = some d) :
    InertlyMade 1 (settleOver n s) { reach d s with mdc := { s.mdc with settle := s.mdc.settle.set n none } } := by
  unfold settleOver
  rw [running]
  dsimp only
  split
  · exact (InertlyMade.refl _).mono (by omega)
  · exact (InertlyMade.refl _).report rfl

/-- Settles O37. -/
theorem pulsesAndLevels : Obligations.PulsesAndLevels := by
  intro s c d
  refine ⟨fun out running => ?close, fun out running => ?trip, fun still level => ⟨?rdy, ?rck⟩, fun still n running => ?settle⟩
  case close =>
    rw [exec_act (f := closePulseOver c) rfl out, closePulseOver_of running, modChan_silent _ _ _ rfl]
    rfl
  case trip =>
    rw [exec_act (f := tripPulseOver c) rfl out, tripPulseOver_of running, modChan_silent _ _ _ rfl]
    rfl
  case rdy => exact exec_inertly (f := readyAccept c .rdy level) rfl still.1.1 ((InertlyMade.refl s).modChan c _) still (by omega)
  case rck => exact exec_inertly (f := readyAccept c .rck level) rfl still.1.1 ((InertlyMade.refl s).modChan c _) still (by omega)
  case settle =>
    exact exec_inertly (f := settleOver n) rfl still.1.1 (settleOver_inertly running) still (by omega)

/-! ### Confirm deadlines (R84, R85) -/

section Deadlines

variable {o : Operation} (op : (s.bcu.get c).op = some o)

/-- A channel that has failed is FAULTED and announced (R84, R85, R97). -/
def State.faulted (s : State) (c : Chan) (f : ChanFault) (o : Operation) : State :=
  triggerAlarm (post (.breakerFault c f o.requester)
    { reach o.deadline s with bcu := s.bcu.set c ((s.bcu.get c).failed f) })

include op

theorem closeDeadline_inertly (close : o.kind = .close) : InertlyMade 3 (closeDeadline c s)
    { s.faulted c .failToClose o with owner := if c = .bkt then none else s.owner } := by
  have failed := (((((InertlyMade.refl (reach o.deadline s)).modChan c (·.failed .failToClose)).releaseTieFor c).post
    (.breakerFault c .failToClose o.requester)).triggerAlarm).report (r := .closeFailed c o.requester) rfl
  unfold closeDeadline
  rw [op]
  dsimp only
  rw [if_pos close]
  refine (congrArg (InertlyMade 3 _) ?_).mp failed
  unfold State.faulted
  rw [post_withOwner]
  rfl

theorem tripDeadline_failed (trip : o.kind = .trip) (closed : s.closed c = true) :
    InertlyMade 2 (tripDeadline c s) (s.faulted c .failToOpen o) := by
  unfold tripDeadline
  rw [op]
  dsimp only
  rw [if_pos trip, if_pos (show (reach o.deadline s).closed c = true from closed)]
  exact ((((InertlyMade.refl (reach o.deadline s)).modChan c (·.failed .failToOpen)).post
    (.breakerFault c .failToOpen o.requester)).triggerAlarm).report rfl

theorem tripDeadline_confirmed (trip : o.kind = .trip) (opened : s.closed c = false) :
    InertlyMade 2 (tripDeadline c s) { reach o.deadline s with bcu := s.bcu.set c (s.bcu.get c).opened } := by
  unfold tripDeadline
  rw [op]
  dsimp only
  rw [if_pos trip, if_neg (by rw [show (reach o.deadline s).closed c = false from opened]; simp)]
  exact ((InertlyMade.refl (reach o.deadline s)).modChan c ChanRec.opened).report rfl

end Deadlines

/-- Settles O38. -/
theorem confirmDeadlines : Obligations.ConfirmDeadlines := by
  intro s c o still op r now fault
  have still' (f : ChanFault) : (s.faulted c f o).Still :=
    State.Still.posted (s := { reach o.deadline s with bcu := s.bcu.set c ((s.bcu.get c).failed f) }) _ still
  have faulted (f : ChanFault) : s.faulted c f o = fault f := triggerAlarm_post _ _
  refine ⟨fun close => ?close, fun trip closed => ?failed, fun trip opened => ?confirmed⟩
  case close =>
    rw [exec_inertly (f := closeDeadline c) rfl still.1.1 (closeDeadline_inertly op close) (still' _) (by omega), faulted]
  case failed =>
    rw [exec_inertly (f := tripDeadline c) rfl still.1.1 (tripDeadline_failed op trip closed) (still' _) (by omega), faulted]
  case confirmed =>
    exact exec_inertly (f := tripDeadline c) rfl still.1.1 (tripDeadline_confirmed op trip opened) still (by omega)

end Sys2Proof.Machine
end

section
/-! The load manager (chapter 8): the law of a shed pass, the islands' timers, and the demand of a feeder. -/

namespace Sys2Proof.Machine

variable {s t u : State} {f g : Feeder} {i j : IslandId}

/-! ### What a change by the load manager leaves -/

namespace LoadOnly

theorem pst_eq (h : LoadOnly s t) : t.pst = s.pst := (congrArg State.pst h :)
theorem mdc_eq (h : LoadOnly s t) : t.mdc = s.mdc := (congrArg State.mdc h :)
theorem bcu_eq (h : LoadOnly s t) : t.bcu = s.bcu := (congrArg State.bcu h :)
theorem seqs_eq (h : LoadOnly s t) : t.seqs = s.seqs := (congrArg State.seqs h :)
theorem hlc_eq (h : LoadOnly s t) : t.hlc = s.hlc := (congrArg State.hlc h :)
theorem now_eq (h : LoadOnly s t) : t.now = s.now := (congrArg State.now h :)
theorem plan_eq (h : LoadOnly s t) : t.plan = s.plan := by
  unfold State.plan
  rw [h.pst_eq]
theorem blocked_eq (h : LoadOnly s t) : t.blocked = s.blocked := blocked_of_mdc h.mdc_eq
theorem cls_eq (h : LoadOnly s t) (f : Feeder) : t.cls f = s.cls f := by
  unfold State.cls
  rw [h.plan_eq]

end LoadOnly

/-! ### Island records -/

theorem island_modIsland (g : IslandRec → IslandRec) :
    (modIsland i g s).island j = if j = i then (s.island j).map g else s.island j := by
  unfold modIsland State.island
  dsimp only
  cases s.lmg.islands <;> cases i <;> cases j <;> rfl

@[simp] theorem islandIdOf_modIsland (g : IslandRec → IslandRec) (n : Sec) :
    (modIsland i g s).islandIdOf n = s.islandIdOf n := by
  unfold modIsland State.islandIdOf
  dsimp only
  cases s.lmg.islands <;> cases i <;> rfl

theorem island_of_islands (h : t.lmg.islands = s.lmg.islands) : t.island i = s.island i := by
  unfold State.island
  rw [h]

theorem islandIdOf_of_islands (h : t.lmg.islands = s.lmg.islands) (n : Sec) : t.islandIdOf n = s.islandIdOf n := by
  unfold State.islandIdOf
  rw [h]

/-! ### Sums (R149) -/

theorem plan_post (n : Note) (s : State) : (post n s).plan = s.plan := by
  unfold State.plan
  rw [post_pst]

/-- Two states with the same feeders and item set have the same sums. -/
theorem sumOf_congr (plan : t.plan = s.plan) (feeders : t.lmg.feeders = s.lmg.feeders) (secs : List Sec) :
    t.sumOf secs = s.sumOf secs := by
  unfold State.sumOf State.carried State.feeder
  rw [plan, feeders]

/-- Taking one element out of a filtered list takes its share out of the sum. -/
theorem sum_filter_drop {α : Type} [DecidableEq α] {l : List α} (once : l.Nodup) {p q : α → Bool} {d : α → Nat} {a : α}
    (mem : a ∈ l) (own : p a = true) (rest : ∀ b ∈ l, q b = (p b && decide (b ≠ a))) :
    ((l.filter p).map d).sum = ((l.filter q).map d).sum + d a := by
  have kept : l.filter q = (l.filter p).erase a := by
    rw [(once.filter p).erase_eq_filter, List.filter_filter]
    refine List.filter_congr fun b hb => ?_
    rw [rest b hb, Bool.and_comm]
    congr 1
    simp [bne, beq_eq_decide]
  have perm : (l.filter p).Perm (a :: (l.filter p).erase a) := List.perm_cons_erase (List.mem_filter.mpr ⟨mem, own⟩)
  rw [kept, (perm.map d).sum_eq, List.map_cons, List.sum_cons, Nat.add_comm]

/-- A feeder marked SHED leaves the sums of its section by its demand (R149). -/
theorem sumOf_shed (plan : t.plan = s.plan) (carried : s.carried f = true)
    (feeders : ∀ g, t.feeder g = if g = f then { s.feeder g with shed := true } else s.feeder g) {secs : List Sec}
    (mem : feederSec f ∈ secs) : s.sumOf secs = t.sumOf secs + (s.feeder f).demand := by
  have demand (g : Feeder) : (t.feeder g).demand = (s.feeder g).demand := by
    rw [feeders]
    split <;> rfl
  unfold State.sumOf
  simp only [demand]
  refine sum_filter_drop (by decide) (mem_allFeeders f) (by simp [mem, carried]) fun g _ => ?_
  unfold State.carried
  rw [plan, feeders]
  by_cases e : g = f
  · simp [e]
  · simp [e]

/-! ### One feeder shed (R151) -/

section ShedOne

variable (secs : List Sec) (budget : Nat) (x : Src) (occ : Occasion) (f : Feeder) (s : State)

theorem shedOne_feeder (g : Feeder) : (shedOne secs budget x occ f s).feeder g =
    if g = f then { s.feeder g with shed := true } else s.feeder g := by
  unfold shedOne State.feeder
  simp only [post_lmg, modIsland_lmg_feeders, driveLine_lmg_feeders]
  refine (feeders_get_set _ _ _ _).trans ?_
  split
  · rename_i e
    rw [e]
  · rfl

theorem shedOne_stack (n : Sec) : (shedOne secs budget x occ f s).lmg.shedStack.get n =
    s.lmg.shedStack.get n ++ if feederSec f = n then [f] else [] := by
  unfold shedOne
  simp only [post_lmg, modIsland_lmg_shedStack, driveLine_lmg_shedStack]
  refine (BySec.get_set _ _ _ _).trans ?_
  split
  · rename_i e
    rw [← e]
    rfl
  · simp

theorem shedOne_lines (g : Feeder) : (shedOne secs budget x occ f s).lmg.lines.get g =
    if g = f ∧ s.blocked = false then true else s.lmg.lines.get g := by
  unfold shedOne
  simp only [post_lmg, modIsland_lmg_lines]
  unfold driveLine
  have blocked : (setStack (feederSec f) ((modFeeder f (fun r => { r with shed := true }) s).lmg.shedStack.get (feederSec f) ++ [f])
    (modFeeder f (fun r => { r with shed := true }) s)).blocked = s.blocked := rfl
  rw [blocked]
  cases s.blocked with
  | true => simp
  | false =>
    simp only [Bool.false_eq_true, if_false, and_true]
    exact feeders_get_set _ _ _ _

/-- The state of a feeder shed, before its notice. -/
def shedMarked (f : Feeder) (s : State) : State :=
  let t := modFeeder f (fun r => { r with shed := true }) s
  let t := setStack (feederSec f) (t.lmg.shedStack.get (feederSec f) ++ [f]) t
  modIsland (t.islandIdOf (feederSec f)) (fun r => { r with stretch := none }) (driveLine f true t)

theorem shedOne_eq : shedOne secs budget x occ f s =
    post (.shed f occ (s.cls f) (s.feeder f).demand ((shedMarked f s).sumOf secs) budget x) (shedMarked f s) := rfl

theorem shedMarked_islands : ∃ g : IslandRec → IslandRec, (∀ r, g r = { r with stretch := none }) ∧
    (shedMarked f s).lmg.islands = (modIsland (s.islandIdOf (feederSec f)) g s).lmg.islands := by
  refine ⟨_, fun _ => rfl, ?_⟩
  unfold shedMarked modIsland
  dsimp only
  rw [driveLine_lmg_islands]
  rfl

theorem shedOne_island (i : IslandId) : (shedOne secs budget x occ f s).island i =
    if i = s.islandIdOf (feederSec f) then (s.island i).map (fun r => { r with stretch := none }) else s.island i := by
  obtain ⟨g, e, islands⟩ := shedMarked_islands f s
  rw [shedOne_eq, island_of_islands ((congrArg LmgState.islands (post_lmg _ _)).trans islands), island_modIsland, funext e]

theorem shedOne_islandIdOf (n : Sec) : (shedOne secs budget x occ f s).islandIdOf n = s.islandIdOf n := by
  obtain ⟨g, -, islands⟩ := shedMarked_islands f s
  rw [shedOne_eq, islandIdOf_of_islands ((congrArg LmgState.islands (post_lmg _ _)).trans islands), islandIdOf_modIsland]

theorem shedOne_noted : (shedOne secs budget x occ f s).Noted
    (.shed f occ (s.cls f) (s.feeder f).demand ((shedOne secs budget x occ f s).sumOf secs) budget x) := by
  have sum : (shedOne secs budget x occ f s).sumOf secs = (shedMarked f s).sumOf secs :=
    sumOf_congr (plan_post _ _) (congrArg LmgState.feeders (post_lmg _ _)) secs
  rw [sum]
  exact noted_post _ _

theorem shedOne_notes : NotesGrow s (shedOne secs budget x occ f s) := by
  have spt : (shedMarked f s).spt = s.spt := driveLine_spt _ _ _
  exact (NotesGrow.of_spt (t := shedMarked f s) (by rw [spt]) (by rw [spt])).trans (.post _ _)

end ShedOne

/-! ### A shed pass -/

/-- The feeders off have been shed, in this order, in a pass over secs against the budget (R151, R157, R159). -/
structure HasShed (secs : List Sec) (budget : Nat) (x : Src) (occ : Occasion) (s : State) (off : List Feeder) (t : State) :
    Prop where
  load    : LoadOnly s t
  notes   : NotesGrow s t
  sum     : s.sumOf secs = t.sumOf secs + (off.map fun f => (s.feeder f).demand).sum
  each    : ∀ a f b, off = a ++ f :: b →
    budget < t.sumOf secs + (s.feeder f).demand + (b.map fun f => (s.feeder f).demand).sum ∧
    t.Noted (.shed f occ (s.cls f) (s.feeder f).demand (t.sumOf secs + (b.map fun f => (s.feeder f).demand).sum) budget x)
  feeder  : ∀ f, t.feeder f = if f ∈ off then { s.feeder f with shed := true } else s.feeder f
  stack   : ∀ n, t.lmg.shedStack.get n = s.lmg.shedStack.get n ++ off.filter (fun f => feederSec f = n)
  lines   : ∀ f, t.lmg.lines.get f = if f ∈ off ∧ s.blocked = false then true else s.lmg.lines.get f
  ids     : ∀ n, t.islandIdOf n = s.islandIdOf n
  stretch : ∀ i, (∀ u, s.island i = some u → u.stretch = none) ∨ (∃ f ∈ off, i = s.islandIdOf (feederSec f)) →
    ∀ u, t.island i = some u → u.stretch = none

namespace HasShed

variable {secs : List Sec} {budget : Nat} {x : Src} {occ : Occasion} {off : List Feeder}

theorem nil (secs : List Sec) (budget : Nat) (x : Src) (occ : Occasion) (s : State) : HasShed secs budget x occ s [] s where
  load := .refl s
  notes := .refl s
  sum := rfl
  each a f b e := by simp at e
  feeder f := by simp
  stack n := by simp
  lines f := by simp
  ids n := rfl
  stretch i h := h.elim id fun ⟨_, m, _⟩ => nomatch m

/-- One more feeder is shed first. -/
theorem cons (carried : s.carried f = true) (mem : feederSec f ∈ secs) (above : budget < s.sumOf secs) (new : f ∉ off)
    (h : HasShed secs budget x occ (shedOne secs budget x occ f s) off t) : HasShed secs budget x occ s (f :: off) t := by
  have load := shedOne_load secs budget x occ f s
  have feeder := shedOne_feeder secs budget x occ f s
  have demand (g : Feeder) : ((shedOne secs budget x occ f s).feeder g).demand = (s.feeder g).demand := by
    rw [feeder]
    split <;> rfl
  have ids := shedOne_islandIdOf secs budget x occ f s
  have first : s.sumOf secs = (shedOne secs budget x occ f s).sumOf secs + (s.feeder f).demand :=
    sumOf_shed load.plan_eq carried feeder mem
  have later := h.sum
  simp only [demand] at later
  refine ⟨load.trans h.load, ?notes, ?sum, ?each, ?feeder, ?stack, ?lines, fun n => (h.ids n).trans (ids n), ?stretch⟩
  case notes => exact (shedOne_notes secs budget x occ f s).trans h.notes
  case sum =>
    rw [List.map_cons, List.sum_cons]
    omega
  case each =>
    intro a g b e
    cases a with
    | nil =>
      obtain ⟨rfl, rfl⟩ := List.cons.inj e
      refine ⟨by omega, ?_⟩
      rw [← later]
      exact h.notes.noted (shedOne_noted secs budget x occ f s)
    | cons c a =>
      obtain ⟨rfl, tail⟩ := List.cons.inj e
      have := h.each a g b tail
      simp only [demand, load.cls_eq] at this
      exact this
  case feeder =>
    intro g
    rw [h.feeder, feeder]
    by_cases e : g = f
    · subst e
      simp [new]
    · simp [e]
  case stack =>
    intro n
    rw [h.stack, shedOne_stack, List.append_assoc, List.filter_cons]
    split <;> simp_all
  case lines =>
    intro g
    rw [h.lines, shedOne_lines, load.blocked_eq]
    by_cases e : g = f
    · subst e
      simp [new]
    · simp [e]
  case stretch =>
    intro i clear
    by_cases own : i = s.islandIdOf (feederSec f)
    · refine h.stretch i (.inl fun u e => ?_)
      rw [shedOne_island, if_pos own] at e
      obtain ⟨r, -, rfl⟩ := Option.map_eq_some_iff.mp e
      rfl
    · refine h.stretch i (clear.imp (fun old => ?_) fun ⟨g, m, e⟩ => ?_)
      · rwa [shedOne_island, if_neg own]
      · refine ⟨g, (List.mem_cons.mp m).resolve_left ?_, e.trans (ids _).symm⟩
        rintro rfl
        exact own e

end HasShed

/-- The feeders that a pass over these sections may take, of a list. -/
def State.shedList (s : State) (secs : List Sec) (l : List Feeder) : List Feeder :=
  l.filter fun f => s.sheddable f && secs.contains (feederSec f)

section Pass

variable (secs : List Sec) (budget : Nat) (x : Src) (occ : Occasion)

/-- One step of a pass. -/
def passStep (t : State) (f : Feeder) : State :=
  if decide (budget < t.sumOf secs) && t.sheddable f && secs.contains (feederSec f)
  then shedOne secs budget x occ f t else t

theorem foldl_within (within : s.sumOf secs ≤ budget) (l : List Feeder) : l.foldl (passStep secs budget x occ) s = s := by
  refine List.foldlRecOn (motive := fun t => t = s) l _ rfl fun t e f _ => ?_
  unfold passStep
  rw [e, if_neg]
  simp [Nat.not_lt.mpr within]

/-- Feeders taken in a list's order are shed until the sum is within the budget. -/
theorem foldl_sheds (l : List Feeder) (once : l.Nodup) (s : State) :
    ∃ off rest, off ++ rest = s.shedList secs l ∧
      HasShed secs budget x occ s off (l.foldl (passStep secs budget x occ) s) ∧
      ((l.foldl (passStep secs budget x occ) s).sumOf secs ≤ budget ∨ rest = []) := by
  induction l generalizing s with
  | nil => exact ⟨[], [], rfl, .nil _ _ _ _ _, .inr rfl⟩
  | cons f l ih =>
    obtain ⟨new, once⟩ := List.nodup_cons.mp once
    by_cases within : s.sumOf secs ≤ budget
    · rw [foldl_within secs budget x occ within]
      exact ⟨[], _, rfl, .nil _ _ _ _ _, .inl within⟩
    · cases takes : s.sheddable f && secs.contains (feederSec f) with
      | false =>
        have skip : passStep secs budget x occ s f = s := if_neg (by rw [Bool.and_assoc, takes]; simp)
        have list : s.shedList secs (f :: l) = s.shedList secs l := List.filter_cons_of_neg (by rw [takes]; simp)
        rw [List.foldl_cons, skip, list]
        exact ih once s
      | true =>
        obtain ⟨sheddable, mem⟩ := Bool.and_eq_true_iff.mp takes
        have shed : passStep secs budget x occ s f = shedOne secs budget x occ f s :=
          if_pos (by rw [Bool.and_assoc, takes]; simp [Nat.not_le.mp within])
        obtain ⟨off, rest, list, h, ends⟩ := ih once (shedOne secs budget x occ f s)
        have others : (shedOne secs budget x occ f s).shedList secs l = s.shedList secs l := by
          refine List.filter_congr fun g m => ?_
          have ne : g ≠ f := by
            rintro rfl
            exact new m
          have load := shedOne_load secs budget x occ f s
          unfold State.sheddable State.carried
          rw [load.plan_eq, load.cls_eq, shedOne_feeder, if_neg ne]
        rw [others] at list
        have carried : s.carried f = true := by
          unfold State.sheddable at sheddable
          simp only [Bool.and_eq_true] at sheddable
          exact sheddable.1.1.1
        have newOff : f ∉ off := fun m => new ((List.mem_filter.mp (list ▸ List.mem_append_left rest m)).1)
        rw [List.foldl_cons, shed]
        refine ⟨f :: off, rest, ?_, h.cons carried (by simpa using mem) (Nat.not_le.mp within) newOff, ends⟩
        rw [List.cons_append, list]
        exact (List.filter_cons_of_pos (p := fun f => s.sheddable f && secs.contains (feederSec f)) takes).symm

end Pass

/-! ### The order of a pass (R151) -/

theorem mem_shedOrder : f ∈ s.shedOrder ↔ 2 ≤ s.cls f ∧ s.cls f ≤ 8 := by
  unfold State.shedOrder
  simp only [List.mem_flatMap, List.mem_filter, List.mem_reverse, mem_allFeeders, true_and, beq_iff_eq]
  constructor
  · rintro ⟨c, m, rfl⟩
    simp only [List.mem_cons, List.not_mem_nil, or_false] at m
    omega
  · rintro ⟨low, high⟩
    refine ⟨_, ?_, rfl⟩
    simp only [List.mem_cons, List.not_mem_nil, or_false]
    omega

/-- Class, highest first, then number, highest first. -/
theorem shedOrder_pairwise (s : State) :
    s.shedOrder.Pairwise fun f g => s.cls g < s.cls f ∨ s.cls g = s.cls f ∧ g < f := by
  unfold State.shedOrder
  refine List.pairwise_flatMap.mpr ⟨fun c _ => ?_, ?_⟩
  · have numbers : allFeeders.reverse.Pairwise (fun f g => g < f) := by decide
    refine (numbers.filter _).imp_of_mem fun {f g} mf mg less => .inr ⟨?_, less⟩
    rw [eq_of_beq (List.mem_filter.mp mf).2, eq_of_beq (List.mem_filter.mp mg).2]
  · have classes : [8, 7, 6, 5, 4, 3, 2].Pairwise (fun a b : Nat => b < a) := by decide
    refine classes.imp fun {a b} less f mf g mg => .inl ?_
    rwa [eq_of_beq (List.mem_filter.mp mf).2, eq_of_beq (List.mem_filter.mp mg).2]

/-- Settles O53. -/
theorem shedPassEnds : Obligations.ShedPassEnds := by
  intro s secs budget x occ t demand
  have once : s.shedOrder.Nodup := (shedOrder_pairwise s).imp fun {f g} h e => by
    subst e
    exact h.elim (lt_irrefl _) fun k => lt_irrefl _ k.2
  obtain ⟨off, rest, list, h, ends⟩ := foldl_sheds secs budget x occ s.shedOrder once s
  refine ⟨fun within => foldl_within secs budget x occ within _, off, rest, fun f => ?_, ?_, ends, h.sum, h.each, h.feeder,
    h.stack, h.lines, fun f m u e => ?_⟩
  · rw [list]
    unfold State.shedList
    rw [List.mem_filter, mem_shedOrder]
    simp only [Bool.and_eq_true, List.contains_iff_mem]
    refine ⟨fun ⟨_, sheddable, mem⟩ => ⟨mem, sheddable⟩, fun ⟨mem, sheddable⟩ => ⟨?_, sheddable, mem⟩⟩
    unfold State.sheddable at sheddable
    simp only [Bool.and_eq_true, decide_eq_true_eq] at sheddable
    exact ⟨sheddable.1.1.2, sheddable.1.2⟩
  · rw [list]
    exact (shedOrder_pairwise s).filter _
  · exact h.stretch _ (.inr ⟨f, m, rfl⟩) u e

end Sys2Proof.Machine
end

section
/-! The islands' timers (R153, R155 to R158) and the demand of a feeder (R145). -/

namespace Sys2Proof.Machine

variable {s t u : State} {f g : Feeder} {i j : IslandId} {r : IslandRec}

/-! ### Supervision that starts timers and sheds nothing (R153) -/

/-- An island's record after supervision with t_ovl above 0. -/
def IslandRec.Watched (r : IslandRec) (s : State) (i : IslandId) (u : IslandRec) : Prop :=
  u.cond = r.cond ∧ u.source = r.source ∧ u.restoreAt = r.restoreAt ∧ u.stretch = r.stretch ∧
  ∀ x, r.source = some x → s.blocked = false →
    u.overloadAt = if s.overloaded i x then some (r.overloadAt.getD (s.now + s.plan.glob .tOvl * 1000)) else none

/-- t is s but for its islands. -/
def IslandsOnly (s t : State) : Prop := ∃ islands, t = { s with lmg := { s.lmg with islands := islands } }

theorem IslandsOnly.trans (h : IslandsOnly s t) (k : IslandsOnly t u) : IslandsOnly s u := by
  obtain ⟨a, rfl⟩ := h
  obtain ⟨b, rfl⟩ := k
  exact ⟨b, rfl⟩

theorem modIsland_islandsOnly (i : IslandId) (g : IslandRec → IslandRec) (s : State) : IslandsOnly s (modIsland i g s) :=
  ⟨_, rfl⟩

theorem modIsland_id (i : IslandId) (s : State) : modIsland i id s = s := by
  have islands : (modIsland i id s).lmg.islands = s.lmg.islands := by
    unfold modIsland
    dsimp only
    cases s.lmg.islands <;> cases i <;> rfl
  show { s with lmg := { s.lmg with islands := (modIsland i id s).lmg.islands } } = s
  rw [islands]

/-- One island under supervision with t_ovl above 0: its timer is started, kept or made idle. -/
theorem superviseOne_timer (timed : 0 < s.plan.glob .tOvl) (formed : s.island i = some r) :
    ∃ g, superviseOne i s = modIsland i g s ∧ r.Watched s i (g r) := by
  have same : ∃ g, s = modIsland i g s ∧ g r = r := ⟨id, (modIsland_id i s).symm, rfl⟩
  unfold superviseOne
  rw [formed]
  dsimp only
  cases source : r.source with
  | none => exact ⟨_, rfl, rfl, rfl, rfl, rfl, fun x e => by cases source.symm.trans e⟩
  | some x =>
    dsimp only
    have watched (y : Src) (e : r.source = some y) : y = x := Option.some.inj (e.symm.trans source)
    by_cases above : s.overloaded i x = true
    · rw [if_pos above]
      by_cases starts : (r.overloadAt.isNone && !s.blocked) = true
      · rw [if_pos starts, if_neg (by omega)]
        refine ⟨_, rfl, rfl, rfl, rfl, rfl, fun y e _ => ?_⟩
        rw [watched y e, if_pos above]
        have idle : r.overloadAt = none := by simpa using (Bool.and_eq_true_iff.mp starts).1
        rw [idle]
        rfl
      · rw [if_neg starts]
        obtain ⟨g, e, keep⟩ := same
        refine ⟨g, e, ?_⟩
        rw [keep]
        refine ⟨rfl, rfl, rfl, rfl, fun y e free => ?_⟩
        rw [watched y e, if_pos above]
        cases running : r.overloadAt with
        | none => simp [running, free] at starts
        | some d => rfl
    · rw [if_neg above]
      refine ⟨_, rfl, rfl, rfl, rfl, rfl, fun y e _ => ?_⟩
      rw [watched y e, if_neg above]

/-- Every island under supervision with t_ovl above 0. -/
theorem superviseAll_timers (timed : 0 < s.plan.glob .tOvl) : IslandsOnly s (superviseAll s) ∧
    ∀ i r, s.island i = some r → ∃ u, (superviseAll s).island i = some u ∧ r.Watched s i u := by
  unfold superviseAll State.islandIds
  cases islands : s.lmg.islands with
  | notFormed =>
    refine ⟨⟨s.lmg.islands, rfl⟩, fun i r e => ?_⟩
    unfold State.island at e
    rw [islands] at e
    cases e
  | joined j =>
    have formed : s.island .both = some j := by
      unfold State.island
      rw [islands]
    obtain ⟨g, e, watched⟩ := superviseOne_timer timed formed
    show IslandsOnly s (superviseOne .both s) ∧ ∀ i r, _ → ∃ u, (superviseOne .both s).island i = some u ∧ _
    rw [e]
    refine ⟨modIsland_islandsOnly _ _ _, fun i r e' => ?_⟩
    cases i with
    | both =>
      obtain rfl := Option.some.inj (formed.symm.trans e')
      exact ⟨_, by rw [island_modIsland, if_pos rfl, formed]; rfl, watched⟩
    | bus1 | bus2 =>
      unfold State.island at e'
      rw [islands] at e'
      cases e'
  | apart a b =>
    have formed1 : s.island .bus1 = some a := by
      unfold State.island
      rw [islands]
    have formed2 : s.island .bus2 = some b := by
      unfold State.island
      rw [islands]
    obtain ⟨g, e1, watched1⟩ := superviseOne_timer timed formed1
    have formed2' : (modIsland .bus1 g s).island .bus2 = some b := by
      rw [island_modIsland, if_neg (by decide), formed2]
    obtain ⟨h, e2, watched2⟩ := superviseOne_timer (s := modIsland .bus1 g s) timed formed2'
    show IslandsOnly s (superviseOne .bus2 (superviseOne .bus1 s)) ∧
      ∀ i r, _ → ∃ u, (superviseOne .bus2 (superviseOne .bus1 s)).island i = some u ∧ _
    rw [e1, e2]
    refine ⟨(modIsland_islandsOnly _ _ _).trans (modIsland_islandsOnly _ _ _), fun i r e' => ?_⟩
    cases i with
    | bus1 =>
      obtain rfl := Option.some.inj (formed1.symm.trans e')
      exact ⟨_, by rw [island_modIsland, if_neg (by decide), island_modIsland, if_pos rfl, formed1]; rfl, watched1⟩
    | bus2 =>
      obtain rfl := Option.some.inj (formed2.symm.trans e')
      exact ⟨_, by rw [island_modIsland, if_pos rfl, formed2']; rfl, watched2⟩
    | both =>
      unfold State.island at e'
      rw [islands] at e'
      cases e'

/-! ### Demands (R145) -/

/-- A shed pass moves no demand. -/
theorem shedPass_demand (secs : List Sec) (budget : Nat) (x : Src) (occ : Occasion) (s : State) (g : Feeder) :
    ((shedPass secs budget x occ s).feeder g).demand = (s.feeder g).demand := by
  refine List.foldlRecOn (motive := fun t : State => (t.feeder g).demand = (s.feeder g).demand) _ _ rfl fun t e f _ => ?_
  split
  · rw [shedOne_feeder]
    split <;> exact e
  · exact e

theorem superviseOne_demand (i : IslandId) (s : State) (g : Feeder) :
    ((superviseOne i s).feeder g).demand = (s.feeder g).demand := by
  have pass (x : Src) : ((overloadPass i x s).feeder g).demand = (s.feeder g).demand := by
    have e := shedPass_demand (islandSecs i) (s.plan.budget x) x .overload
      (modIsland i (fun r => { r with overloadAt := none }) s) g
    unfold overloadPass
    dsimp only
    split
    · split
      · split
        · exact e
        · unfold State.feeder
          rw [post_lmg]
          exact e
      · exact e
    · exact e
  unfold superviseOne
  split
  · rfl
  · split
    · rfl
    · split
      · split
        · split
          · exact pass _
          · rfl
        · rfl
      · rfl

theorem superviseAll_demand (s : State) (g : Feeder) : ((superviseAll s).feeder g).demand = (s.feeder g).demand :=
  List.foldlRecOn (motive := fun t : State => (t.feeder g).demand = (s.feeder g).demand) _ _ rfl fun t e i _ =>
    (superviseOne_demand i t g).trans e

/-- In MANUAL, reports on which nothing acts are taken; only the run records may move. -/
theorem settle_idle (manual : s.BothManual) (idle : ∀ r ∈ s.agenda, r.idle = true) (few : s.agenda.length ≤ 4096) :
    ∃ v, settle s = { s with agenda := [], mdc := { s.mdc with runs := v } } := by
  have formed : runAll s = { s with mdc := { s.mdc with runs := (runAll s).mdc.runs } } := runAll_eq s
  obtain ⟨v, e⟩ := drain_idle s.agenda (4096 - s.agenda.length)
    { s with agenda := [], mdc := { s.mdc with runs := (runAll s).mdc.runs } } manual idle
  refine ⟨v, ?_⟩
  unfold settle
  rw [formed]
  have whole : s.agenda.length + (4096 - s.agenda.length) = 4096 := by omega
  rw [whole, List.append_nil] at e
  exact e.trans (drain_none _ rfl)

/-- A state with no report to take. -/
theorem State.with_agenda (h : s.agenda = []) : s = { s with agenda := [] } := by
  cases s
  cases h
  rfl

/-- Settles O55. -/
theorem demandHeld : Obligations.DemandHeld := by
  intro s tag f v ready manual
  let m : State := modFeeder f (fun r => { r with demand := min v.toNat 5000 }) (s.awaiting 0x41 tag)
  have load : LoadOnly (s.awaiting 0x41 tag) (superviseAll m) := LoadOnly.trans (t := m) rfl (superviseAll_load m)
  obtain ⟨l, set, idle, few⟩ : ∃ l : List Report, setDemand f v.toNat (s.awaiting 0x41 tag) =
      { superviseAll m with agenda := l } ∧ (∀ r ∈ l, r.idle = true) ∧ l.length ≤ 4096 := by
    have calm : (superviseAll m).agenda = [] := (congrArg State.agenda load :).trans ready.1.2
    show ∃ l : List Report, reportClassOne _ (superviseAll m) = _ ∧ _
    unfold reportClassOne
    split
    · exact ⟨[], State.with_agenda calm, by simp, by simp⟩
    · exact ⟨[.classOneDemand], by unfold report; rw [calm]; rfl, by simp [Report.idle, Report.inert], by simp⟩
  have served : serve (.feederDemandSet (feederCode f) v) (s.awaiting 0x41 tag) =
      .after (setDemand f v.toNat (s.awaiting 0x41 tag)) fun t => ⟨.ok, .demand (t.feeder f).demand⟩ := by
    show serveDemand _ _ _ = _
    unfold serveDemand
    rw [feederOf_feederCode, withArg_some]
  have manual' : ({ superviseAll m with agenda := l } : State).BothManual := by
    intro n
    unfold State.mode
    show (superviseAll m).mdc.modes.get n = _
    rw [load.mdc_eq]
    exact manual n
  obtain ⟨runs, settled⟩ := settle_idle manual' idle few
  have demand (g : Feeder) : ((superviseAll m).feeder g).demand = if g = f then min v.toNat 5000 else (s.feeder g).demand := by
    rw [superviseAll_demand]
    split
    · rename_i e
      rw [e]
      exact congrArg FeederRec.demand (modFeeder_own _ _ _)
    · rename_i e
      exact congrArg FeederRec.demand (modFeeder_others _ e)
  refine ⟨_, exec_after (r := .feederDemandSet (feederCode f) v) rfl ready served, ?_⟩
  rw [set, settled]
  refine ⟨(demand f).trans (if_pos rfl), fun g ne => (demand g).trans (if_neg ne), fun i r x formed source timed free => ?_,
    load.bcu_eq, load.seqs_eq, load.hlc_eq, load.pst_eq, ?_⟩
  · obtain ⟨⟨islands, only⟩, watched⟩ := superviseAll_timers (s := m) timed
    obtain ⟨u, e, -, -, -, -, timer⟩ := watched i r formed
    have same : (superviseAll m).overloaded i x = m.overloaded i x := by
      rw [only]
      rfl
    have shown : ((superviseAll m).island i).map (·.overloadAt) =
        some (if (superviseAll m).overloaded i x then some (r.overloadAt.getD (s.now + s.plan.glob .tOvl * 1000)) else none) := by
      rw [e, Option.map_some, timer x source free, same]
      rfl
    exact shown
  · exact congrArg (fun n => some (⟨0x41, tag, .formed ⟨.ok, .demand n⟩⟩ : Service)) ((demand f).trans (if_pos rfl))

/-! ### The restore timer (R155 to R158) -/

section Restore

variable {x : Src} {d : Nat}

/-- The restore timer's next deadline (R155). -/
def State.restoreAgain (s : State) (r : IslandRec) (d : Nat) (any : Bool) : Option Nat :=
  if r.cond = .fed ∧ any = true then some (max s.now d + s.plan.glob .tStep * 1000) else none

section Expiry

variable (formed : s.island i = some r) (running : r.restoreAt = some d) (fed : r.source = some x)

include formed running fed

theorem restoreExpiry_tries (any : s.anyShed i = true) (free : s.restoreHeld i = false) :
    restoreExpiry i s = restartRestore i (restoreAttempt i r x (reach d s)) := by
  unfold restoreExpiry
  rw [formed]
  dsimp only
  rw [running, fed]
  dsimp only
  rw [if_pos]
  rw [show (reach d s).anyShed i = true from any, show (reach d s).restoreHeld i = false from free]
  rfl

theorem restoreExpiry_passes (held : s.restoreHeld i = true ∨ s.anyShed i = false) :
    restoreExpiry i s = restartRestore i (reach d s) := by
  unfold restoreExpiry
  rw [formed]
  dsimp only
  rw [running, fed]
  dsimp only
  rw [if_neg]
  rw [show (reach d s).anyShed i = s.anyShed i from rfl, show (reach d s).restoreHeld i = s.restoreHeld i from rfl]
  rcases held with held | none
  · simp [held]
  · simp [none]

end Expiry

theorem restoreAttempt_within (top : s.candidate i = some f)
    (within : s.sumOf (islandSecs i) + s.need f ≤ s.plan.budget x) :
    restoreAttempt i r x s = restoreOne i (s.need f) (s.plan.budget x) f s := by
  unfold restoreAttempt
  rw [top]
  exact if_pos within

theorem restoreAttempt_above (top : s.candidate i = some f)
    (above : s.plan.budget x < s.sumOf (islandSecs i) + s.need f) :
    restoreAttempt i r x s = restoreBlocked i r (s.need f) (s.plan.budget x) f s := by
  unfold restoreAttempt
  rw [top]
  exact if_neg (by omega)

/-- The timer restarted: the island's record in a state that is s but for the load manager, at the deadline d. -/
theorem restartRestore_island {v : State} {w : IslandRec} (formed : v.island i = some w) (cond : w.cond = r.cond)
    (now : v.now = max s.now d) (plan : v.plan = s.plan) :
    ∃ u, (restartRestore i v).island i = some u ∧ u.stretch = w.stretch ∧ u.restoreAt = s.restoreAgain r d (v.anyShed i) := by
  unfold restartRestore
  refine ⟨_, (island_modIsland _).trans ((if_pos rfl).trans (congrArg (Option.map _) formed)), rfl, ?_⟩
  unfold State.restoreAgain State.stepMs
  simp [cond, now, plan]

/-- The state of a feeder restored, before its notice (R156). -/
def backMarked (i : IslandId) (f : Feeder) (s : State) : State :=
  modIsland i (fun r => { r with stretch := none })
    (driveLine f false (modFeeder f (fun r => { r with shed := false })
      (setStack (feederSec f) (s.lmg.shedStack.get (feederSec f)).dropLast s)))

theorem restoreOne_eq (i : IslandId) (need budget : Nat) (f : Feeder) (s : State) : restoreOne i need budget f s =
    superviseAll (post (.restore f .step need ((backMarked i f s).sumOf (islandSecs i)) budget) (backMarked i f s)) := rfl

theorem backMarked_eq (i : IslandId) (f : Feeder) (free : s.blocked = false) : backMarked i f s =
    modIsland i (fun r => { r with stretch := none }) { s with lmg := { s.lmg with
      feeders := s.lmg.feeders.set f { s.feeder f with shed := false }
      shedStack := s.lmg.shedStack.set (feederSec f) (s.lmg.shedStack.get (feederSec f)).dropLast
      lines := s.lmg.lines.set f false } } := by
  unfold backMarked driveLine
  rw [if_neg]
  · rfl
  · show ¬s.blocked = true
    simp [free]

/-- A restored feeder's state, with t_ovl above 0 (R155, R156). -/
theorem restoreOne_timed (timed : 0 < s.plan.glob .tOvl) (free : s.blocked = false) (formed : s.island i = some r)
    (need budget : Nat) :
    let t := restoreOne i need budget f s
    t.lmg.feeders = s.lmg.feeders.set f { s.feeder f with shed := false } ∧
    t.lmg.shedStack = s.lmg.shedStack.set (feederSec f) (s.lmg.shedStack.get (feederSec f)).dropLast ∧
    t.lmg.lines = s.lmg.lines.set f false ∧
    t.spt = (post (.restore f .step need (t.sumOf (islandSecs i)) budget) s).spt ∧
    (∃ u, t.island i = some u ∧ u.cond = r.cond ∧ u.stretch = none) ∧ LoadOnly s t := by
  have back := backMarked_eq i f free
  have plan : (post (.restore f .step need ((backMarked i f s).sumOf (islandSecs i)) budget) (backMarked i f s)).plan = s.plan := by
    rw [plan_post, back]
    rfl
  obtain ⟨⟨islands, only⟩, watched⟩ := superviseAll_timers
    (s := post (.restore f .step need ((backMarked i f s).sumOf (islandSecs i)) budget) (backMarked i f s)) (plan ▸ timed)
  have formed' : (post (.restore f .step need ((backMarked i f s).sumOf (islandSecs i)) budget) (backMarked i f s)).island i =
      some { r with stretch := none } := by
    rw [island_of_islands (congrArg LmgState.islands (post_lmg _ _)), back, island_modIsland, if_pos rfl]
    show (s.island i).map _ = _
    rw [formed]
    rfl
  obtain ⟨u, e, cond, -, -, stretch, -⟩ := watched i _ formed'
  have lmg : (post (.restore f .step need ((backMarked i f s).sumOf (islandSecs i)) budget) (backMarked i f s)).lmg =
      (backMarked i f s).lmg := post_lmg _ _
  have sum : (restoreOne i need budget f s).sumOf (islandSecs i) = (backMarked i f s).sumOf (islandSecs i) := by
    rw [restoreOne_eq, only]
    exact sumOf_congr (plan_post _ _) (congrArg LmgState.feeders lmg) _
  have spt : (restoreOne i need budget f s).spt =
      (post (.restore f .step need ((backMarked i f s).sumOf (islandSecs i)) budget) (backMarked i f s)).spt := by
    rw [restoreOne_eq, only]
  refine ⟨?_, ?_, ?_, ?_, ⟨u, e, cond, stretch⟩, ?_⟩
  · rw [restoreOne_eq, only]
    exact (congrArg LmgState.feeders lmg).trans (back ▸ rfl)
  · rw [restoreOne_eq, only]
    exact (congrArg LmgState.shedStack lmg).trans (back ▸ rfl)
  · rw [restoreOne_eq, only]
    exact (congrArg LmgState.lines lmg).trans (back ▸ rfl)
  · rw [sum, spt]
    exact post_spt_congr _ (back ▸ rfl) (back ▸ rfl)
  · rw [restoreOne_eq]
    exact (LoadOnly.post _ (LoadOnly.modIsland _ _ (.driveLine _ _ (.modFeeder _ _ (.setStack _ _ (.refl s)))))).trans
      (superviseAll_load _)

/-- A restore that is blocked (R157). -/
theorem restoreBlocked_spt (need budget : Nat) : (restoreBlocked i r need budget f s).spt =
    if r.stretch = some f then s.spt
    else (post (.restoreBlocked f (feederSec f) need (s.sumOf (islandSecs i)) budget) s).spt := by
  unfold restoreBlocked
  split
  · rfl
  · exact post_spt_congr _ rfl rfl

theorem restoreBlocked_island (formed : s.island i = some r) (need budget : Nat) :
    (restoreBlocked i r need budget f s).island i = some { r with stretch := some f } := by
  unfold restoreBlocked
  split
  · rename_i same
    rw [formed, ← same]
  · rw [island_of_islands (congrArg LmgState.islands (post_lmg _ _)), island_modIsland, if_pos rfl, formed]
    rfl

theorem restoreBlocked_islands (need budget : Nat) :
    ∃ islands spt, restoreBlocked i r need budget f s = { s with lmg := { s.lmg with islands := islands }, spt := spt } := by
  unfold restoreBlocked
  split
  · exact ⟨s.lmg.islands, s.spt, rfl⟩
  · rw [post_eq]
    exact ⟨_, _, rfl⟩

end Restore

/-! ### The overload timer (R153) -/

section Overload

variable {x : Src} {d : Nat}

theorem overloadExpiry_runs (formed : s.island i = some r) (running : r.overloadAt = some d) (fed : r.source = some x) :
    overloadExpiry i s = overloadPass i x (reach d s) := by
  unfold overloadExpiry
  rw [formed]
  dsimp only
  rw [running, fed]

/-- A shed pass leaves the overload timers. -/
theorem shedPass_overloadAt (secs : List Sec) (budget : Nat) (x : Src) (occ : Occasion) (s : State) (j : IslandId) :
    ((shedPass secs budget x occ s).island j).map (·.overloadAt) = (s.island j).map (·.overloadAt) := by
  refine List.foldlRecOn (motive := fun t : State => (t.island j).map (·.overloadAt) = (s.island j).map (·.overloadAt)) _ _ rfl
    fun t e f _ => ?_
  split
  · rw [shedOne_island, ← e]
    split
    · rw [Option.map_map]
      rfl
    · rfl
  · exact e

/-- After a shed pass the sum is within the budget, or no sheddable feeder is left. -/
theorem shedPass_ends (secs : List Sec) (budget : Nat) (x : Src) (occ : Occasion) (s : State) :
    (shedPass secs budget x occ s).sumOf secs ≤ budget ∨
      ∀ f, feederSec f ∈ secs → (shedPass secs budget x occ s).sheddable f = false := by
  obtain ⟨-, off, rest, mem, -, ends, -, -, feeder, -⟩ := shedPassEnds s secs budget x occ
  refine ends.imp id fun used f inside => ?_
  have load := shedPass_load secs budget x occ s
  have shown : (shedPass secs budget x occ s).sheddable f =
      (s.plan.fitted f && !((shedPass secs budget x occ s).feeder f).shed && decide (2 ≤ s.cls f) && decide (s.cls f ≤ 8) &&
        decide (0 < ((shedPass secs budget x occ s).feeder f).demand)) := by
    unfold State.sheddable State.carried
    rw [load.plan_eq, load.cls_eq]
  rw [shown, feeder]
  by_cases taken : f ∈ off
  · simp [taken]
  · rw [if_neg taken]
    have not : ¬(feederSec f ∈ secs ∧ s.sheddable f = true) := fun h => by
      have := (mem f).mpr h
      rw [used, List.append_nil] at this
      exact taken this
    exact Bool.eq_false_iff.mpr fun h => not ⟨inside, h⟩

/-- What follows the pass moves an island's report mark alone. -/
theorem overloadPass_after (i : IslandId) (x : Src) (s : State) :
    let w := shedPass (islandSecs i) (s.plan.budget x) x .overload (modIsland i (fun r => { r with overloadAt := none }) s)
    (overloadPass i x s).lmg.feeders = w.lmg.feeders ∧
    ((overloadPass i x s).island i).map (·.overloadAt) = (w.island i).map (·.overloadAt) := by
  intro w
  have marked (b : Bool) : ((modIsland i (fun r => { r with reported := b }) w).island i).map (·.overloadAt) =
      (w.island i).map (·.overloadAt) := by
    rw [island_modIsland, if_pos rfl, Option.map_map]
    rfl
  show (if _ then _ else _ : State).lmg.feeders = _ ∧ ((if _ then _ else _ : State).island i).map _ = _
  split
  · split
    · split
      · exact ⟨rfl, rfl⟩
      · refine ⟨(congrArg LmgState.feeders (post_lmg _ _)).trans rfl, ?_⟩
        rw [island_of_islands (congrArg LmgState.islands (post_lmg _ _))]
        exact marked true
    · exact ⟨rfl, rfl⟩
  · exact ⟨rfl, marked false⟩

theorem overloadPass_idle (formed : s.island i = some r) : ((overloadPass i x s).island i).map (·.overloadAt) = some none := by
  rw [(overloadPass_after i x s).2, shedPass_overloadAt, island_modIsland, if_pos rfl, formed]
  rfl

theorem overloadPass_ends (i : IslandId) (x : Src) (s : State) : (overloadPass i x s).sumOf (islandSecs i) ≤ s.plan.budget x ∨
    ∀ f, feederSec f ∈ islandSecs i → (overloadPass i x s).sheddable f = false := by
  have pass := shedPass_load (islandSecs i) (s.plan.budget x) x .overload (modIsland i (fun r => { r with overloadAt := none }) s)
  have plan : (overloadPass i x s).plan = (shedPass (islandSecs i) (s.plan.budget x) x .overload
      (modIsland i (fun r => { r with overloadAt := none }) s)).plan :=
    (overloadPass_load i x s).plan_eq.trans pass.plan_eq.symm
  have feeders := (overloadPass_after i x s).1
  have ends := shedPass_ends (islandSecs i) (s.plan.budget x) x .overload (modIsland i (fun r => { r with overloadAt := none }) s)
  rw [sumOf_congr plan feeders]
  refine ends.imp id fun used f inside => ?_
  have := used f inside
  unfold State.sheddable State.carried State.cls State.feeder at this ⊢
  rwa [plan, feeders]

end Overload

/-- Settles O54. -/
theorem islandTimersExpire : Obligations.IslandTimersExpire := by
  intro s i r x d out formed fed again
  have formed' : (reach d s).island i = some r := formed
  refine ⟨fun f running timed any free top within => ?restored, fun f running any free top above => ?blocked,
    fun running held => ?passed, fun running => ?overload⟩
  case restored =>
    have unblocked : (reach d s).blocked = false := by
      have := (Bool.or_eq_false_iff.mp free).2
      exact this
    obtain ⟨feeders, piles, lines, spt, ⟨w, island, cond, stretch⟩, load⟩ :=
      restoreOne_timed (s := reach d s) (f := f) timed unblocked formed' (s.need f) (s.plan.budget x)
    obtain ⟨u, e, stretch', timer⟩ := restartRestore_island (d := d) island cond load.now_eq load.plan_eq
    refine ⟨_, exec_act rfl out, ?_⟩
    rw [restoreExpiry_tries formed running fed any free,
      restoreAttempt_within (s := reach d s) top within]
    exact ⟨feeders, piles, lines, spt, ⟨u, e, stretch'.trans stretch, timer⟩, load.bcu_eq, load.seqs_eq, load.hlc_eq, load.pst_eq⟩
  case blocked =>
    have spt := restoreBlocked_spt (s := reach d s) (i := i) (r := r) (f := f) ((reach d s).need f) ((reach d s).plan.budget x)
    have island := restoreBlocked_island (s := reach d s) (f := f) formed' ((reach d s).need f) ((reach d s).plan.budget x)
    obtain ⟨islands, port, only⟩ := restoreBlocked_islands (s := reach d s) (i := i) (r := r) (f := f) ((reach d s).need f) ((reach d s).plan.budget x)
    refine ⟨_, exec_act rfl out, ?_⟩
    rw [restoreExpiry_tries formed running fed any free, restoreAttempt_above (s := reach d s) top above]
    rw [only] at spt island ⊢
    obtain ⟨u, e, stretch, timer⟩ := restartRestore_island (s := s) (d := d) (r := r) island rfl rfl rfl
    exact ⟨rfl, rfl, rfl, ⟨u, e, stretch, timer.trans (congrArg (s.restoreAgain r d) any)⟩, spt⟩
  case passed =>
    obtain ⟨u, e, stretch, timer⟩ := restartRestore_island (s := s) (r := r) (d := d) formed' rfl rfl rfl
    refine ⟨_, exec_act rfl out, ?_⟩
    rw [restoreExpiry_passes formed running fed held]
    exact ⟨rfl, rfl, rfl, rfl, u, e, stretch, timer⟩
  case overload =>
    have load : LoadOnly (reach d s) (overloadPass i x (reach d s)) := overloadPass_load i x (reach d s)
    refine ⟨_, exec_act rfl out, ?_⟩
    rw [overloadExpiry_runs formed running fed]
    refine ⟨overloadPass_idle formed', ?_, load.bcu_eq, load.seqs_eq, load.hlc_eq, load.pst_eq, load.mdc_eq⟩
    rw [load.plan_eq]
    exact overloadPass_ends i x (reach d s)

end Sys2Proof.Machine
end

section
/-! The supervisory port (chapter 10): requests that wait or are refused, the receiver byte by byte, and the sending of a
reply. -/

namespace Sys2Proof.Machine

variable {s t : State} {tag : Byte} {r : Request} {c : Instr}

/-! ### The operands the manual lists (R184, R193) -/

theorem secOf_isSome (b : Byte) : (secOf b).isSome = inRange 1 2 b := by revert b; decide
theorem srcOf_isSome (b : Byte) : (srcOf b).isSome = inRange 1 4 b := by revert b; decide
theorem pointOfCode_isSome (b : Byte) : (pointOfCode b).isSome = inRange 1 6 b := by revert b; decide
theorem chanOfCode_isSome (b : Byte) : (chanOfCode b).isSome = inRange 1 5 b := by revert b; decide
theorem pageOf_isSome (b : Byte) : (pageOf b).isSome = inRange 0 3 b := by revert b; decide
theorem feederOf_isSome (b : Byte) : (feederOf b).isSome = inRange 1 24 b := by revert b; decide
theorem entryOfCode_isSome (b : Byte) : (entryOfCode b.toNat).isSome = inRange 1 3 b := by revert b; decide
theorem bitOf_isSome (b : Byte) : (bitOf b).isSome = inRange 0 1 b := by revert b; decide
theorem itemSetOf_isSome (b : Byte) : (itemSetOf b).isSome = inRange 0 1 b := by revert b; decide
theorem lineOf_isSome (b : Byte) : (lineOf b).isSome = inRange 1 4 b := by revert b; decide
theorem indexOf_isSome (b : Byte) : (indexOf b).isSome = inRange 0 31 b := by revert b; decide
theorem writeIndexOf_isSome (b : Byte) : (writeIndexOf b).isSome = inRange 1 30 b := by revert b; decide

theorem pairCodes_points {i b : Byte} (h : pairCodes i b = true) : inRange 1 6 i = true ∧ inRange 1 6 b = true := by
  unfold pairCodes at h
  unfold inRange
  split at h
  case h_7 => cases h
  all_goals
    rename_i e1 e2
    simp [e1, e2]

theorem pairOf_isSome (i b : Byte) : (pairOf i b).isSome = pairCodes i b := by
  have points : (pointOfCode i = none ∨ pointOfCode b = none) → pairCodes i b = false := fun none =>
    Bool.eq_false_iff.mpr fun pair => by
      obtain ⟨incoming, bus⟩ := pairCodes_points pair
      rw [← pointOfCode_isSome] at incoming bus
      rcases none with e | e
      · simp [e] at incoming
      · simp [e] at bus
  unfold pairOf
  cases incoming : pointOfCode i with
  | none => exact (points (.inl incoming)).symm
  | some p =>
    cases bus : pointOfCode b with
    | none => rw [points (.inr bus)]; cases p <;> rfl
    | some q =>
      obtain rfl := pointOfCode_eq_some_iff.mp incoming
      obtain rfl := pointOfCode_eq_some_iff.mp bus
      rcases p with p | p <;> rcases q with q | q <;> cases p <;> cases q <;> rfl

/-! ### Requests that are refused (R184, R185) -/

theorem withArg_unlisted {α : Type} {o : Option α} (h : o.isSome = false) (f : α → Served) :
    withArg o t f = refuse .badArgument t := by
  cases o with
  | none => rfl
  | some a => cases h

/-- A request with two operands, one of which names nothing. -/
theorem withArg_two {α β : Type} {o : Option α} {p : Option β} (h : (o.isSome && p.isSome) = false) (f : α → β → Served) :
    (withArg o t fun a => withArg p t (f a)) = refuse .badArgument t := by
  cases o with
  | none => rfl
  | some a => exact withArg_unlisted h (f a)

theorem servePair_unlisted {i b k m : Byte} {new : Bool} (mode : bitOf m = some new)
    (ill : (pairCodes i b && inRange 0 1 k) = false) : servePair i b m k t = refuse .badArgument t := by
  have none : ((pairOf i b).isSome && (itemSetOf k).isSome) = false := by rw [pairOf_isSome, itemSetOf_isSome, ill]
  unfold servePair
  cases pair : pairOf i b with
  | none => rfl
  | some p =>
    rw [pair] at none
    rw [withArg_some, mode, withArg_some]
    exact withArg_unlisted none _

theorem serveFeeder_unlisted {f : Byte} (ill : inRange 0 24 f = false) : serveFeeder f t = refuse .badArgument t := by
  have not0 : f ≠ 0 := by
    rintro rfl
    cases ill
  have none : inRange 1 24 f = false := by
    unfold inRange at ill ⊢
    simp only [Bool.and_eq_false_iff, decide_eq_false_iff_not] at ill ⊢
    omega
  exact (if_neg not0).trans (withArg_unlisted ((feederOf_isSome f).trans none) _)

theorem itemAt_unlisted {g i f : Byte} (ill : itemAddress g i f = false) : (itemAt g.toNat i.toNat f.toNat).isSome = false :=
  Bool.eq_false_iff.mpr fun h => by
    rw [(itemAddress_iff g i f).mpr h] at ill
    cases ill

/-- A request with an operand that is not listed is refused (R184). -/
theorem serve_unlisted (h : c.request = some (tag, r)) (ill : c.wellFormed = false) (t : State) :
    serve r t = refuse .badArgument t := by
  cases c <;> simp only [Instr.request, Option.some.injEq, Prod.mk.injEq, reduceCtorEq] at h <;> obtain ⟨-, rfl⟩ := h <;>
    simp only [Instr.wellFormed, Bool.true_eq_false] at ill
  case pointGet p => exact withArg_unlisted ((pointOfCode_isSome p).trans ill) _
  case pairGetLast i b k => exact servePair_unlisted (m := 0) (new := false) rfl ill
  case pairGetNew i b k => exact servePair_unlisted (m := 1) (new := true) rfl ill
  case breakerGet c | breakerOperateClose c | breakerOperateTrip c | breakerOperateStop c | channelClear c =>
    exact withArg_unlisted ((chanOfCode_isSome c).trans ill) _
  case sectionGet n | modeSetManual n | modeSetAuto n | resume n =>
    exact withArg_unlisted ((secOf_isSome n).trans ill) _
  case blockSet v => exact withArg_unlisted ((bitOf_isSome v).trans ill) _
  case transferRequest n e => exact withArg_two (by rw [secOf_isSome, entryOfCode_isSome, ill]) _
  case feederGet f => exact serveFeeder_unlisted ill
  case feederDemandSet f d => exact withArg_unlisted ((feederOf_isSome f).trans ill) _
  case planSelect p | planCheck p | planActivate p | planSave p =>
    exact withArg_unlisted ((pageOf_isSome p).trans ill) _
  case planRead g i f => exact withArg_unlisted (itemAt_unlisted ill) _
  case planWrite g i f v => exact withArg_unlisted (itemAt_unlisted ill) _
  case planCopy p q => exact withArg_two (by rw [pageOf_isSome, pageOf_isSome, ill]) _
  case headRead p i => exact withArg_two (by rw [pointOfCode_isSome, indexOf_isSome, ill]) _
  case headWrite p i d => exact withArg_two (by rw [pointOfCode_isSome, writeIndexOf_isSome, ill]) _
  case outputSet l v => exact withArg_two (by rw [lineOf_isSome, bitOf_isSome, ill]) _
  case genTest x v => exact withArg_two (by rw [srcOf_isSome, bitOf_isSome, ill]) _

/-! ### Requests before the end of the power-up sequence (R185) -/

theorem withArg_listed {α : Type} {o : Option α} {v : Served} {f : α → Served} (h : o.isSome = true) (e : ∀ a, f a = v) :
    withArg o t f = v := by
  cases o with
  | none => cases h
  | some a => exact e a

theorem afterStart_off (h : t.adopted = false) (v : Served) : afterStart t v = refuse .busy t :=
  if_neg (by simp [State.started, h])

/-- The requests that act on sections, breakers, activations and generators are BUSY before the adoption. -/
theorem serve_early (h : c.request = some (tag, r)) (well : c.wellFormed = true)
    (acts : r.kind ∈ [0x21, 0x30, 0x31, 0x33, 0x34, 0x55, 0x72]) (early : t.adopted = false) :
    serve r t = refuse .busy t := by
  have busy := afterStart_off early
  cases c <;> simp only [Instr.request, Option.some.injEq, Prod.mk.injEq, reduceCtorEq] at h <;> obtain ⟨-, rfl⟩ := h
  case breakerOperateClose c =>
    exact withArg_listed ((chanOfCode_isSome c).trans well) fun _ => withArg_listed rfl fun _ => busy _
  case breakerOperateTrip c =>
    exact withArg_listed ((chanOfCode_isSome c).trans well) fun _ => withArg_listed rfl fun _ => busy _
  case breakerOperateStop c =>
    exact withArg_listed ((chanOfCode_isSome c).trans well) fun _ => withArg_listed rfl fun _ => busy _
  case sectionGet n => exact withArg_listed ((secOf_isSome n).trans well) fun _ => busy _
  case modeSetManual n => exact withArg_listed ((secOf_isSome n).trans well) fun _ => withArg_listed rfl fun _ => busy _
  case modeSetAuto n => exact withArg_listed ((secOf_isSome n).trans well) fun _ => withArg_listed rfl fun _ => busy _
  case resume n => exact withArg_listed ((secOf_isSome n).trans well) fun _ => busy _
  case planActivate p => exact withArg_listed ((pageOf_isSome p).trans well) fun _ => busy _
  case transferRequest n e =>
    obtain ⟨sec, entry⟩ := Bool.and_eq_true_iff.mp well
    exact withArg_listed ((secOf_isSome n).trans sec) fun _ =>
      withArg_listed ((entryOfCode_isSome e).trans entry) fun _ => busy _
  case genTest x v =>
    obtain ⟨src, bit⟩ := Bool.and_eq_true_iff.mp well
    exact withArg_listed ((srcOf_isSome x).trans src) fun _ => withArg_listed ((bitOf_isSome v).trans bit) fun _ => busy _
  all_goals exact absurd acts (by simp [Request.kind])

/-- Settles O56. -/
theorem requestsWaitOrAreRefused : Obligations.RequestsWaitOrAreRefused := by
  intro c tag r s h
  refine ⟨fun serving => ?discarded, fun calm free plan unloaded => ?held, fun calm free well acts early loaded => ?busy,
    fun ill ready => exec_done h ready (serve_unlisted h ill _) rfl⟩
  case discarded =>
    rw [exec_request h]
    unfold live takeRequest
    rw [if_pos serving]
    split <;> rfl
  case held =>
    rw [exec_request h, live_on _ calm.1]
    unfold takeRequest
    rw [if_neg (by simp [free]), if_pos (by simp [plan, unloaded])]
    rfl
  case busy =>
    rw [exec_request h, live_on _ calm.1]
    unfold takeRequest
    rw [if_neg (by simp [free]), if_neg (by rintro ⟨plan, unloaded⟩; simp [loaded plan] at unloaded)]
    unfold serveNow
    rw [serve_early (t := setService r.kind tag .deferred s) h well acts early]
    rfl

/-! ### The receiver (R179, R180) -/

section Receiver

variable {b : Byte} {l : List Byte}

theorem takeByte_sending (sending : s.spt.hmDe = true) (b : Byte) (high : Bool) : takeByte b high s = s := if_pos sending

variable (quiet : s.spt.hmDe = false)

include quiet

theorem takeByte_hunting (hunting : s.spt.rx = .hunting) (high : Bool) :
    takeByte b high s = if high = true ∧ b = 0xC3 then setRx (.receiving []) (some (s.now + 5)) s else s := by
  unfold takeByte
  rw [if_neg (by simp [quiet]), hunting]

theorem takeByte_low (at_ : s.spt.rx = .receiving l) : takeByte b false s = setRx .hunting none s := by
  unfold takeByte
  rw [if_neg (by simp [quiet]), at_]
  rfl

theorem takeByte_high (at_ : s.spt.rx = .receiving l) : takeByte b true s = frameByte (l ++ [b]) s := by
  unfold takeByte
  rw [if_neg (by simp [quiet]), at_]
  rfl

end Receiver

theorem frameByte_tooLong {l : List Byte} (long : lenTooLong l = true) : frameByte l s = setRx .hunting none s := if_pos long

theorem frameByte_more {l : List Byte} (short : lenTooLong l = false) (part : frameWhole l = false) :
    frameByte l s = setRx (.receiving l) (some (s.now + 5)) s := by
  unfold frameByte
  rw [if_neg (by simp [short]), if_neg (by simp [part])]

theorem frameByte_whole {l : List Byte} (short : lenTooLong l = false) (whole : frameWhole l = true) :
    frameByte l s = frameComplete l (setRx .hunting none s) := by
  unfold frameByte
  rw [if_neg (by simp [short]), if_pos whole]

/-- A frame that its CRC and KIND show to be good (R180). -/
def GoodFrame (len kind tag : Byte) (rest : List Byte) : Prop :=
  rest.drop len.toNat = be16 (crc16 (len :: kind :: tag :: rest.take len.toNat)).toNat ∧ kind.toNat < 0x80

section Complete

variable {len kind tag : Byte} {rest : List Byte}

theorem frameComplete_bad (bad : ¬GoodFrame len kind tag rest) : frameComplete (len :: kind :: tag :: rest) s = s := if_neg bad

theorem frameComplete_good (good : GoodFrame len kind tag rest) :
    frameComplete (len :: kind :: tag :: rest) s = takeFrame kind tag (rest.take len.toNat) s := if_pos good

/-- A good frame that spells no request is answered so (R182). -/
theorem takeFrame_error {payload : List Byte} {e : Status} (free : s.spt.service = none)
    (none : parseRequest kind payload = .error e) : takeFrame kind tag payload s = s.replied kind tag e .empty := by
  unfold takeFrame
  rw [if_neg (by simp [free]), none]
  rfl

theorem takeFrame_request (free : s.spt.service = none) (r : Request) :
    takeFrame r.kind tag r.payload s = takeRequest tag r s := by
  unfold takeFrame
  rw [if_neg (by simp [free]), payloadSpellsRequest r]

end Complete

/-! ### The sending of a reply (R179, R181) -/

theorem startReply_of {k : Byte} {r : Reply} (formed : s.spt.service = some ⟨k, tag, .formed r⟩) :
    startReply s = { s with spt := { s.spt with service := some ⟨k, tag, .sending r⟩, hmDe := true } } := by
  unfold startReply
  rw [formed]
  rfl

theorem endReply_of {k : Byte} {r : Reply} (sending : s.spt.service = some ⟨k, tag, .sending r⟩) :
    endReply s = { s with spt := { s.spt with service := none, hmDe := false, rx := .hunting, rxGap := none } } := by
  unfold endReply
  rw [sending]

theorem byteGapOver_of {d : Nat} (running : s.spt.rxGap = some d) : byteGapOver s = setRx .hunting none (reach d s) := by
  unfold byteGapOver
  rw [running]

/-- Settles O57. -/
theorem lineIsServed : Obligations.LineIsServed := by
  intro s b out put
  refine ⟨fun sending st => ?sending, fun quiet hunting => ⟨?low, ?sync⟩, fun l quiet at_ => ⟨?stop, fun long => ?long,
    fun short part => ?part, fun len kind tag rest e short whole => ?whole⟩, fun d running => ?gap,
    fun k tag r formed => ?start, fun k tag r sent => ?sent⟩
  case sending => rw [exec_act (f := takeByte b st) rfl out, takeByte_sending sending]
  case low =>
    rw [exec_act (f := takeByte b false) rfl out, takeByte_hunting quiet hunting]
    simp
  case sync =>
    rw [exec_act (f := takeByte b true) rfl out, takeByte_hunting quiet hunting]
    simp only [true_and]
    rfl
  case stop =>
    rw [exec_act (f := takeByte b false) rfl out, takeByte_low quiet at_]
    rfl
  case long =>
    rw [exec_act (f := takeByte b true) rfl out, takeByte_high quiet at_, frameByte_tooLong long]
    rfl
  case part =>
    rw [exec_act (f := takeByte b true) rfl out, takeByte_high quiet at_, frameByte_more short part]
    rfl
  case whole =>
    have taken : exec (.frameReceived b) s = .next (frameComplete (len :: kind :: tag :: rest) (setRx .hunting none s)) := by
      rw [exec_act (f := takeByte b true) rfl out, takeByte_high quiet at_, frameByte_whole short whole, e]
    intro payload good
    rw [taken]
    refine ⟨fun bad => ?_, fun e good free none => ?_, fun c q good free request kind_eq payload_eq => ?_⟩
    · rw [frameComplete_bad bad]
      rfl
    · rw [frameComplete_good good, takeFrame_error (s := setRx .hunting Option.none s) free none]
      rfl
    · rw [frameComplete_good good, exec_request request, live_on _ (s := put .hunting Option.none) out]
      subst kind_eq
      rw [show rest.take len.toNat = q.payload from payload_eq.symm, takeFrame_request (s := setRx .hunting Option.none s) free]
      rfl
  case gap =>
    rw [exec_act (f := byteGapOver) rfl out, byteGapOver_of running]
    rfl
  case start => rw [exec_act (f := startReply) rfl out, startReply_of formed]
  case sent => rw [exec_act (f := endReply) rfl out, endReply_of sent]

end Sys2Proof.Machine
end

section
/-! Reset and power-up (chapter 9): what RSTn makes inactive and what its release leaves, the end of the store load, and the
adoption of the board. -/

namespace Sys2Proof.Machine

variable {s t : State} {tag : Byte} {n : Sec}

/-! ### Reset (R175) -/

/-- With no store write in progress there is none to cut off. -/
theorem tornStore_idle (h : s.pst.writes = []) : tornStore s = s := by
  unfold tornStore
  rw [h]

/-- A channel right after the release of RSTn stands where its first samples say (R79). -/
theorem boot_chan (b : BitVec 2) (pins : FirstSamples) (st : Store) (k : Nat) (l : List Instr) (c : Chan) :
    (State.boot b pins st k l).bcu.get c = .start (pins.chans.get c) (defaultItems.chan c .closeTimeInit) := by
  cases c <;> rfl

/-- Settles O58. -/
theorem resetRestarts : Obligations.ResetRestarts := by
  refine ⟨fun s => ⟨_, rfl, fun out => ?asserted⟩, fun s baud pins low => ⟨_, rfl, ?released⟩⟩
  case asserted =>
    have down : (assertReset s).inReset = true := by rw [assertReset_on out]
    have service : (assertReset s).spt.service = none := by rw [assertReset_on out]
    refine ⟨down, fun c => ⟨?_, ?_⟩, fun f => ?_, fun x => ?_, fun k => ?_, ?_, ?_, ?_, ?_, service, ?_, ?_,
      fun k => ⟨?_, ?_, ?_⟩, fun idle => ?_⟩
    · simp [State.closeCoil, down]
    · simp [State.tripCoil, down]
    · simp [State.shedLine, down]
    · simp [State.runLine, down]
    · simp [State.anLine, down]
    · simp [State.alarmLine, down]
    · simp [State.attnLow, down]
    · simp [State.driverEnable, down]
    · simp [State.headReset, down]
    · rw [assertReset_on out]
    · simp [State.clockRuns, down]
    · simp [State.syncPulse, down]
    · simp [State.headOut, down]
    · unfold State.transmit
      rw [down]
    · rw [assertReset_on out, tornStore_idle idle]
  case released =>
    rw [show releaseReset baud pins s = State.boot baud pins s.pst.store s.freeCount s.pending from if_pos low]
    refine ⟨rfl, rfl, rfl, rfl, rfl, rfl, rfl, rfl, rfl, rfl, fun p => by cases p <;> rfl, rfl, rfl, rfl,
      fun n => by cases n <;> exact ⟨rfl, rfl, rfl⟩, rfl, rfl, fun a => by cases a <;> exact ⟨rfl, rfl⟩, rfl, rfl,
      fun p => by rcases p with x | x <;> cases x <;> rfl, fun n => by cases n <;> exact ⟨rfl, rfl, rfl, rfl, rfl, rfl⟩,
      fun c => ?_, rfl, rfl, rfl, rfl, fun x => by cases x <;> rfl, fun c => ?_, fun f => ⟨feedersFrom_get _ f, ?_⟩,
      rfl, rfl, rfl, rfl, rfl, rfl, rfl, rfl⟩
    · rw [boot_chan]
      exact ⟨rfl, rfl, rfl, rfl, rfl, rfl, rfl, rfl, rfl, rfl, rfl⟩
    · rw [boot_chan]
      rfl
    · exact linesOff_get f

/-! ### The store load (R22, R23, R37, R43, R144, R175) -/

/-- The learned close times of an item set (R75). -/
def tuned (b : ByChan ChanRec) (it : Items) : ByChan ChanRec :=
  ⟨{ b.bk1 with tc := it.chan .bk1 .closeTimeInit }, { b.bk2 with tc := it.chan .bk2 .closeTimeInit },
   { b.bk3 with tc := it.chan .bk3 .closeTimeInit }, { b.bk4 with tc := it.chan .bk4 .closeTimeInit },
   { b.bkt with tc := it.chan .bkt .closeTimeInit }⟩

theorem tuned_get (b : ByChan ChanRec) (it : Items) (c : Chan) :
    (tuned b it).get c = { b.get c with tc := it.chan c .closeTimeInit } := by
  cases c <;> rfl

theorem modChan_tc (c : Chan) (v : Nat) (s : State) : modChan c (fun r => { r with tc := v }) s =
    { s with bcu := s.bcu.set c { s.bcu.get c with tc := v } } := modChan_silent _ _ _ rfl

theorem takeInitial_eq (s : State) : takeInitial s = { s with
    squ := .start s.plan, bcu := tuned s.bcu s.plan
    lmg := { s.lmg with feeders := feedersFrom s.plan, shedStack := .all [], lines := linesOff } } := by
  unfold takeInitial allChans
  simp only [List.foldl, modChan_tc]
  rfl

/-- Unbinding a point that has never been bound reports nothing. -/
theorem unbind_unbound {p : Point} (h : s.hlc.points.get p = .unbound) (nd : Word) :
    unbind nd p s = modPoint p (fun _ => .unbound) s := by
  have was : s.pointValid p = false := by
    unfold State.pointValid
    rw [h]
    rfl
  unfold unbind reportInvalid
  rw [was]
  exact if_neg (by simp)

theorem foldl_unbind_agenda (l : List Point) (unbound : ∀ p, s.hlc.points.get p = .unbound) :
    (l.foldl (fun t p => unbind 0 p t) s).agenda = s.agenda := by
  refine (List.foldlRecOn (motive := fun t : State => (∀ p, t.hlc.points.get p = .unbound) ∧ t.agenda = s.agenda) l _
    ⟨unbound, rfl⟩ fun t ⟨all, same⟩ p _ => ?_).2
  rw [unbind_unbound (all p)]
  refine ⟨fun q => ?_, same⟩
  rw [modPoint_hlc]
  refine (ByPoint.get_set _ _ _ _).trans ?_
  split
  · rfl
  · exact all q

/-- A link start with no point bound makes no report. -/
theorem linkStart_agenda (unbound : ∀ p, s.hlc.points.get p = .unbound) : (linkStart s).agenda = s.agenda := by
  unfold linkStart
  exact foldl_unbind_agenda (s := modHlc _ s) allPoints unbound

/-- The state that the load leaves, before a held request is served. -/
def State.loadedFrom (s : State) : State :=
  let p := (loadStore s).plan
  { s with
    loaded := true, pst := (loadStore s).pst, squ := .start p, bcu := tuned s.bcu p
    lmg := { s.lmg with feeders := feedersFrom p, shedStack := .all [], lines := linesOff }
    hlc := { link := .starting, rstLow := true, rstEnd := some (s.now + 1), running := false, frameNo := 0,
             lastEnded := none, outTurn := .n0, slot := none, outFrame := ⟨0, 0, 0, 0⟩, words := .all ⟨0, false⟩,
             discovery := .idle, heads := .all .unread, points := .all .unbound } }

theorem linkStart_loadEnded (calm : s.Calm) (early : s.adopted = false) (unbound : ∀ p, s.hlc.points.get p = .unbound) :
    settle (linkStart (loadEnded s)) = s.loadedFrom := by
  have ended : loadEnded s = { s with
      loaded := true, pst := (loadStore s).pst, squ := .start (loadStore s).plan, bcu := tuned s.bcu (loadStore s).plan
      lmg := { s.lmg with feeders := feedersFrom (loadStore s).plan, shedStack := .all [], lines := linesOff } } := by
    unfold loadEnded
    rw [takeInitial_eq]
    rfl
  have loaded : linkStart (loadEnded s) = s.loadedFrom := by
    have head := linkStart_head (loadEnded s)
    have agenda := linkStart_agenda (s := loadEnded s) (by rw [ended]; exact unbound)
    unfold HeadOnly at head
    rw [linkStart_hlc, agenda] at head
    rw [head, ended]
    rfl
  rw [loaded, settle_none (s := s.loadedFrom) calm.2]
  unfold runAll
  exact if_neg (by show ¬s.adopted = true; simp [early])

/-- Settles O59. -/
theorem storeLoads : Obligations.StoreLoads := by
  intro s calm unloaded early unbound Loads
  have loads (u : State) (e : ∃ v, u = { s.loadedFrom with spt := { s.spt with service := v } }) : Loads u := by
    obtain ⟨v, rfl⟩ := e
    refine ⟨rfl, early, fun p => by cases p <;> rfl, rfl, rfl, rfl, rfl, rfl, rfl, rfl, rfl, fun x => by cases x <;> rfl,
      fun f => feedersFrom_get _ f, fun c => ?_⟩
    exact congrArg ChanRec.tc (tuned_get _ _ c)
  have ended (u : State) (calm : u.Calm) (unloaded : u.loaded = false) (early : u.adopted = false)
      (unbound : ∀ p, u.hlc.points.get p = .unbound) : exec .storeLoadEnd u = .next (serveHeld u.loadedFrom) := by
    rw [exec_act (f := endLoad) rfl calm.1]
    unfold endLoad
    rw [if_neg (by simp [unloaded]), linkStart_loadEnded calm early unbound]
  refine ⟨fun free => ⟨_, ended s calm unloaded early unbound, ?_⟩, fun c tag r request plan held =>
    ⟨_, ended { s with spt := { s.spt with service := none } } calm unloaded early unbound, ?_, ?_, ?_⟩⟩
  · have none : serveHeld s.loadedFrom = s.loadedFrom := by
      unfold serveHeld
      rw [show s.loadedFrom.spt.service = none from free]
    rw [none]
    exact loads _ ⟨s.spt.service, rfl⟩
  · exact loads _ ⟨none, rfl⟩
  · exact ⟨calm, rfl, rfl⟩
  · rw [ended s calm unloaded early unbound]
    refine (congrArg Host.Outcome.next ?_).trans (exec_ready
      (s := serveHeld ({ s with spt := { s.spt with service := none } } : State).loadedFrom) request ⟨calm, rfl, rfl⟩).symm
    unfold serveHeld
    rw [show s.loadedFrom.spt.service = some ⟨r.kind, tag, .held r⟩ from held]
    rfl

end Sys2Proof.Machine
end

section
/-! The adoption of the board at the end of the power-up link start (R7, R40, R123, R133, R176 to R178). -/

namespace Sys2Proof.Machine

variable {s t u : State} {tag : Byte} {n : Sec}

/-! ### The tie as the board gives it (R7, R133) -/

theorem ctx_modSeq (n m : Sec) (f : SecCtx → SecCtx) (s : State) :
    (modSeq n f s).ctx m = if n = m then f (s.ctx n) else s.ctx m := BySec.get_set _ _ _ _

theorem setOwner_ctx (o : Option Sec) (s : State) (n : Sec) : (setOwner o s).ctx n = s.ctx n := by
  unfold setOwner
  split <;> rfl

theorem setOwner_agenda (o : Option Sec) (s : State) :
    (setOwner o s).agenda = s.agenda ∨ (setOwner o s).agenda = s.agenda ++ [.tieOwner] := by
  unfold setOwner
  split
  · exact .inl rfl
  · exact .inr rfl

theorem setRoles_ctx (r1 r2 : Role) (s : State) (n : Sec) :
    (setRoles r1 r2 s).ctx n = { s.ctx n with role := match n with | .sec1 => r1 | .sec2 => r2 } := by
  cases n <;> rfl

theorem tieFromBoard_open (opened : s.closed .bkt = false) :
    tieFromBoard s = setOwner none (setRoles .sole .sole s) := by
  unfold tieFromBoard
  rw [if_neg (by simp [opened])]

theorem tieFromBoard_one {x : Src} (closed : s.closed .bkt = true) (path : s.closedPaths allSecs = [x]) :
    ∃ r1 r2, tieFromBoard s = setOwner (some (srcSec x).other) (setRoles r1 r2 s) ∧
      ((setRoles r1 r2 s).ctx (srcSec x)).role = .supplying ∧ ((setRoles r1 r2 s).ctx (srcSec x).other).role = .dependent := by
  unfold tieFromBoard
  rw [if_pos closed, path]
  dsimp only
  cases srcSec x with
  | sec1 => exact ⟨_, _, rfl, rfl, rfl⟩
  | sec2 => exact ⟨_, _, rfl, rfl, rfl⟩

theorem tieFromBoard_kept (closed : s.closed .bkt = true) (none : (s.closedPaths allSecs).length ≠ 1) : tieFromBoard s = s := by
  unfold tieFromBoard
  rw [if_pos closed]
  split
  · rename_i e
    rw [e] at none
    exact absurd rfl none
  · rfl

/-- The three ways in which the tie follows the board. -/
theorem tieFromBoard_cases (s : State) :
    tieFromBoard s = s ∨ ∃ o r1 r2, tieFromBoard s = setOwner o (setRoles r1 r2 s) := by
  cases closed : s.closed .bkt with
  | false => exact .inr ⟨_, _, _, tieFromBoard_open closed⟩
  | true =>
    by_cases one : (s.closedPaths allSecs).length = 1
    · obtain ⟨x, path⟩ := List.length_eq_one_iff.mp one
      obtain ⟨r1, r2, e, -⟩ := tieFromBoard_one closed path
      exact .inr ⟨_, _, _, e⟩
    · exact .inl (tieFromBoard_kept closed one)

theorem tieFromBoard_ctx (s : State) (n : Sec) : ∃ r, (tieFromBoard s).ctx n = { s.ctx n with role := r } := by
  rcases tieFromBoard_cases s with e | ⟨o, r1, r2, e⟩
  · exact ⟨(s.ctx n).role, by rw [e]⟩
  · rw [e, setOwner_ctx, setRoles_ctx]
    exact ⟨_, rfl⟩

theorem tieFromBoard_agenda (s : State) :
    (tieFromBoard s).agenda = s.agenda ∨ (tieFromBoard s).agenda = s.agenda ++ [.tieOwner] := by
  rcases tieFromBoard_cases s with e | ⟨o, r1, r2, e⟩
  · exact .inl (by rw [e])
  · rw [e]
    exact setOwner_agenda _ _

/-- The roles and the owner that the board gives. -/
theorem tieFromBoard_roles (s : State) :
    (s.closed .bkt = false → (tieFromBoard s).owner = none ∧ ∀ n, ((tieFromBoard s).ctx n).role = .sole) ∧
    (∀ x, s.closed .bkt = true → s.closedPaths allSecs = [x] → ((tieFromBoard s).ctx (srcSec x)).role = .supplying ∧
      ((tieFromBoard s).ctx (srcSec x).other).role = .dependent ∧ (tieFromBoard s).owner = some (srcSec x).other) := by
  refine ⟨fun opened => ?_, fun x closed path => ?_⟩
  · rw [tieFromBoard_open opened]
    refine ⟨setOwner_owner _ _, fun n => ?_⟩
    rw [setOwner_ctx]
    cases n <;> rfl
  · obtain ⟨r1, r2, e, supplying, dependent⟩ := tieFromBoard_one closed path
    rw [e, setOwner_ctx, setOwner_ctx]
    exact ⟨supplying, dependent, setOwner_owner _ _⟩

/-! ### The sections as the board gives them (R123, R176) -/

/-- A section's context as adoption sets it. -/
def State.adoptedCtx (s : State) (n : Sec) : SecCtx := (adoptSection n s).ctx n

section Adopted

theorem adoptedCtx_dead (h : s.paths n = []) : s.adoptedCtx n = { s.ctx n with state := .waitSource, feed := none } := by
  unfold State.adoptedCtx adoptSection
  rw [ctx_modSeq, if_pos rfl, h]

theorem adoptedCtx_fed {x : Src} (h : s.paths n = [x]) :
    s.adoptedCtx n = { s.ctx n with state := .fed, feed := some (pathEntry n x) } := by
  unfold State.adoptedCtx adoptSection
  rw [ctx_modSeq, if_pos rfl, h]

theorem adoptedCtx_parallel (h : 2 ≤ (s.paths n).length) : s.adoptedCtx n =
    { s.ctx n with state := .halted, feed := none, haltCause := .parallelFound, haltChan := s.highestClosed n } := by
  unfold State.adoptedCtx adoptSection
  rw [ctx_modSeq, if_pos rfl]
  split
  · rename_i e
    rw [e] at h
    exact absurd h (by decide)
  · rename_i e
    rw [e] at h
    exact absurd h (by decide : ¬2 ≤ 1)
  · rfl

/-- An adopted section is at rest in one of three states. -/
theorem adoptedCtx_state (s : State) (n : Sec) : (s.adoptedCtx n).state = .waitSource ∨ (s.adoptedCtx n).state = .fed ∨
    (s.adoptedCtx n).state = .halted := by
  cases e : s.paths n with
  | nil => exact .inl (by rw [adoptedCtx_dead e])
  | cons x l =>
    cases l with
    | nil => exact .inr (.inl (by rw [adoptedCtx_fed e]))
    | cons y l => exact .inr (.inr (by rw [adoptedCtx_parallel (by rw [e]; simp)]))

theorem adoptSections_ctx (s : State) (n : Sec) : (adoptSection .sec2 (adoptSection .sec1 s)).ctx n = s.adoptedCtx n := by
  cases n <;> rfl

end Adopted

/-- The board as it stands when POWER_UP is posted. -/
structure AdoptedAs (s b : State) : Prop where
  frame  : ∃ q o l m a, b = { s with adopted := true, seqs := q, owner := o, lmg := l, mdc := m, agenda := a }
  ctx    : ∀ n, ∃ r, b.ctx n = { s.adoptedCtx n with role := r }
  tie    : (s.closed .bkt = false → b.owner = none ∧ ∀ n, (b.ctx n).role = .sole) ∧
    ∀ x, s.closed .bkt = true → s.closedPaths allSecs = [x] → (b.ctx (srcSec x)).role = .supplying ∧
      (b.ctx (srcSec x).other).role = .dependent ∧ b.owner = some (srcSec x).other
  modes  : ∀ n, b.mode n = s.startMode n
  settle : ∀ n, b.mdc.settle.get n = s.settleStart n
  block  : b.blocked = s.blocked
  alarm  : ∀ n, (s.adoptedCtx n).state = .halted → b.mdc.alarm = some (s.now + s.plan.glob .alarmTime * 1000)
  agenda : b.agenda = s.agenda ∨ b.agenda = s.agenda ++ [.tieOwner]

/-- The adoption up to POWER_UP. -/
def adoptBoard (s : State) : State :=
  let t := adoptModes (adoptSection .sec2 (adoptSection .sec1 s))
  let t := runAll (driveAllLines (formIslands (tieFromBoard { t with adopted := true })))
  if t.troubled then triggerAlarm t else t

theorem adopt_eq (s : State) : adopt s = superviseAll (post (adoptBoard s).powerUpNote (adoptBoard s)) := by
  unfold adopt adoptBoard
  dsimp only
  split <;> rfl

/-- Driving the lines changes them alone. -/
theorem driveAllLines_frame (s : State) : ∃ l, driveAllLines s = { s with lmg := { s.lmg with lines := l } } :=
  List.foldlRecOn (motive := fun t : State => ∃ l, t = { s with lmg := { s.lmg with lines := l } }) allFeeders _ ⟨s.lmg.lines, rfl⟩
    fun t ⟨l, e⟩ f _ => by
      subst e
      unfold driveLine
      split
      · exact ⟨l, rfl⟩
      · exact ⟨_, rfl⟩

/-- The sections, modes and settle timers of the adopted board, before the tie follows it. -/
def State.sectioned (s : State) : State := { adoptModes (adoptSection .sec2 (adoptSection .sec1 s)) with adopted := true }

theorem sectioned_ctx (s : State) (n : Sec) : s.sectioned.ctx n = s.adoptedCtx n := adoptSections_ctx s n

theorem adoptSection_frame (n : Sec) (s : State) : ∃ q, adoptSection n s = { s with seqs := q } := ⟨_, rfl⟩

theorem adoptModes_frame (s : State) : ∃ m, adoptModes s = { s with mdc := m } := ⟨_, rfl⟩

theorem sectioned_frame (s : State) : ∃ q m, s.sectioned = { s with adopted := true, seqs := q, mdc := m } := by
  unfold State.sectioned
  obtain ⟨q1, e1⟩ := adoptSection_frame .sec1 s
  rw [e1]
  obtain ⟨q2, e2⟩ := adoptSection_frame .sec2 { s with seqs := q1 }
  rw [e2]
  obtain ⟨m, e3⟩ := adoptModes_frame { s with seqs := q2 }
  rw [e3]
  exact ⟨q2, m, rfl⟩

theorem adoptSections_plan (s : State) : (adoptSection .sec2 (adoptSection .sec1 s)).plan = s.plan := rfl

theorem sectioned_mode (s : State) (n : Sec) : s.sectioned.mode n = s.startMode n := by
  have same : (adoptSection .sec2 (adoptSection .sec1 s)).startMode n = s.startMode n := by
    unfold State.startMode
    rw [adoptSections_plan]
    rfl
  rw [← same]
  cases n <;> rfl

theorem sectioned_settle (s : State) (n : Sec) : s.sectioned.mdc.settle.get n = s.settleStart n := by
  have same : (adoptSection .sec2 (adoptSection .sec1 s)).settleStart n = s.settleStart n := by
    unfold State.settleStart
    rw [adoptSections_plan]
    rfl
  rw [← same]
  cases n <;> rfl

theorem sectioned_blocked (s : State) : s.sectioned.blocked = s.blocked := by
  unfold State.blocked
  rfl

theorem sectioned_bcu (s : State) : s.sectioned.bcu = s.bcu := rfl

theorem closed_of_bcu (h : t.bcu = s.bcu) (c : Chan) : t.closed c = s.closed c := by
  unfold State.closed
  rw [h]

theorem closedPaths_of_bcu (h : t.bcu = s.bcu) (l : List Sec) : t.closedPaths l = s.closedPaths l := by
  unfold State.closedPaths State.closed
  rw [h]

/-- What follows the tie moves the load manager's records, the run records and the alarm. -/
theorem adoptBoard_frame (s : State) : ∃ l r al, adoptBoard s = { tieFromBoard s.sectioned with
      lmg := l, mdc := { s.sectioned.mdc with runs := r, alarm := al } } ∧
    ((∃ n, ((tieFromBoard s.sectioned).ctx n).state = .halted) → al = some (s.now + s.plan.glob .alarmTime * 1000)) := by
  obtain ⟨lines, driven⟩ := driveAllLines_frame (formIslands (tieFromBoard s.sectioned))
  have mdc := (tieFromBoard_tieOnly s.sectioned).mdc_eq
  have pst := (tieFromBoard_tieOnly s.sectioned).pst_eq
  have now := (tieFromBoard_tieOnly s.sectioned).eq
  have formed : ∃ l r, runAll (driveAllLines (formIslands (tieFromBoard s.sectioned))) =
      { tieFromBoard s.sectioned with lmg := l, mdc := { s.sectioned.mdc with runs := r } } := by
    rw [runAll_eq, driven, ← mdc]
    exact ⟨_, _, rfl⟩
  obtain ⟨l, r, formed⟩ := formed
  have board : adoptBoard s = if (runAll (driveAllLines (formIslands (tieFromBoard s.sectioned)))).troubled then
      triggerAlarm (runAll (driveAllLines (formIslands (tieFromBoard s.sectioned))))
      else runAll (driveAllLines (formIslands (tieFromBoard s.sectioned))) := rfl
  rw [board, formed]
  split
  · refine ⟨l, r, _, rfl, fun _ => ?_⟩
    have plan : (tieFromBoard s.sectioned).plan = s.plan := by
      unfold State.plan
      rw [pst]
      rfl
    have tick : (tieFromBoard s.sectioned).now = s.now := (congrArg State.now now :)
    show some ((tieFromBoard s.sectioned).now + (tieFromBoard s.sectioned).plan.glob .alarmTime * 1000) = _
    rw [plan, tick]
  · rename_i calm
    refine ⟨l, r, _, rfl, fun ⟨n, halted⟩ => absurd ?_ calm⟩
    unfold State.troubled
    rw [Bool.or_eq_true, List.any_eq_true]
    exact .inl ⟨n, by cases n <;> decide, by rw [beq_iff_eq]; exact halted⟩

theorem adoptBoard_adopts (s : State) : AdoptedAs s (adoptBoard s) := by
  obtain ⟨l, r, al, board, alarm⟩ := adoptBoard_frame s
  obtain ⟨o, q, ag, tied⟩ : ∃ o q ag, tieFromBoard s.sectioned = { s.sectioned with owner := o, seqs := q, agenda := ag } :=
    ⟨_, _, _, tieFromBoard_tieOnly s.sectioned⟩
  have ctx := tieFromBoard_ctx s.sectioned
  have roles := tieFromBoard_roles s.sectioned
  simp only [closed_of_bcu (sectioned_bcu s), closedPaths_of_bcu (sectioned_bcu s)] at roles
  have agenda := tieFromBoard_agenda s.sectioned
  rw [tied] at board ctx roles agenda alarm
  have frame := sectioned_frame s
  have mode := sectioned_mode s
  have settle := sectioned_settle s
  have block := sectioned_blocked s
  obtain ⟨q0, m0, frame⟩ := frame
  rw [frame] at agenda mode settle block
  rw [frame] at board
  rw [board]
  refine ⟨⟨_, _, _, _, _, rfl⟩, fun n => ?_, roles, mode, settle, block, fun n halted => alarm ⟨n, ?_⟩, agenda⟩
  · obtain ⟨role, e⟩ := ctx n
    rw [sectioned_ctx] at e
    exact ⟨role, e⟩
  · obtain ⟨role, e⟩ := ctx n
    rw [e, sectioned_ctx]
    exact halted

/-! ### The end of the adoption's event -/

/-- The owner's report is nothing to sections at rest: FED, WAIT_SOURCE and HALTED test nothing at it. -/
theorem handle_tieOwner_rest (rest : ∀ n, (s.ctx n).state = .waitSource ∨ (s.ctx n).state = .fed ∨ (s.ctx n).state = .halted) :
    handle .tieOwner s = s := by
  have one (n : Sec) : reconsider n false s = s := by
    unfold reconsider
    split
    · rcases rest n with e | e | e <;> rw [e] <;> rfl
    · rfl
  show reconsider .sec2 false (reconsider .sec1 false s) = s
  rw [one, one]

theorem settle_rest (rest : ∀ n, (s.ctx n).state = .waitSource ∨ (s.ctx n).state = .fed ∨ (s.ctx n).state = .halted)
    (few : s.agenda = [] ∨ s.agenda = [.tieOwner]) : ∃ r, settle s = { s with agenda := [], mdc := { s.mdc with runs := r } } := by
  have formed := runAll_eq s
  rcases few with none | one
  · rw [settle_none none, formed]
    exact ⟨_, by rw [← none]⟩
  · unfold settle
    rw [drain_cons 4095 (r := .tieOwner) (rest := []) (by rw [runAll_agenda, one]), formed]
    rw [handle_tieOwner_rest (s := { s with mdc := { s.mdc with runs := (runAll s).mdc.runs }, agenda := [] }) rest]
    rw [drain_none _ (by rw [runAll_agenda]), runAll_eq]
    exact ⟨_, rfl⟩

/-- What reports and supervision post comes after the notices that are in the queue. -/
theorem Moves.queue_prefix (h : Moves s t) : s.spt.queue <+: t.spt.queue := by
  have same {u v : State} (k : s.spt.queue <+: u.spt.queue) (e : v.spt = u.spt) : s.spt.queue <+: v.spt.queue := by rwa [e]
  induction h with
  | refl => exact List.prefix_rfl
  | other _ e ih => exact same ih (congrArg Guarded.spt e :)
  | noted _ n ih =>
    refine ih.trans ?_
    unfold post
    split
    · exact List.prefix_append _ _
    · exact List.prefix_rfl
  | close _ c q _ ih => exact same ih (by simp [startClose])
  | claim _ n _ _ _ ih => exact same ih (by simp [startClose])
  | release _ ih => exact same ih (by simp [releaseTie])
  | trip _ c q _ ih => exact same ih (startTrip_spt _ _ _)
  | stop _ c ih => exact same ih (by simp [stopPulse])
  | learned _ c v ih => exact same ih (by simp)
  | shed _ f _ ih => exact same ih (by simp [markShed])
  | back _ f _ ih => exact same ih (by simp [markBack])
  | pop _ n f _ ih => exact same ih (by simp [markBack])
  | demand _ f v ih => exact ih
  | drive _ f ih => exact same ih (by simp)
  | drop _ _ ih => exact ih
  | activate _ p _ ih => exact ih

/-! ### The end of the power-up link start -/

/-- The notice of a link start whose map does not agree (R40). -/
def State.mismatchNotes (u : State) : List Note :=
  if u.mapAgrees then []
  else [.mapMismatch u.differing u.hlc.duplicate u.hlc.lineConflict u.hlc.unrecognised]

/-- What the end of the power-up link start leaves. -/
structure AdoptionEnded (s u t : State) : Prop where
  adopted : t.adopted = true
  link    : t.hlc.link = if u.mapAgrees then .bound else .unbound
  ctx     : ∀ n, ∃ r, t.ctx n = { s.adoptedCtx n with role := r }
  tie     : (s.closed .bkt = false → t.owner = none ∧ ∀ n, (t.ctx n).role = .sole) ∧
    ∀ x, s.closed .bkt = true → s.closedPaths allSecs = [x] → (t.ctx (srcSec x)).role = .supplying ∧
      (t.ctx (srcSec x).other).role = .dependent ∧ t.owner = some (srcSec x).other
  modes   : ∀ n, t.mode n = s.startMode n
  settle  : ∀ n, t.mdc.settle.get n = s.settleStart n
  alarm   : ∀ n, (s.adoptedCtx n).state = .halted → t.mdc.alarm = some (s.now + s.plan.glob .alarmTime * 1000)
  bcu     : t.bcu = s.bcu
  queue   : s.spt.queue = [] → ∃ rest, t.spt.queue.map (·.note) = u.mismatchNotes ++
    .powerUp t.hlc.link s.pst.active (t.ctx .sec1).state (t.ctx .sec1).feed (t.ctx .sec2).state (t.ctx .sec2).feed
      s.lockedSet s.blocked :: rest

/-- The binding decided at power-up moves the head link and the port alone. -/
theorem binding_decided {e : HeadEntry} : ∃ h p, formReply 0x62 (decideBinding (s.discovered e)).restartAnswer
      (decideBinding (s.discovered e)) = { s with hlc := h, spt := p } ∧
    h.link = (if (s.discovered e).mapAgrees then .bound else .unbound) ∧
    (s.spt.queue = [] → p.queue.map (·.note) = (s.discovered e).mismatchNotes ∧ p.queue.length ≤ 1) := by
  obtain ⟨v, reply⟩ := formReply_service 0x62 (decideBinding (s.discovered e)).restartAnswer (decideBinding (s.discovered e))
  rw [reply]
  unfold State.mismatchNotes
  cases agrees : (s.discovered e).mapAgrees with
  | true =>
    rw [decideBinding_agrees agrees]
    exact ⟨_, _, rfl, rfl, fun none => ⟨congrArg (List.map _) none, by show s.spt.queue.length ≤ 1; rw [none]; decide⟩⟩
  | false =>
    rw [decideBinding_differs agrees]
    refine ⟨_, _, rfl, rfl, fun none => ?_⟩
    have posted : (post (.mapMismatch (s.discovered e).differing (s.discovered e).hlc.duplicate
        (s.discovered e).hlc.lineConflict (s.discovered e).hlc.unrecognised) (s.discovered e)).spt.queue.map (·.note) =
        [.mapMismatch (s.discovered e).differing (s.discovered e).hlc.duplicate
        (s.discovered e).hlc.lineConflict (s.discovered e).hlc.unrecognised] := by
      unfold post
      rw [if_pos (by show s.spt.queue.length < 32; rw [none]; decide)]
      show (s.spt.queue ++ _).map _ = _
      rw [none]
      rfl
    refine ⟨posted, ?_⟩
    have := congrArg List.length posted
    rw [List.length_map] at this
    exact this.le

/-- What adoption gives a section is told by the board, the item set and the section's record. -/
theorem adoptedCtx_port (s : State) (h : HlcState) (p : SptState) (n : Sec) :
    State.adoptedCtx { s with hlc := h, spt := p } n = s.adoptedCtx n := rfl

/-- POWER_UP is the next notice after those of the link start. -/
theorem powerUp_queue {b : State} {l : List Note} (notes : b.spt.queue.map (·.note) = l) (few : b.spt.queue.length ≤ 1) :
    ∃ rest, (superviseAll (post b.powerUpNote b)).spt.queue.map (·.note) = l ++ b.powerUpNote :: rest := by
  obtain ⟨later, e⟩ := (superviseAll_moves (.refl (s := post b.powerUpNote b))).queue_prefix
  have posted : (post b.powerUpNote b).spt.queue.map (·.note) = l ++ [b.powerUpNote] := by
    unfold post
    rw [if_pos (by omega)]
    show (b.spt.queue ++ _).map _ = _
    rw [List.map_append, notes]
    rfl
  exact ⟨later.map (·.note), by rw [← e, List.map_append, posted, List.append_assoc]; rfl⟩

/-- The adoption's event is over: the notices, reports and run requests after POWER_UP leave the board as adopted. -/
theorem adopt_ended {v : State} (calm : v.agenda = []) : ∃ b w r, AdoptedAs v b ∧ LoadOnly b w ∧
    w = superviseAll (post b.powerUpNote b) ∧
    settle (adopt v) = { w with agenda := [], mdc := { w.mdc with runs := r } } := by
  have as := adoptBoard_adopts v
  rw [adopt_eq]
  generalize adoptBoard v = b at as
  have load : LoadOnly b (superviseAll (post b.powerUpNote b)) := (LoadOnly.post _ (.refl b)).trans (superviseAll_load _)
  obtain ⟨w, hw⟩ : ∃ w, w = superviseAll (post b.powerUpNote b) := ⟨_, rfl⟩
  rw [← hw] at load ⊢
  have rest (n : Sec) : (w.ctx n).state = .waitSource ∨ (w.ctx n).state = .fed ∨ (w.ctx n).state = .halted := by
    obtain ⟨r, e⟩ := as.ctx n
    unfold State.ctx at e ⊢
    rw [load.seqs_eq, e]
    exact adoptedCtx_state v n
  have few : w.agenda = [] ∨ w.agenda = [.tieOwner] := by
    rw [show w.agenda = b.agenda from (congrArg State.agenda load :)]
    rcases as.agenda with e | e <;> rw [e, calm]
    · exact .inl rfl
    · exact .inr rfl
  obtain ⟨r, e⟩ := settle_rest rest few
  exact ⟨b, w, r, as, load, hw, e⟩

theorem linkStartEnd_adopts {e : HeadEntry} (early : s.adopted = false) (calm : s.agenda = []) :
    AdoptionEnded s (s.discovered e) (settle (linkStartEnd (s.discovered e))) := by
  obtain ⟨h, p, decided, link, queue⟩ := binding_decided (s := s) (e := e)
  have ended : linkStartEnd (s.discovered e) = adopt { s with hlc := h, spt := p } := by
    unfold linkStartEnd
    dsimp only
    rw [decided]
    exact if_neg (by show ¬s.adopted = true; simp [early])
  obtain ⟨b, w, r, as, load, hw, settled⟩ := adopt_ended (v := { s with hlc := h, spt := p }) calm
  obtain ⟨q, o, l, m, a, frame⟩ := as.frame
  rw [ended, settled]
  have seqs : w.seqs = b.seqs := load.seqs_eq
  have owner : w.owner = b.owner := (congrArg State.owner load :)
  have hlc : w.hlc = h := load.hlc_eq.trans (congrArg State.hlc frame :)
  refine ⟨?adopted, ?link, fun n => ?ctx, ?tie, fun n => ?modes, fun n => ?settle, fun n halted => ?alarm, ?bcu, fun none => ?queue⟩
  case adopted => exact (congrArg State.adopted load :).trans (congrArg State.adopted frame :)
  case link => exact (congrArg HlcState.link hlc).trans link
  case ctx =>
    obtain ⟨r, e⟩ := as.ctx n
    rw [adoptedCtx_port] at e
    exact ⟨r, (congrArg (BySec.get · n) seqs).trans e⟩
  case tie =>
    have tie := as.tie
    unfold State.ctx at tie ⊢
    rw [← seqs, ← owner] at tie
    exact tie
  case modes =>
    have := as.modes n
    unfold State.mode at this ⊢
    rw [← load.mdc_eq] at this
    exact this
  case settle =>
    have := as.settle n
    rw [← load.mdc_eq] at this
    exact this
  case alarm =>
    have := as.alarm n halted
    rw [← load.mdc_eq] at this
    exact this
  case bcu => exact load.bcu_eq.trans (congrArg State.bcu frame :)
  case queue =>
    have spt : b.spt = p := (congrArg State.spt frame :)
    obtain ⟨notes, few⟩ := queue none
    obtain ⟨rest, posted⟩ := powerUp_queue (b := b) (l := (s.discovered e).mismatchNotes) (by rw [spt]; exact notes)
      (by rw [spt]; exact few)
    refine ⟨rest, ?_⟩
    rw [← hw] at posted
    have note : b.powerUpNote = .powerUp w.hlc.link s.pst.active (w.ctx .sec1).state (w.ctx .sec1).feed (w.ctx .sec2).state
        (w.ctx .sec2).feed s.lockedSet s.blocked := by
      have pst : b.pst = s.pst := (congrArg State.pst frame :)
      have bcu : b.bcu = s.bcu := (congrArg State.bcu frame :)
      have block : b.blocked = s.blocked := as.block
      unfold State.powerUpNote State.lockedSet State.ctx
      rw [seqs, load.hlc_eq, pst, bcu, block]
    rw [note] at posted
    exact posted

/-- The next frame is no part of the adoption. -/
theorem AdoptionEnded.next (h : AdoptionEnded s u t) (n : Word) (turn : Six) : AdoptionEnded s u (beginFrame n turn t) :=
  ⟨h.adopted, h.link, h.ctx, h.tie, h.modes, h.settle, h.alarm, h.bcu, h.queue⟩

/-- The number of the frame that ended last is no part of the adoption. -/
theorem AdoptionEnded.before_frame {e : HeadEntry} {last : Option Word}
    (h : AdoptionEnded (modHlc (fun h => { h with lastEnded := last }) s)
      ((modHlc (fun h => { h with lastEnded := last }) s).discovered e) t) : AdoptionEnded s (s.discovered e) t := by
  have ctx (n : Sec) : (modHlc (fun h => { h with lastEnded := last }) s).adoptedCtx n = s.adoptedCtx n :=
    adoptedCtx_port s _ s.spt n
  refine ⟨h.adopted, h.link, fun n => ?ctx, h.tie, h.modes, h.settle, fun n halted => ?alarm, h.bcu, h.queue⟩
  case ctx =>
    have told := h.ctx n
    rw [ctx] at told
    exact told
  case alarm => exact h.alarm n (by rw [ctx]; exact halted)

/-- Settles O60. -/
theorem adoptionFollowsTheBoard : Obligations.AdoptionFollowsTheBoard := by
  intro s n calm early reading Adopted
  have adopts {e : HeadEntry} {t : State} (h : AdoptionEnded s (s.discovered e) t) : Adopted e t := by
    obtain ⟨r, ctx⟩ := h.ctx n
    refine ⟨h.adopted, h.link, fun dead => ?dead, fun x one => ?one, fun two => ?two, fun _ => ?tie, fun o => (h.tie.1 o).1,
      fun none => ?none, fun some => ?some, h.settle n, h.bcu, h.queue⟩
    case dead =>
      rw [ctx, adoptedCtx_dead dead]
      exact ⟨rfl, rfl⟩
    case one =>
      rw [ctx, adoptedCtx_fed one]
      exact ⟨rfl, rfl⟩
    case two =>
      rw [ctx]
      have halted := adoptedCtx_parallel two
      rw [halted]
      exact ⟨rfl, rfl, rfl, rfl, h.alarm n (by rw [halted])⟩
    case tie =>
      rw [closed_of_bcu h.bcu, closedPaths_of_bcu h.bcu]
      exact ⟨fun o => (h.tie.1 o).2, h.tie.2⟩
    case none =>
      rw [h.modes]
      exact if_neg (by simp [none])
    case some =>
      rw [h.modes]
      unfold State.startMode
      have : s.pst.active.isSome = true := by
        cases e : s.pst.active with
        | none => exact absurd e some
        | some p => rfl
      simp [this]
  refine ⟨⟨_, exec_event rfl calm.1, ?silent⟩, fun lines last => ?frame⟩
  case silent =>
    rw [readSilent_of reading, readEnded_last]
    exact adopts (linkStartEnd_adopts early calm.2)
  case frame =>
    obtain ⟨running, unbound, sent, slot, age, last⟩ := last
    let t : State := modHlc (fun h => { h with lastEnded := some s.hlc.frameNo }) s
    obtain ⟨e, ended, heard⟩ := discoveryFrame_ends (s := t) reading (by show s.hlc.slot.bind _ = _; rw [slot]; rfl) age last
    have work : discoveryFrame lines s.hlc.frameNo (commandFrame lines s.hlc.frameNo
        (allPointFrames lines s.hlc.frameNo t)) = linkStartEnd (t.discovered e) := by
      rw [allPointFrames_unbound (s := t) lines _ unbound, commandFrame_discovery (s := t) slot rfl rfl, ended,
        readEnded_last]
    refine ⟨_, e, exec_act rfl calm.1, heard, ?_⟩
    rw [frameEnd_of running lines]
    show Adopted e (beginFrame _ _ (settle (discoveryFrame lines s.hlc.frameNo (commandFrame lines s.hlc.frameNo
        (allPointFrames lines s.hlc.frameNo t)))))
    rw [work]
    exact adopts ((linkStartEnd_adopts (s := t) early calm.2).before_frame.next _ _)

end Sys2Proof.Machine
end

section
/-! The block (R80, R160, R168 to R170), with both sections in MANUAL. -/

namespace Sys2Proof.Machine

variable {s t u : State} {tag : Byte} {n : Sec}

/-! ### What the entry and the release do to the pulses and the lines -/

/-- A stop leaves the channel's availability, so it makes no report. -/
theorem stopPulse_eq (c : Chan) (s : State) : stopPulse c s = { s with bcu := s.bcu.set c (s.bcu.get c).stop } :=
  modChan_silent c ChanRec.stop s rfl

/-- Every pulse stops, and nothing else moves (R80). -/
theorem stopAllPulses_frame (s : State) : ∃ b, stopAllPulses s = { s with bcu := b } :=
  List.foldlRecOn (motive := fun t : State => ∃ b, t = { s with bcu := b }) allChans _ ⟨s.bcu, rfl⟩ fun t ⟨b, e⟩ c _ => by
    subst e
    rw [stopPulse_eq]
    exact ⟨_, rfl⟩

/-- The load manager's part of the entry: its overload timers stop, and the lines go off where the page says so (R160). -/
theorem loadBlocked_frame (s : State) : ∃ i, loadBlocked s = { s with lmg := { s.lmg with
    islands := i, lines := if s.plan.glob .linesOnBlock = 1 then linesOff else s.lmg.lines } } := by
  obtain ⟨i, timers⟩ : IslandsOnly s (s.islandIds.foldl (fun t i => modIsland i (fun r => { r with overloadAt := none }) t) s) :=
    List.foldlRecOn (motive := IslandsOnly s) s.islandIds _ ⟨s.lmg.islands, rfl⟩ fun t h i _ =>
      h.trans (modIsland_islandsOnly i _ t)
  refine ⟨i, ?_⟩
  unfold loadBlocked
  rw [timers]
  have same : ({ s with lmg := { s.lmg with islands := i } } : State).plan = s.plan := rfl
  unfold linesOnBlock
  rw [same]
  split <;> rfl

/-- A sequencer in MANUAL takes no part in the block (R169, R170). -/
theorem seqBlocked_manual (m : s.mode n = .manual) : seqBlocked n s = s := by
  unfold seqBlocked State.auto
  rw [m]
  rfl

theorem seqReleased_manual (m : s.mode n = .manual) : seqReleased n s = s := by
  unfold seqReleased holdEnded State.auto
  rw [m]
  exact ite_self s

/-! ### A change of one cause of the block -/

/-- What a change of the causes of the block leaves, in MANUAL. -/
structure BlockMoved (s : State) (m : MdcState) (t : State) : Prop where
  mdc     : t.mdc = m
  seqs    : t.seqs = s.seqs
  hlc     : t.hlc = s.hlc
  pst     : t.pst = s.pst
  service : t.spt.service = s.spt.service
  agenda  : t.agenda = s.agenda
  entry   : s.blocked = false → t.blocked = true → (∀ c, t.bcu.get c = (s.bcu.get c).stop) ∧
    t.lmg.lines = if s.plan.glob .linesOnBlock = 1 then linesOff else s.lmg.lines
  release : s.blocked = true → t.blocked = false → t.bcu = s.bcu ∧ t.LinesFollow ∧ t.inReset = s.inReset
  same    : s.blocked = t.blocked → t.bcu = s.bcu ∧ t.lmg = s.lmg

theorem blockEntry_manual (manual : s.BothManual) : ∃ b i, blockEntry s = { s with bcu := b, lmg := { s.lmg with
    islands := i, lines := if s.plan.glob .linesOnBlock = 1 then linesOff else s.lmg.lines } } ∧
    ∀ c, b.get c = (s.bcu.get c).stop := by
  obtain ⟨b, stopped⟩ := stopAllPulses_frame s
  obtain ⟨i, off⟩ := loadBlocked_frame { s with bcu := b }
  refine ⟨b, i, ?_, fun c => ?_⟩
  · unfold blockEntry
    rw [stopped, seqBlocked_manual (s := { s with bcu := b }) (manual .sec1),
      seqBlocked_manual (s := { s with bcu := b }) (manual .sec2), off]
    rfl
  · have := stopAllPulses_get s c
    rw [stopped] at this
    exact this

theorem blockRelease_manual (manual : s.BothManual) : blockRelease s = superviseAll (driveAllLines s) := by
  obtain ⟨l, driven⟩ := driveAllLines_frame s
  unfold blockRelease
  rw [driven, seqReleased_manual (s := { s with lmg := { s.lmg with lines := l } }) (manual .sec1),
    seqReleased_manual (s := { s with lmg := { s.lmg with lines := l } }) (manual .sec2)]

theorem changeBlock_manual {f : MdcState → MdcState} (modes : (f s.mdc).modes = s.mdc.modes) (manual : s.BothManual) :
    BlockMoved s (f s.mdc) (changeBlock f s) := by
  obtain ⟨t, ht⟩ : ∃ t : State, t = { s with mdc := f s.mdc } := ⟨_, rfl⟩
  have manual' : t.BothManual := by
    intro n
    unfold State.mode
    rw [ht, modes]
    exact manual n
  unfold changeBlock
  rw [← ht]
  dsimp only
  cases was : s.blocked <;> cases is : t.blocked <;> dsimp only
  case false.true =>
    obtain ⟨b, i, e, stopped⟩ := blockEntry_manual manual'
    subst ht
    rw [e]
    exact ⟨rfl, rfl, rfl, rfl, rfl, rfl, fun _ _ => ⟨stopped, rfl⟩, fun h => (by simp [was] at h),
      fun h => absurd (was.symm.trans (h.trans is)) (by decide)⟩
  case true.false =>
    rw [blockRelease_manual manual']
    obtain ⟨l, driven⟩ := driveAllLines_frame t
    have load : LoadOnly t (superviseAll (driveAllLines t)) := by
      rw [driven]
      exact LoadOnly.trans (t := { t with lmg := { t.lmg with lines := l } }) rfl (superviseAll_load _)
    have follow : (superviseAll (driveAllLines t)).LinesFollow := (driveAllLines_follow t).moves (superviseAll_moves .refl)
    have block : (superviseAll (driveAllLines t)).blocked = false := load.blocked_eq.trans is
    have service : (superviseAll (driveAllLines t)).spt.service = t.spt.service :=
      (congrArg (fun u : State => u.spt.service) load :)
    subst ht
    exact ⟨load.mdc_eq, load.seqs_eq, load.hlc_eq, load.pst_eq, service, (congrArg State.agenda load :),
      fun h => (by simp [was] at h), fun _ _ => ⟨load.bcu_eq, follow, (congrArg State.inReset load :)⟩,
      fun h => absurd (was.symm.trans (h.trans block)) (by decide)⟩
  case false.false =>
    subst ht
    exact ⟨rfl, rfl, rfl, rfl, rfl, rfl, fun _ h => absurd (is.symm.trans h) (by decide),
      fun h => (by simp [was] at h), fun _ => ⟨rfl, rfl⟩⟩
  case true.true =>
    subst ht
    exact ⟨rfl, rfl, rfl, rfl, rfl, rfl, fun h => (by simp [was] at h),
      fun _ h => absurd (is.symm.trans h) (by decide), fun _ => ⟨rfl, rfl⟩⟩

/-- What the event leaves, the run requests formed again. -/
structure BlockAfter (s : State) (b : Bool) (t : State) : Prop where
  blocked : t.blocked = b
  entry   : s.blocked = false → b = true → (∀ c, t.bcu.get c = (s.bcu.get c).stop) ∧
    t.lmg.lines = if s.plan.glob .linesOnBlock = 1 then linesOff else s.lmg.lines
  release : s.blocked = true → b = false → t.bcu = s.bcu ∧ ∀ f, t.lmg.lines.get f = (t.feeder f).shed
  same    : s.blocked = b → t.bcu = s.bcu ∧ t.lmg = s.lmg
  seqs    : t.seqs = s.seqs
  modes   : t.mdc.modes = s.mdc.modes
  hlc     : t.hlc = s.hlc
  pst     : t.pst = s.pst

theorem BlockMoved.settled {m : MdcState} (h : BlockMoved s m t) (out : s.inReset = false) (calm : s.agenda = [])
    (modes : m.modes = s.mdc.modes) : ∃ v, settle t = { t with mdc := { t.mdc with runs := v } } ∧
      BlockAfter s (m.blk.accepted || m.hostBlock) (settle t) := by
  have e : settle t = { t with mdc := { t.mdc with runs := (runAll t).mdc.runs } } :=
    (settle_none (h.agenda.trans calm)).trans (runAll_eq t)
  have block : t.blocked = (m.blk.accepted || m.hostBlock) := by
    unfold State.blocked
    rw [h.mdc]
  refine ⟨_, e, ?_⟩
  rw [e]
  refine ⟨block, ?entry, ?release, ?same, h.seqs, ?modes, h.hlc, h.pst⟩
  case entry =>
    rw [← block]
    exact h.entry
  case release =>
    rw [← block]
    intro was is
    obtain ⟨bcu, follow, reset⟩ := h.release was is
    exact ⟨bcu, follow (reset.trans out) is⟩
  case same =>
    rw [← block]
    exact h.same
  case modes =>
    show t.mdc.modes = _
    rw [h.mdc, modes]

/-- Settles O41. -/
theorem blockActs : Obligations.BlockActs := by
  intro s tag v b calm manual After
  have after {x : Bool} {t : State} (h : BlockAfter s x t) : After x t :=
    ⟨h.blocked, h.entry, h.release, h.same, h.seqs, h.modes, h.hlc, h.pst⟩
  refine ⟨fun ready bit => ?request, ?line⟩
  case request =>
    have moved := changeBlock_manual (s := s.awaiting 0x32 tag) (f := fun m => { m with hostBlock := b }) rfl manual
    obtain ⟨r, settled, done⟩ := moved.settled calm.1 calm.2 rfl
    have mdc := moved.mdc
    have served : serve (.blockSet v) (s.awaiting 0x32 tag) =
        .after (changeBlock (fun m => { m with hostBlock := b }) (s.awaiting 0x32 tag))
          fun t => ⟨.ok, .block t.mdc.hostBlock t.mdc.blk.accepted t.blocked⟩ := by
      show serveBlock v _ = _
      unfold serveBlock
      rw [bit, withArg_some]
    refine ⟨_, exec_after (r := .blockSet v) rfl ready served, ?_⟩
    generalize changeBlock (fun m => { m with hostBlock := b }) (s.awaiting 0x32 tag) = w at *
    rw [settled] at done ⊢
    have block := done.blocked
    refine ⟨after ⟨done.blocked, done.entry, done.release, done.same, done.seqs, done.modes, done.hlc, done.pst⟩,
      ?_, ?_, ?_⟩
    · show w.mdc.hostBlock = b
      rw [mdc]
    · show w.mdc.blk = _
      rw [mdc]
      rfl
    · show some (⟨0x32, tag, .formed ⟨.ok, .block w.mdc.hostBlock w.mdc.blk.accepted _⟩⟩ : Service) = _
      rw [block, mdc]
      rfl
  case line =>
    have moved := changeBlock_manual (s := s) (f := fun m => { m with blk := m.blk.accept b }) rfl manual
    obtain ⟨r, settled, done⟩ := moved.settled calm.1 calm.2 rfl
    have mdc := moved.mdc
    refine ⟨_, exec_event rfl calm.1, ?_⟩
    rw [show blkAccept b s = changeBlock (fun m => { m with blk := m.blk.accept b }) s from rfl]
    generalize changeBlock (fun m => { m with blk := m.blk.accept b }) s = w at *
    refine ⟨after done, ?_, ?_⟩
    · rw [settled]
      show w.mdc.hostBlock = _
      rw [mdc]
    · rw [settled]
      show w.mdc.blk = _
      rw [mdc]
      rfl

end Sys2Proof.Machine
end

section
/-! A summary that arrives alone: the frame that brings it, and what the source qualifier makes of it (R27, R46 to R52,
R57). -/

namespace Sys2Proof.Machine

variable {s t u : State} {lines : BySix InLine} {m : Summary} {n : Word} {p q : Point} {x : Src}

/-! ### A frame with one point's event -/

theorem PointRec.aged_congr {r r' : PointRec} (fresh : r'.fresh = r.fresh) (last : r'.last = r.last) (n : Word) :
    r'.aged n = r.aged n := by
  unfold PointRec.aged
  rw [fresh, last]

/-- A change of a point's record that leaves its age, at the end of its frame. -/
theorem pointEnd_counted {f : PointRec → PointRec} (calm : s.agenda = []) (g : s.NoGenerator)
    (fresh : (f (s.hlc.points.get p)).fresh = (s.hlc.points.get p).fresh)
    (last : (f (s.hlc.points.get p)).last = (s.hlc.points.get p).last)
    (young : (s.hlc.points.get p).aged n = false) : pointEnd p n (modPoint p f s) = modPoint p f s := by
  have settled : settle (modPoint p f s) = modPoint p f s := 
    (settle_none (s := modPoint p f s) calm).trans (runAll_noGenerator (s := modPoint p f s) g)
  have record : (modPoint p f s).hlc.points.get p = f (s.hlc.points.get p) := ByPoint.get_set_self _ _ _
  unfold pointEnd
  dsimp only
  rw [settled, record, PointRec.aged_congr fresh last, young, if_neg Bool.false_ne_true]

/-- A point with a count alone, or none, has its own record moved and nothing else (R30). -/
theorem pointFrame_uneventful (calm : s.agenda = []) (g : s.NoGenerator) (quiet : s.eventful lines n p = false) :
    ∃ f, pointFrame lines n p s = modPoint p f s := by
  cases bound : (s.hlc.points.get p).bound with
  | none =>
    refine ⟨id, ?_⟩
    unfold pointFrame
    rw [bound]
    simp [modPoint]
  | some h =>
    unfold State.eventful at quiet
    dsimp only at quiet
    rw [bound] at quiet
    dsimp only at quiet
    obtain ⟨young, count⟩ := Bool.or_eq_false_iff.mp quiet
    rw [pointFrame_bound bound]
    cases good : (lines.get h.line).good h.addr with
    | true =>
      rw [good, if_pos rfl] at count
      obtain ⟨unsummed, present⟩ := Bool.or_eq_false_iff.mp count
      have same : goodFrame p h (lines.get h.line) s = modPoint p (fun r => { r with
          status := .present, loss := 0
          input := if (lines.get h.line).slotValid 8 then (lines.get h.line).s8.extractLsb' 0 16 else r.input }) s := by
        unfold goodFrame
        dsimp only
        rw [if_neg (by simpa using present)]
      have none : (lines.get h.line).summary n = none := Option.isSome_eq_false_iff.mp unsummed |> Option.isNone_iff_eq_none.mp
      rw [if_pos rfl, none]
      dsimp only
      rw [same, pointEnd_counted calm g rfl rfl young]
      exact ⟨_, rfl⟩
    | false =>
      rw [good, if_neg Bool.false_ne_true] at count
      have same : badFrame p s = modPoint p (fun r => { r with loss := min 32 (r.loss + 1) }) s := by
        unfold badFrame
        dsimp only
        rw [if_neg (by simpa using count)]
      rw [if_neg Bool.false_ne_true, same, pointEnd_counted calm g rfl rfl young]
      exact ⟨_, rfl⟩

/-- Points with counts alone leave every other point's record. -/
theorem foldl_uneventful (l : List Point) (once : l.Nodup) (s : State) (calm : s.agenda = []) (g : s.NoGenerator)
    (quiet : ∀ q ∈ l, s.eventful lines n q = false) :
    ∃ pts, l.foldl (fun t q => pointFrame lines n q t) s = { s with hlc := { s.hlc with points := pts } } ∧
      ∀ q, q ∉ l → pts.get q = s.hlc.points.get q := by
  induction l generalizing s with
  | nil => exact ⟨s.hlc.points, rfl, fun _ _ => rfl⟩
  | cons p l ih =>
    obtain ⟨out, once'⟩ := List.nodup_cons.mp once
    obtain ⟨f, first⟩ := pointFrame_uneventful (n := n) calm g (quiet p List.mem_cons_self)
    have others (q : Point) (ne : p ≠ q) : (modPoint p f s).hlc.points.get q = s.hlc.points.get q :=
      (ByPoint.get_set _ _ _ _).trans (if_neg ne)
    obtain ⟨pts, rest, kept⟩ := ih once' (modPoint p f s) calm g fun q mem => by
      have ne : p ≠ q := fun e => out (e ▸ mem)
      have : (modPoint p f s).eventful lines n q = s.eventful lines n q := by
        unfold State.eventful
        rw [others q ne]
      rw [this]
      exact quiet q (List.mem_cons_of_mem _ mem)
    refine ⟨pts, by rw [List.foldl_cons, first, rest]; rfl, fun q mem => ?_⟩
    rw [List.mem_cons, not_or] at mem
    rw [kept q mem.2, others q (Ne.symm mem.1)]

theorem filter_one {f : Point → Bool} (is : f p = true) (others : ∀ q, q ≠ p → f q = false) : allPoints.filter f = [p] := by
  have same : allPoints.filter f = allPoints.filter (· == p) := List.filter_congr fun q _ => by
    by_cases e : q = p
    · rw [e, is]
      simp
    · rw [others q e]
      simp [e]
  rw [same]
  rcases p with x | x <;> cases x <;> decide

/-- Where one point alone brings an event, its frame is taken last. -/
theorem allPointFrames_one (calm : s.agenda = []) (g : s.NoGenerator) (is : s.eventful lines n p = true)
    (others : ∀ q, q ≠ p → s.eventful lines n q = false) :
    ∃ pts, allPointFrames lines n s = pointFrame lines n p { s with hlc := { s.hlc with points := pts } } ∧
      pts.get p = s.hlc.points.get p := by
  obtain ⟨pts, first, kept⟩ := foldl_uneventful (lines := lines) (n := n) (allPoints.filter fun q => !([p] : List Point).contains q)
    (allPoints_nodup.filter _) s calm g fun q mem => others q fun e => by simp [e] at mem
  refine ⟨pts, ?_, kept p (by simp)⟩
  unfold allPointFrames
  rw [filter_one is others]
  dsimp only
  rw [first, if_neg (by simp)]
  rfl

/-- A frame's end outside discovery with no command in the slot, where one point alone brings an event. -/
theorem frameEnd_one (calm : s.agenda = []) (g : s.NoGenerator) (running : s.hlc.running = true)
    (idle : s.hlc.discovery = .idle) (free : s.hlc.slot = none)
    (is : s.eventful lines s.hlc.frameNo p = true) (others : ∀ q, q ≠ p → s.eventful lines s.hlc.frameNo q = false) :
    ∃ pts, pts.get p = s.hlc.points.get p ∧ frameEnd lines s = beginFrame (s.hlc.frameNo + 1) (sixNext s.hlc.outTurn)
      (settle (pointFrame lines s.hlc.frameNo p { s.ending with hlc := { s.ending.hlc with points := pts } })) := by
  obtain ⟨t, heard, e⟩ := frameEnd_idle running idle lines
  obtain ⟨pts, one, kept⟩ := allPointFrames_one (s := s.ending) (lines := lines) (n := s.hlc.frameNo) calm g is others
  refine ⟨pts, kept, ?_⟩
  have work := frameEnd_of running lines
  dsimp only at work
  have points : (allPointFrames lines s.hlc.frameNo s.ending).hlc =
      { s.ending.hlc with points := (allPointFrames lines s.hlc.frameNo s.ending).hlc.points } :=
    (allPointFrames_heard lines s.hlc.frameNo s.ending).hlc
  have command : commandFrame lines s.hlc.frameNo (allPointFrames lines s.hlc.frameNo s.ending) =
      allPointFrames lines s.hlc.frameNo s.ending := by
    refine commandFrame_waiting (fun c slot => ?_) lines _
    rw [points] at slot
    exact absurd (free.symm.trans slot) nofun
  have discovery : discoveryFrame lines s.hlc.frameNo (allPointFrames lines s.hlc.frameNo s.ending) =
      allPointFrames lines s.hlc.frameNo s.ending := by
    have : (allPointFrames lines s.hlc.frameNo s.ending).hlc.discovery = .idle := by
      rw [points]
      exact idle
    unfold discoveryFrame
    rw [this]
  have turn : (settle (allPointFrames lines s.hlc.frameNo s.ending)).hlc.outTurn = s.hlc.outTurn := by
    rw [(settle_moves .refl).hlc_eq, points]
    rfl
  rw [show modHlc (fun h => { h with lastEnded := some s.hlc.frameNo }) s = s.ending from rfl, command, discovery,
    turn, one] at work
  exact work

/-- A summary that arrives at this frame is not old. -/
theorem aged_arrived (r : PointRec) (m : Summary) :
    ({ r with last := some m, fresh := true } : PointRec).aged m.arrival = false := by
  unfold PointRec.aged frameAge
  simp

/-- A point's frame that brings a summary: the arrival is taken, and the record is not old (R27, R29). -/
theorem pointFrame_arrival {h : HeadPlace} (bound : (s.hlc.points.get p).bound = some h)
    (good : (lines.get h.line).good h.addr = true) (sum : (lines.get h.line).summary n = some m) :
    pointFrame lines n p s = settle (arrive p m (goodFrame p h (lines.get h.line) s)) := by
  have record := ((arrive_set (m := m) (goodFrame_set h (lines.get h.line) p s)).moves (settle_moves .refl)).get
  rw [pointFrame_bound bound, if_pos good, sum]
  unfold pointEnd
  dsimp only
  rw [record, ← summary_arrival sum, aged_arrived, if_neg Bool.false_ne_true]

theorem eventful_of_summary {h : HeadPlace} (bound : (s.hlc.points.get p).bound = some h)
    (good : (lines.get h.line).good h.addr = true) (sum : (lines.get h.line).summary n = some m) :
    s.eventful lines n p = true := by
  unfold State.eventful
  dsimp only
  rw [bound]
  dsimp only
  rw [if_pos good, sum]
  simp

theorem uneventful_of_unbound (bound : (s.hlc.points.get p).bound = none) : s.eventful lines n p = false := by
  unfold State.eventful
  dsimp only
  rw [bound]

/-! ### What the qualifier makes of a summary (R46 to R52, R57) -/

/-- A source's record in PICKUP or, with t_pick 0, HEALTHY (R44, R49). -/
def Items.picked (it : Items) (x : Src) (now : Nat) : QualRec :=
  if it.src x .tPick = 0 then ⟨.healthy, .none, none, now⟩
  else ⟨.pickup, .none, some (.pick, now + it.src x .tPick), now⟩

/-- A source's record in DROPOUT or, with no time to wait, DOWN (R51). -/
def droppedOut (down drop : Cause) (kind : QTimer) (wait now : Nat) : QualRec :=
  if wait = 0 then ⟨.down, down, none, now⟩ else ⟨.dropout, drop, some (kind, now + wait), now⟩

/-- A record in DROPOUT at a dead summary (R52). -/
def QualRec.died (q : QualRec) (fast left now : Nat) : QualRec :=
  if fast = 0 ∨ left = 0 then ⟨.down, .dead, none, now⟩
  else if fast < left then { q with cause := .dead, timer := some (.fast, now + fast) }
  else { q with cause := .dead }

/-- A source's record after a summary (R48 to R52). -/
def QualRec.judged (q : QualRec) (it : Items) (x : Src) (m : Summary) (now : Nat) : QualRec :=
  let pick := it.causeIn x (it.pickupBand x) m
  let drop := it.causeIn x (it.dropoutBand x) m
  match q.state with
  | .absent => q
  | .unknown => if pick = .none then it.picked x now else ⟨.down, pick, none, now⟩
  | .down => if pick = .none then it.picked x now else { q with cause := pick }
  | .pickup => if pick = .none then q else ⟨.down, pick, none, now⟩
  | .healthy =>
    if drop = .none then q
    else if it.deadSummary x m then droppedOut pick drop .fast (min (it.src x .tFast) (it.src x .tDrop)) now
    else droppedOut pick drop .drop (it.src x .tDrop) now
  | .dropout =>
    if drop = .none then ⟨.healthy, .none, none, now⟩
    else if it.deadSummary x m then q.died (it.src x .tFast) ((q.timer.map (·.2)).elim 0 (· - now)) now
    else { q with cause := drop }

section Judged

variable {r : QualRec} {it : Items} {now : Nat}

theorem QualRec.judged_absent (e : r.state = .absent) : r.judged it x m now = r := by
  unfold QualRec.judged
  rw [e]

theorem QualRec.judged_unknown (e : r.state = .unknown) : r.judged it x m now =
    if it.causeIn x (it.pickupBand x) m = .none then it.picked x now
    else ⟨.down, it.causeIn x (it.pickupBand x) m, none, now⟩ := by
  unfold QualRec.judged
  rw [e]

theorem QualRec.judged_down (e : r.state = .down) : r.judged it x m now =
    if it.causeIn x (it.pickupBand x) m = .none then it.picked x now
    else { r with cause := it.causeIn x (it.pickupBand x) m } := by
  unfold QualRec.judged
  dsimp only
  split <;> simp_all

theorem QualRec.judged_pickup (e : r.state = .pickup) : r.judged it x m now =
    if it.causeIn x (it.pickupBand x) m = .none then r else ⟨.down, it.causeIn x (it.pickupBand x) m, none, now⟩ := by
  unfold QualRec.judged
  rw [e]

theorem QualRec.judged_healthy (e : r.state = .healthy) : r.judged it x m now =
    if it.causeIn x (it.dropoutBand x) m = .none then r
    else droppedOut (it.causeIn x (it.pickupBand x) m) (it.causeIn x (it.dropoutBand x) m)
      (if it.deadSummary x m then .fast else .drop)
      (if it.deadSummary x m then min (it.src x .tFast) (it.src x .tDrop) else it.src x .tDrop) now := by
  unfold QualRec.judged
  rw [e]
  cases it.deadSummary x m <;> rfl

theorem QualRec.judged_dropout (e : r.state = .dropout) : r.judged it x m now =
    if it.causeIn x (it.dropoutBand x) m = .none then ⟨.healthy, .none, none, now⟩
    else if it.deadSummary x m then r.died (it.src x .tFast) ((r.timer.map (·.2)).elim 0 (· - now)) now
    else { r with cause := it.causeIn x (it.dropoutBand x) m } := by
  unfold QualRec.judged
  dsimp only
  split <;> simp_all

theorem QualRec.died_left (fast d now : Nat) : r.died fast (d - now) now =
    if fast = 0 ∨ d ≤ now then ⟨.down, .dead, none, now⟩
    else if now + fast < d then { r with cause := .dead, timer := some (.fast, now + fast) }
    else { r with cause := .dead } := by
  have ended : d - now = 0 ↔ d ≤ now := by omega
  have longer : fast < d - now ↔ now + fast < d := by omega
  unfold QualRec.died
  simp only [ended, longer]

end Judged

/-- A report on which nothing acts in MANUAL but CCU, and MDC at a source that becomes HEALTHY. -/
def Report.heeded (r : Report) : Prop := r.passing ∨ ∃ x prev c, r = .srcChanged x prev .healthy c

/-- What a change of SQU alone leaves: the record of the one source, at most one report, and the notices. -/
def SourceSet (s : State) (x : Src) (r : QualRec) (t : State) : Prop :=
  ∃ l p, t = { s with squ := { s.squ with srcs := s.squ.srcs.set x r }, agenda := s.agenda ++ l, spt := p } ∧
    (∀ r ∈ l, r.heeded) ∧ l.length ≤ 1

theorem heeded_change (x : Src) (prev new : SrcState) (c : Cause) : (Report.srcChanged x prev new c).heeded := by
  by_cases e : new = .healthy
  · exact .inr ⟨x, prev, c, by rw [e]⟩
  · exact .inl (.inl (by simp [Report.idle, e]))

theorem changeSrc_set (x : Src) (new : SrcState) (c : Cause) (d : Option (QTimer × Nat)) (s : State) :
    SourceSet s x ⟨new, c, d, s.now⟩ (changeSrc x new c d s) := by
  refine ⟨[.srcChanged x (s.srcState x) new c], (changeSrc x new c d s).spt, ?_, by simpa using heeded_change _ _ _ _, by simp⟩
  unfold changeSrc
  dsimp only
  split
  · rw [post_eq]
    rfl
  · rfl

/-- Only the cause, or the cause and the timer, move. -/
theorem setCause_set (x : Src) (c : Cause) (s : State) : SourceSet s x { s.squ.srcs.get x with cause := c } (setCause x c s) :=
  ⟨[], s.spt, by simp [setCause], by simp, by simp⟩

theorem SourceSet.same (x : Src) (s : State) : SourceSet s x (s.squ.srcs.get x) s :=
  ⟨[], s.spt, by simp, by simp, by simp⟩

theorem startPickup_set (x : Src) (s : State) : SourceSet s x (s.plan.picked x s.now) (startPickup x s) := by
  unfold startPickup Items.picked
  split <;> exact changeSrc_set _ _ _ _ _

theorem startDropout_set (x : Src) (down drop : Cause) (k : QTimer) (d : Nat) (s : State) :
    SourceSet s x (droppedOut down drop k d s.now) (startDropout x down drop k d s) := by
  unfold startDropout droppedOut
  split <;> exact changeSrc_set _ _ _ _ _

theorem deadInDropout_set (x : Src) (s : State) :
    SourceSet s x ((s.squ.srcs.get x).died (s.plan.src x .tFast)
      (((s.squ.srcs.get x).timer.map (·.2)).elim 0 (· - s.now)) s.now) (deadInDropout x s) := by
  have left : s.left ((s.squ.srcs.get x).timer.map (·.2)) = ((s.squ.srcs.get x).timer.map (·.2)).elim 0 (· - s.now) := by
    unfold State.left
    cases (s.squ.srcs.get x).timer <;> rfl
  unfold deadInDropout QualRec.died
  dsimp only
  rw [left]
  simp only [Bool.or_eq_true, decide_eq_true_eq]
  split
  · exact changeSrc_set _ _ _ _ _
  · split
    · have twice (v w : QualRec) : (s.squ.srcs.set x v).set x w = s.squ.srcs.set x w := by cases x <;> rfl
      exact ⟨[], s.spt, by simp [setQTimer, setCause, twice], by simp, by simp⟩
    · exact setCause_set _ _ _

/-- A summary moves the record of its source as the rules say. -/
theorem judgeSrc_set (x : Src) (m : Summary) (s : State) :
    SourceSet s x ((s.squ.srcs.get x).judged s.plan x m s.now) (judgeSrc x m s) := by
  unfold judgeSrc QualRec.judged State.srcState
  dsimp only
  cases e : (s.squ.srcs.get x).state <;> dsimp only
  case absent => exact .same x s
  case unknown =>
    split
    · exact startPickup_set _ _
    · exact changeSrc_set _ _ _ _ _
  case down =>
    split
    · exact startPickup_set _ _
    · exact e ▸ setCause_set x _ s
  case pickup =>
    split
    · exact .same x s
    · exact changeSrc_set _ _ _ _ _
  case healthy =>
    split
    · exact .same x s
    · split <;> exact startDropout_set _ _ _ _ _ _
  case dropout =>
    split
    · exact changeSrc_set _ _ _ _ _
    · split
      · exact deadInDropout_set _ _
      · exact e ▸ setCause_set x _ s

/-- A summary moves the record of its bus as the rules say. -/
theorem judgeBus_set (b : Sec) (m : Summary) (s : State) :
    ∃ l, judgeBus b m s = { s with
      squ := { s.squ with buses := s.squ.buses.set b ⟨s.plan.busState b m.vmax, m.vmax,
        if (s.squ.buses.get b).state = s.plan.busState b m.vmax then (s.squ.buses.get b).entered else s.now⟩ }
      agenda := s.agenda ++ l } ∧ (∀ r ∈ l, r.heeded) ∧ l.length ≤ 1 := by
  unfold judgeBus setBus
  dsimp only
  split
  · rename_i e
    exact ⟨[], by simp [e], by simp, by simp⟩
  · exact ⟨[.busChanged b (s.squ.buses.get b).state (s.plan.busState b m.vmax)], rfl, by simp [Report.heeded, Report.passing,
      Report.idle, Report.inert], by simp⟩

/-! ### The end of the event, in MANUAL -/

theorem handle_heeded {r : Report} (i : r.heeded) (m : s.BothManual) :
    ∃ c v, handle r s = { s with ccu := c, mdc := { s.mdc with runs := v } } := by
  rcases i with i | ⟨x, prev, cause, rfl⟩
  · obtain ⟨c, e⟩ := handle_passing i m
    exact ⟨c, s.mdc.runs, e⟩
  · exact ⟨s.ccu, _, srcReported_healthy x m⟩

theorem drain_heeded (k : Nat) (m : s.BothManual) (i : ∀ r ∈ s.agenda, r.heeded) (few : s.agenda.length ≤ k) :
    ∃ c v, drain k s = { s with ccu := c, mdc := { s.mdc with runs := v }, agenda := [] } := by
  induction k generalizing s with
  | zero =>
    have none : s.agenda = [] := List.length_eq_zero_iff.mp (Nat.le_zero.mp few)
    exact ⟨s.ccu, s.mdc.runs, by rw [drain_none _ none, ← none]⟩
  | succ k ih =>
    cases e : s.agenda with
    | nil => exact ⟨s.ccu, s.mdc.runs, by rw [drain_none _ e, ← e]⟩
    | cons r rest =>
      rw [e] at i few
      obtain ⟨c, v, taken⟩ := handle_heeded (s := { s with agenda := rest }) (i r List.mem_cons_self) m
      rw [drain_cons _ e, taken, runAll_eq]
      obtain ⟨w, hw⟩ : ∃ w, w = (runAll { s with agenda := rest, ccu := c, mdc := { s.mdc with runs := v } }).mdc.runs :=
        ⟨_, rfl⟩
      obtain ⟨c', v', ended⟩ := ih (s := { s with
          agenda := rest, ccu := c, mdc := { s.mdc with runs := w } })
        m (fun q h => i q (List.mem_cons_of_mem _ h)) (by simpa using few)
      rw [← hw]
      exact ⟨c', v', ended⟩

/-- Reports that at most CCU and MDC take leave the rest. -/
theorem settle_heeded (m : s.BothManual) (i : ∀ r ∈ s.agenda, r.heeded) (few : s.agenda.length ≤ 4096) :
    ∃ c v, settle s = { s with ccu := c, mdc := { s.mdc with runs := v }, agenda := [] } := by
  obtain ⟨r, first⟩ : ∃ r, runAll s = { s with mdc := { s.mdc with runs := r } } := ⟨_, runAll_eq s⟩
  unfold settle
  rw [first]
  exact drain_heeded (s := { s with mdc := { s.mdc with runs := r } }) _ m i few

/-- A good frame moves the record of its point, and its notice the port. -/
theorem goodFrame_frame (p : Point) (h : HeadPlace) (l : InLine) (s : State) : ∃ pts port,
    goodFrame p h l s = { s with hlc := { s.hlc with points := pts }, spt := port } ∧
    ((s.hlc.points.get p).status ≠ .lost → port = s.spt) := by
  unfold goodFrame
  dsimp only
  split
  · rename_i lost
    rw [post_eq]
    exact ⟨_, _, rfl, fun n => absurd lost n⟩
  · exact ⟨_, s.spt, rfl, fun _ => rfl⟩

/-- A DOWN source that stays DOWN has its cause alone moved. -/
theorem judgeSrc_down (down : (s.squ.srcs.get x).state = .down) (bad : s.plan.causeIn x (s.plan.pickupBand x) m ≠ .none) :
    judgeSrc x m s = setCause x (s.plan.causeIn x (s.plan.pickupBand x) m) s := by
  unfold judgeSrc State.srcState
  dsimp only
  rw [down]
  exact if_neg bad

theorem causeIn_dead {b : Band} (dead : s.plan.deadSummary x m = true) : s.plan.causeIn x b m = .dead := by
  unfold Items.causeIn
  rw [if_pos dead]

/-- The event of an arrival in MANUAL: what SQU made of it, and CCU's records and the run records. -/
theorem arrival_settled {l : List Report} {squ : SquState} {port : SptState} (manual : s.BothManual) (calm : s.agenda = [])
    (judged : judge p m (modPoint p (fun r => { r with last := some m, fresh := true }) s) =
      { modPoint p (fun r => { r with last := some m, fresh := true }) s with
        squ := squ, agenda := s.agenda ++ l, spt := port })
    (heeded : ∀ r ∈ l, r.heeded) (few : l.length ≤ 1) :
    (settle (settle (arrive p m s))).squ = squ ∧ (settle (settle (arrive p m s))).spt = port := by
  have arrived : arrive p m s = { modPoint p (fun r => { r with last := some m, fresh := true }) s with
      squ := squ, agenda := l ++ [.ccuPoint p m.arrival], spt := port } := by
    unfold arrive
    rw [judged, calm]
    rfl
  obtain ⟨c, v, first⟩ := settle_heeded (s := arrive p m s)
    (by rw [arrived]; exact manual)
    (by
      rw [arrived]
      intro r mem
      rcases List.mem_append.mp mem with mem | mem
      · exact heeded r mem
      · exact .inl (.inr ⟨p, m.arrival, List.mem_singleton.mp mem⟩))
    (by rw [arrived]; simp only [List.length_append, List.length_singleton]; omega)
  rw [first, settle_none rfl, runAll_squ, runAll_spt, arrived]
  exact ⟨rfl, rfl⟩

/-- Settles O40. -/
theorem summaryJudged : Obligations.SummaryJudged := by
  intro s p h lines m still running idle free bound alone good sum it
  obtain ⟨⟨out, calm⟩, manual, g, pending⟩ := still
  obtain ⟨pts, kept, ended⟩ := frameEnd_one (lines := lines) calm g running idle free (eventful_of_summary bound good sum)
    fun q ne => uneventful_of_unbound (alone q ne)
  let v : State := { s.ending with hlc := { s.ending.hlc with points := pts } }
  have bound' : (v.hlc.points.get p).bound = some h := (congrArg PointRec.bound kept).trans bound
  obtain ⟨pts', port, marked, quiet⟩ := goodFrame_frame p h (lines.get h.line) v
  rw [show (v.hlc.points.get p).status = (s.hlc.points.get p).status from congrArg PointRec.status kept] at quiet
  rw [pointFrame_arrival (s := v) bound' good sum, marked] at ended
  let w : State := { v with hlc := { v.hlc with points := pts' }, spt := port }
  let w' : State := modPoint p (fun r => { r with last := some m, fresh := true }) w
  refine ⟨_, exec_act rfl out, ?_⟩
  rw [ended]
  refine ⟨fun x e => ?source, fun b e => ?bus⟩
  case source =>
    subst e
    obtain ⟨l, port', judged, heeded, few⟩ := judgeSrc_set x m w'
    obtain ⟨squ, spt⟩ := arrival_settled (s := w) (p := .src x) (m := m)
      (squ := { s.squ with srcs := s.squ.srcs.set x ((s.squ.srcs.get x).judged s.plan x m s.now) }) manual calm judged heeded few
    intro q u pick drop dead down wait
    have record : u = q.judged s.plan x m s.now := (congrArg (fun k : SquState => k.srcs.get x) squ).trans (BySrc.get_set_self _ _ _)
    refine ⟨fun y ne => ?others, (congrArg SquState.buses squ :), fun e => ?absent, fun e inside => ?picked, fun e outside => ?unknown,
      fun e outside => ?down, fun e inside => ?pickup, fun e outside => ?pickupOut, fun e inside => ?healthy,
      fun e outside => ?healthyOut, fun e inside => ?back, fun e outside alive => ?cause, fun k d e timer died => ?dead⟩
    case others =>
      exact (congrArg (fun k : SquState => k.srcs.get y) squ).trans (BySrc.get_set_other _ _ (Ne.symm ne))
    case absent => exact record.trans (QualRec.judged_absent e)
    case picked =>
      rw [record]
      rcases e with e | e
      · exact (QualRec.judged_unknown e).trans (if_pos inside)
      · exact (QualRec.judged_down e).trans (if_pos inside)
    case unknown => exact record.trans ((QualRec.judged_unknown e).trans (if_neg outside))
    case down =>
      refine ⟨record.trans ((QualRec.judged_down e).trans (if_neg outside)), fun present => ?_⟩
      have same : port' = w'.spt := (congrArg State.spt (judged.symm.trans (judgeSrc_down (s := w') e outside)) :)
      show (settle (settle (arrive (.src x) m w))).spt.queue = s.spt.queue
      rw [spt, same]
      exact congrArg SptState.queue (quiet present)
    case pickup => exact record.trans ((QualRec.judged_pickup e).trans (if_pos inside))
    case pickupOut => exact record.trans ((QualRec.judged_pickup e).trans (if_neg outside))
    case healthy => exact record.trans ((QualRec.judged_healthy e).trans (if_pos inside))
    case healthyOut => exact record.trans ((QualRec.judged_healthy e).trans (if_neg outside))
    case back => exact record.trans ((QualRec.judged_dropout e).trans (if_pos inside))
    case cause =>
      exact record.trans ((QualRec.judged_dropout e).trans ((if_neg outside).trans (if_neg (Bool.not_eq_true _ ▸ alive))))
    case dead =>
      have outside : s.plan.causeIn x (s.plan.dropoutBand x) m ≠ .none := by
        rw [causeIn_dead died]
        decide
      have ran : (q.timer.map (·.2)).elim 0 (· - s.now) = d - s.now := by
        rw [timer]
        rfl
      rw [record, QualRec.judged_dropout e, if_neg outside, if_pos died, ran]
      exact QualRec.died_left _ d s.now
  case bus =>
    subst e
    obtain ⟨l, judged, heeded, few⟩ := judgeBus_set b m w'
    obtain ⟨squ, spt⟩ := arrival_settled (s := w) (p := .bus b) (m := m)
      (squ := { s.squ with buses := s.squ.buses.set b ⟨s.plan.busState b m.vmax, m.vmax,
        if (s.squ.buses.get b).state = s.plan.busState b m.vmax then (s.squ.buses.get b).entered else s.now⟩ })
      (port := w'.spt) manual calm judged heeded few
    have record := (congrArg (fun k : SquState => k.buses.get b) squ).trans (BySec.get_set_self _ _ _)
    refine ⟨(congrArg SquState.srcs squ :), fun c ne => ?_, congrArg BusRec.state record, congrArg BusRec.vmax record,
      congrArg BusRec.entered record⟩
    exact (congrArg (fun k : SquState => k.buses.get c) squ).trans (BySec.get_set_other _ _ (Ne.symm ne))

end Sys2Proof.Machine
end

section
/-! An activation that takes effect, with both sections in MANUAL (R17 to R19, R59, R75, R146, R174). -/

namespace Sys2Proof.Machine

variable {s t u : State} {tag : Byte} {p : PageNo} {x : Src} {c : Chan} {f g : Feeder}

/-! ### The load manager: feeders under a new page (R146) -/

/-- A feeder's record under a new page: an unfitted one takes the page's demand, and one that is unfitted or of class 1 is
CONNECTED. -/
def FeederRec.activated (r : FeederRec) (old new : Items) (f : Feeder) : FeederRec :=
  { r with
    demand := if old.fitted f && !new.fitted f then new.feeder f .demand else r.demand
    shed := r.shed && !(!new.fitted f || new.feeder f .cls == 1) }

theorem unshedForPlan_feeder (f g : Feeder) (s : State) :
    (unshedForPlan f s).feeder g = if g = f then { s.feeder f with shed := false } else s.feeder g := by
  have modified : (modFeeder f (fun r => { r with shed := false }) s).feeder g =
      if g = f then { s.feeder f with shed := false } else s.feeder g := by
    split
    · rename_i e
      rw [e]
      exact modFeeder_own _ _ _
    · rename_i e
      exact modFeeder_others _ e
  rw [← modified]
  unfold unshedForPlan State.feeder
  dsimp only
  split <;> simp [modFeeder]

theorem feederActivated_feeder (old : Items) (f g : Feeder) (s : State) : (feederActivated old f s).feeder g =
    if g = f then (s.feeder f).activated old s.plan f else s.feeder g := by
  obtain ⟨t, ht⟩ : ∃ t, t = if old.fitted f && !s.plan.fitted f then
      modFeeder f (fun r => { r with demand := s.plan.feeder f .demand }) s else s := ⟨_, rfl⟩
  have plan : t.plan = s.plan := by
    rw [ht]
    split <;> rfl
  have own : t.feeder f = { s.feeder f with
      demand := if old.fitted f && !s.plan.fitted f then s.plan.feeder f .demand else (s.feeder f).demand } := by
    rw [ht]
    split
    · exact modFeeder_own _ _ _
    · rfl
  have others (ne : g ≠ f) : t.feeder g = s.feeder g := by
    rw [ht]
    split
    · exact modFeeder_others _ ne
    · rfl
  have cls : t.cls f = s.plan.feeder f .cls := by
    unfold State.cls
    rw [plan]
  unfold feederActivated
  rw [← ht]
  dsimp only
  rw [plan, cls]
  by_cases e : g = f
  · subst e
    rw [if_pos rfl]
    unfold FeederRec.activated
    split
    · rename_i back
      rw [unshedForPlan_feeder, if_pos rfl, own]
      simp [(Bool.and_eq_true_iff.mp back).2]
    · rename_i back
      have kept : ∀ a b : Bool, ¬(a && b) = true → (a && !b) = a := by decide
      rw [own] at back ⊢
      rw [kept _ _ back]
  · rw [if_neg e]
    split
    · rw [unshedForPlan_feeder, if_neg e, others e]
    · exact others e

theorem foldl_feederActivated (old : Items) (l : List Feeder) (once : l.Nodup) (s : State) (g : Feeder) :
    (l.foldl (fun t f => feederActivated old f t) s).feeder g =
      if g ∈ l then (s.feeder g).activated old s.plan g else s.feeder g := by
  induction l generalizing s with
  | nil => rfl
  | cons f l ih =>
    obtain ⟨out, once'⟩ := List.nodup_cons.mp once
    rw [List.foldl_cons, ih once', (feederActivated_load old f s).plan_eq, feederActivated_feeder]
    by_cases e : g = f
    · subst e
      simp [out]
    · simp [e]

/-- A pass moves sheddable feeders alone. -/
theorem shedPass_kept (secs : List Sec) (budget : Nat) (x : Src) (occ : Occasion) (s : State) (h : s.sheddable f = false) :
    (shedPass secs budget x occ s).feeder f = s.feeder f := by
  obtain ⟨-, off, rest, mem, -, -, -, -, feeder, -⟩ := shedPassEnds s secs budget x occ
  rw [feeder, if_neg]
  intro taken
  have := (mem f).mp (List.mem_append_left _ taken)
  rw [h] at this
  exact absurd this.2 (by decide)

theorem superviseOne_kept (i : IslandId) (s : State) (h : s.sheddable f = false) : (superviseOne i s).feeder f = s.feeder f := by
  have pass (x : Src) : (overloadPass i x s).feeder f = s.feeder f := by
    unfold State.feeder
    rw [(overloadPass_after i x s).1]
    exact shedPass_kept _ _ _ _ (modIsland i (fun r => { r with overloadAt := none }) s) h
  unfold superviseOne
  split
  · rfl
  · split
    · rfl
    · split
      · split
        · split
          · exact pass _
          · rfl
        · rfl
      · rfl

theorem superviseAll_kept (s : State) (h : s.sheddable f = false) : (superviseAll s).feeder f = s.feeder f := by
  refine (List.foldlRecOn (motive := fun t : State => LoadOnly s t ∧ t.feeder f = s.feeder f) _ _ ⟨.refl s, rfl⟩
    fun t ⟨load, e⟩ i _ => ⟨load.trans (superviseOne_load i t), (superviseOne_kept i t ?_).trans e⟩).2
  rw [← h]
  unfold State.sheddable State.carried
  rw [load.plan_eq, load.cls_eq, e]

/-- What the load manager makes of an activation. -/
structure LoadActivated (old : Items) (s t : State) : Prop where
  demand : ∀ f, (t.feeder f).demand = ((s.feeder f).activated old s.plan f).demand
  shed   : ∀ f, (s.feeder f).shed = true → (t.feeder f).shed = ((s.feeder f).activated old s.plan f).shed
  frame  : ∃ u l, LoadOnly s u ∧ t = { u with agenda := u.agenda ++ l } ∧ (∀ r ∈ l, r.idle = true) ∧ l.length ≤ 1

theorem linesOnBlock_feeder (s : State) (f : Feeder) : (linesOnBlock s).feeder f = s.feeder f := by
  unfold linesOnBlock
  split <;> rfl

theorem loadActivated_acts (old : Items) (one : Nat) (s : State) : LoadActivated old s (loadActivated old one s) := by
  obtain ⟨w, hw⟩ : ∃ w, w = allFeeders.foldl (fun t f => feederActivated old f t) s := ⟨_, rfl⟩
  obtain ⟨v, hv⟩ : ∃ v, v = if w.blocked then linesOnBlock w else w := ⟨_, rfl⟩
  have feeder (f : Feeder) : v.feeder f = (s.feeder f).activated old s.plan f := by
    have first : w.feeder f = (s.feeder f).activated old s.plan f := by
      rw [hw, foldl_feederActivated _ _ (by decide), if_pos (mem_allFeeders f)]
    rw [← first, hv]
    split
    · exact linesOnBlock_feeder _ _
    · rfl
  have load : LoadOnly s v := by
    have first : LoadOnly s w := by
      rw [hw]
      exact LoadOnly.foldl _ (fun t f => feederActivated_load _ _ _) _ _
    rw [hv]
    split
    · exact first.trans (linesOnBlock_load _)
    · exact first
  have e : loadActivated old one s = reportClassOne one (superviseAll v) := by
    unfold loadActivated
    rw [hv, hw]
  have cases : loadActivated old one s = superviseAll v ∨ loadActivated old one s = report .classOneDemand (superviseAll v) := by
    rw [e]
    unfold reportClassOne
    split
    · exact .inl rfl
    · exact .inr rfl
  have same (f : Feeder) : (loadActivated old one s).feeder f = (superviseAll v).feeder f := by
    rcases cases with e | e
    · rw [e]
    · rw [e]
      rfl
  refine ⟨fun f => ?demand, fun f was => ?shed, superviseAll v, ?frame⟩
  case demand => rw [same, superviseAll_demand, feeder]
  case shed =>
    have not : v.sheddable f = false := by
      have plan : v.cls f = s.plan.feeder f .cls := load.cls_eq f
      unfold State.sheddable State.carried
      rw [load.plan_eq, plan, feeder]
      unfold FeederRec.activated
      rw [was]
      cases s.plan.fitted f
      · rfl
      · by_cases one : s.plan.feeder f .cls = 1
        · simp [one]
        · simp [one]
    rw [same, superviseAll_kept v not, feeder]
  case frame =>
    rcases cases with e | e
    · exact ⟨[], load.trans (superviseAll_load _), by rw [e]; simp, by simp, by simp⟩
    · exact ⟨[.classOneDemand], load.trans (superviseAll_load _), e, by simp [Report.idle, Report.inert], by simp⟩

/-! ### Sources, channels and run records (R59, R75, R174) -/

/-- A source's record under a new page (R59). -/
def QualRec.activated (q : QualRec) (old new : Items) (x : Src) (now : Nat) : QualRec :=
  if new.kind x = .absent then
    if q.state = .absent then q else ⟨.absent, .none, none, now⟩
  else if old.kind x = .absent then ⟨.unknown, .meas, none, now⟩
  else q

theorem changeSrc_unannounced {new : SrcState} (quiet : (new = .healthy || new = .down) = false) (x : Src) (c : Cause)
    (d : Option (QTimer × Nat)) (s : State) : changeSrc x new c d s =
      { s with squ := { s.squ with srcs := s.squ.srcs.set x ⟨new, c, d, s.now⟩ }
               agenda := s.agenda ++ [.srcChanged x (s.srcState x) new c] } := by
  unfold changeSrc
  dsimp only
  rw [if_neg (by rw [quiet]; decide)]
  rfl

theorem srcActivated_frame (old : Items) (x : Src) (s : State) : ∃ l, srcActivated old x s = { s with
    squ := { s.squ with srcs := s.squ.srcs.set x ((s.squ.srcs.get x).activated old s.plan x s.now) }
    agenda := s.agenda ++ l } ∧ (∀ r ∈ l, r.idle = true) ∧ l.length ≤ 1 := by
  unfold srcActivated QualRec.activated State.srcState
  split
  · split
    · exact ⟨[], by simp, by simp, by simp⟩
    · exact ⟨_, changeSrc_unannounced rfl _ _ _ _, by simp [Report.idle], by simp⟩
  · split
    · exact ⟨_, changeSrc_unannounced rfl _ _ _ _, by simp [Report.idle], by simp⟩
    · exact ⟨[], by simp, by simp, by simp⟩

/-- All sources under a new page. -/
theorem srcsActivated_frame (old : Items) (l : List Src) (once : l.Nodup) (s : State) : ∃ srcs a,
    l.foldl (fun t x => srcActivated old x t) s = { s with squ := { s.squ with srcs := srcs }, agenda := s.agenda ++ a } ∧
    (∀ x, srcs.get x = if x ∈ l then (s.squ.srcs.get x).activated old s.plan x s.now else s.squ.srcs.get x) ∧
    (∀ r ∈ a, r.idle = true) ∧ a.length ≤ l.length := by
  induction l generalizing s with
  | nil => exact ⟨s.squ.srcs, [], by simp, fun _ => rfl, by simp, by simp⟩
  | cons y l ih =>
    obtain ⟨out, once'⟩ := List.nodup_cons.mp once
    obtain ⟨a, first, idle, few⟩ := srcActivated_frame old y s
    rw [List.foldl_cons, first]
    obtain ⟨srcs, b, rest, get, idle', few'⟩ := ih once' { s with
      squ := { s.squ with srcs := s.squ.srcs.set y ((s.squ.srcs.get y).activated old s.plan y s.now) }
      agenda := s.agenda ++ a }
    refine ⟨srcs, a ++ b, by rw [rest, List.append_assoc], fun x => ?_, fun r mem => ?_, ?_⟩
    · have plan (q : SquState) (b : List Report) : ({ s with squ := q, agenda := b } : State).plan = s.plan := rfl
      rw [get, plan]
      dsimp only
      rw [BySrc.get_set]
      by_cases e : y = x
      · subst e
        simp [out]
      · simp only [e, if_false, List.mem_cons, Ne.symm e, false_or]
        rfl
    · exact (List.mem_append.mp mem).elim (idle r) (idle' r)
    · rw [List.length_append, List.length_cons]
      omega

/-- A channel's record under a new page (R75). -/
def ChanRec.activated (r : ChanRec) (old new : Items) (c : Chan) : ChanRec :=
  if old.chan c .closeTimeInit = new.chan c .closeTimeInit then r else { r with tc := new.chan c .closeTimeInit }

theorem chanActivated_frame (old : Items) (c : Chan) (s : State) : chanActivated old c s =
    { s with bcu := s.bcu.set c ((s.bcu.get c).activated old s.plan c) } := by
  unfold chanActivated ChanRec.activated
  split
  · simp
  · exact modChan_silent _ _ _ rfl

theorem chansActivated_frame (old : Items) (s : State) : ∃ b,
    allChans.foldl (fun t c => chanActivated old c t) s = { s with bcu := b } ∧
    ∀ c, b.get c = (s.bcu.get c).activated old s.plan c := by
  unfold allChans
  simp only [List.foldl, chanActivated_frame]
  exact ⟨_, rfl, fun c => by cases c <;> rfl⟩

/-- A source that is no longer a generator has its run record as after power-up (R174). -/
def RunRec.activated (r : RunRec) (old new : Items) (x : Src) : RunRec :=
  if old.kind x = .generator && new.kind x ≠ .generator then .start else r

theorem runActivated_frame (old : Items) (x : Src) (s : State) : runActivated old x s = { s with
    mdc := { s.mdc with runs := s.mdc.runs.set x ((s.mdc.runs.get x).activated old s.plan x) } } := by
  unfold runActivated RunRec.activated
  split
  · rfl
  · simp

theorem runsActivated_frame (old : Items) (s : State) : ∃ v,
    allSrcs.foldl (fun t x => runActivated old x t) s = { s with mdc := { s.mdc with runs := v } } ∧
    ∀ x, v.get x = (s.mdc.runs.get x).activated old s.plan x := by
  unfold allSrcs
  simp only [List.foldl, runActivated_frame]
  exact ⟨_, rfl, fun x => by cases x <;> rfl⟩

/-! ### The activation (R19) -/

/-- What the blocks told of an activation have made of it before the last report. -/
structure PageTaken (s : State) (p : PageNo) (w : State) : Prop where
  pst     : w.pst = { s.pst with active := some p, pendingPage := none }
  srcs    : ∀ x, w.squ.srcs.get x = (s.squ.srcs.get x).activated s.plan (s.pst.pages.get p).items x s.now
  chans   : ∀ c, w.bcu.get c = (s.bcu.get c).activated s.plan (s.pst.pages.get p).items c
  runs    : ∀ x, w.mdc.runs.get x = (s.mdc.runs.get x).activated s.plan (s.pst.pages.get p).items x
  demand  : ∀ f, (w.feeder f).demand = ((s.feeder f).activated s.plan (s.pst.pages.get p).items f).demand
  shed    : ∀ f, (s.feeder f).shed = true → (w.feeder f).shed = ((s.feeder f).activated s.plan (s.pst.pages.get p).items f).shed
  hlc     : w.hlc = s.hlc
  seqs    : w.seqs = s.seqs
  owner   : w.owner = s.owner
  modes   : w.mdc.modes = s.mdc.modes
  adopted : w.adopted = s.adopted
  service : w.spt.service = s.spt.service

theorem takeEffect_frame (p : PageNo) (calm : s.agenda = []) : ∃ w l, PageTaken s p w ∧
    takeEffect p s = { w with agenda := l ++ [.activationDone p s.pst.active] } ∧
    (∀ r ∈ l, r.idle = true) ∧ l.length ≤ 7 := by
  let t : State := modPst (fun q => { q with active := some p, pendingPage := none }) s
  have new : t.plan = (s.pst.pages.get p).items := rfl
  obtain ⟨srcs, a, first, get, idle, few⟩ := srcsActivated_frame s.plan allSrcs (by decide) t
  obtain ⟨b, second, chans⟩ := chansActivated_frame s.plan { t with squ := { t.squ with srcs := srcs }, agenda := t.agenda ++ a }
  let v : State := { t with squ := { t.squ with srcs := srcs }, agenda := t.agenda ++ a, bcu := b }
  obtain ⟨demand, shed, u, k, load, third, idle', few'⟩ := loadActivated_acts s.plan s.classOne v
  obtain ⟨r, fourth, runs⟩ := runsActivated_frame s.plan { u with agenda := u.agenda ++ k }
  rw [third] at demand shed
  have effect : takeEffect p s = { u with
      agenda := u.agenda ++ k ++ [.activated .sec1, .activated .sec2, .activationDone p s.pst.active]
      mdc := { u.mdc with runs := r } } := by
    unfold takeEffect tellActivation
    dsimp only
    rw [first, second, third, fourth]
    unfold report
    dsimp only
    rw [List.append_assoc (u.agenda ++ k), List.append_assoc (u.agenda ++ k)]
    rfl
  have agenda : u.agenda = a := (congrArg State.agenda load :).trans (by show s.agenda ++ a = a; rw [calm]; rfl)
  refine ⟨{ u with mdc := { u.mdc with runs := r } }, a ++ k ++ [.activated .sec1, .activated .sec2],
    ⟨load.pst_eq, fun x => ?srcs, fun c => ?chans, fun x => ?runs, demand, shed, load.hlc_eq, load.seqs_eq,
      (congrArg State.owner load :), (congrArg (fun m : MdcState => m.modes) load.mdc_eq :), (congrArg State.adopted load :),
      (congrArg (fun q : State => q.spt.service) load :)⟩, ?_, fun q mem => ?idle, ?few⟩
  case srcs =>
    have squ : u.squ = v.squ := (congrArg State.squ load :)
    show u.squ.srcs.get x = _
    rw [squ]
    exact (get x).trans (if_pos (by cases x <;> decide))
  case chans =>
    show u.bcu.get c = _
    rw [load.bcu_eq]
    exact chans c
  case runs =>
    refine (runs x).trans ?_
    rw [show ({ u with agenda := u.agenda ++ k } : State).plan = u.plan from rfl, load.plan_eq]
    show RunRec.activated (u.mdc.runs.get x) _ _ x = _
    rw [load.mdc_eq]
    rfl
  case idle =>
    simp only [List.mem_append, List.mem_cons, List.not_mem_nil, or_false] at mem
    rcases mem with (mem | mem) | rfl | rfl
    · exact idle q mem
    · exact idle' q mem
    · rfl
    · rfl
  case few =>
    simp only [List.length_append, List.length_cons, List.length_nil]
    have : allSrcs.length = 4 := rfl
    omega
  · rw [effect, agenda, List.append_assoc (a ++ k)]
    rfl

/-! ### The end of the activation's event -/

/-- A source that is no generator keeps its run record. -/
theorem runAll_other (h : s.plan.kind x ≠ .generator) : (runAll s).mdc.runs.get x = s.mdc.runs.get x := by
  cases ad : s.adopted with
  | true => rw [runAll_runs ad, State.moved, if_neg h]
  | false =>
    unfold runAll
    rw [if_neg (by simp [ad])]

/-- Reports on which nothing acts are passed over; only the run records of generators may move. -/
theorem drain_idle_runs (l : List Report) (k : Nat) (s : State) (m : s.BothManual) (i : ∀ r ∈ l, r.idle = true) :
    ∃ v, drain (l.length + k) { s with agenda := l ++ s.agenda } = drain k { s with mdc := { s.mdc with runs := v } } ∧
      ∀ x, s.plan.kind x ≠ .generator → v.get x = s.mdc.runs.get x := by
  induction l generalizing s with
  | nil => exact ⟨s.mdc.runs, by rw [List.length_nil, Nat.zero_add]; rfl, fun _ _ => rfl⟩
  | cons r l ih =>
    obtain ⟨w, moved, other⟩ : ∃ w, runAll { s with agenda := l ++ s.agenda } =
        { s with agenda := l ++ s.agenda, mdc := { s.mdc with runs := w } } ∧
        ∀ x, s.plan.kind x ≠ .generator → w.get x = s.mdc.runs.get x :=
      ⟨_, runAll_eq _, fun x h => runAll_other (s := { s with agenda := l ++ s.agenda }) h⟩
    rw [List.length_cons, Nat.add_right_comm, drain_cons (r := r) (rest := l ++ s.agenda) _ rfl]
    have taken : handle r ({ ({ s with agenda := r :: l ++ s.agenda } : State) with agenda := l ++ s.agenda } : State) =
        { s with agenda := l ++ s.agenda } := handle_idle (s := { s with agenda := l ++ s.agenda }) (i r List.mem_cons_self) m
    rw [taken, moved]
    obtain ⟨v, hv, rest⟩ := ih { s with mdc := { s.mdc with runs := w } } m fun q hq => i q (List.mem_cons_of_mem _ hq)
    exact ⟨v, hv, fun x h => (rest x h).trans (other x h)⟩

/-- The end of the activation's event: the pointer write and the notice follow the blocks' own actions (R19), and a source
that is no generator keeps its run record. -/
theorem activation_ends {l : List Report} {q : Option PageNo} (m : s.BothManual) (i : ∀ r ∈ l, r.idle = true)
    (few : l.length ≤ 7) : ∃ port v, settle { s with agenda := l ++ [.activationDone p q] } = { s with
        agenda := [], pst := { s.pst with writes := enqueueWrite (.pointer p) s.pst.writes }, spt := port
        mdc := { s.mdc with runs := v } } ∧
      port.service = s.spt.service ∧ (port.overflow = false → .planActivated p q ∈ port.queue.map (·.note)) ∧
      ∀ x, s.plan.kind x ≠ .generator → v.get x = s.mdc.runs.get x := by
  obtain ⟨v0, first, other0⟩ : ∃ v, runAll { s with agenda := l ++ [.activationDone p q] } =
      { s with agenda := l ++ [.activationDone p q], mdc := { s.mdc with runs := v } } ∧
      ∀ x, s.plan.kind x ≠ .generator → v.get x = s.mdc.runs.get x :=
    ⟨_, runAll_eq _, fun x h => runAll_other (s := { s with agenda := l ++ [.activationDone p q] }) h⟩
  obtain ⟨v1, second, other1⟩ := drain_idle_runs l (4095 - l.length + 1)
    { s with agenda := [.activationDone p q], mdc := { s.mdc with runs := v0 } } m i
  let u : State := { s with agenda := [], mdc := { s.mdc with runs := v1 } }
  obtain ⟨port, hp⟩ : ∃ port, port = (activationDone p q u).spt := ⟨_, rfl⟩
  have done : activationDone p q u = { u with
      pst := { s.pst with writes := enqueueWrite (.pointer p) s.pst.writes }, spt := port } := by
    rw [hp]
    exact post_eq _ (queueWrite (.pointer p) u)
  have noted : (activationDone p q u).Noted (.planActivated p q) := noted_post _ _
  have service : port.service = s.spt.service := by
    rw [hp]
    exact post_spt_service _ (queueWrite (.pointer p) u)
  refine ⟨port, (runAll (activationDone p q u)).mdc.runs, ?_, service, by rw [hp]; exact noted, fun x h => ?_⟩
  · have count : 4096 = l.length + (4095 - l.length + 1) := by omega
    unfold settle
    rw [first, count]
    refine second.trans ?_
    rw [drain_cons (r := .activationDone p q) (rest := []) _ rfl]
    show drain _ (runAll (activationDone p q u)) = _
    have quiet : (activationDone p q u).agenda = [] := by rw [done]
    rw [drain_none _ ((runAll_agenda _).trans quiet), runAll_eq, done]
  · have other : (runAll (activationDone p q u)).mdc.runs.get x = (activationDone p q u).mdc.runs.get x := by
      refine runAll_other ?_
      rw [done]
      exact h
    rw [other, done]
    exact (other1 x h).trans (other0 x h)

/-- What an activation that takes effect leaves (R19). -/
structure PageInForce (s : State) (p : PageNo) (t : State) : Prop where
  pst     : t.pst = { s.pst with
    active := some p, pendingPage := none, writes := enqueueWrite (.pointer p) s.pst.writes }
  srcs    : ∀ x, t.squ.srcs.get x = (s.squ.srcs.get x).activated s.plan (s.pst.pages.get p).items x s.now
  chans   : ∀ c, t.bcu.get c = (s.bcu.get c).activated s.plan (s.pst.pages.get p).items c
  runs    : ∀ x, (s.pst.pages.get p).items.kind x ≠ .generator →
    t.mdc.runs.get x = (s.mdc.runs.get x).activated s.plan (s.pst.pages.get p).items x
  demand  : ∀ f, (t.feeder f).demand = ((s.feeder f).activated s.plan (s.pst.pages.get p).items f).demand
  shed    : ∀ f, (s.feeder f).shed = true → (t.feeder f).shed = ((s.feeder f).activated s.plan (s.pst.pages.get p).items f).shed
  noted   : t.Noted (.planActivated p s.pst.active)
  hlc     : t.hlc = s.hlc
  seqs    : t.seqs = s.seqs
  owner   : t.owner = s.owner
  modes   : t.mdc.modes = s.mdc.modes

theorem takeEffect_settled (p : PageNo) (calm : s.agenda = []) (manual : s.BothManual) :
    PageInForce s p (settle (takeEffect p s)) ∧ (settle (takeEffect p s)).spt.service = s.spt.service := by
  obtain ⟨w, l, taken, effect, idle, few⟩ := takeEffect_frame p calm
  have manual' : w.BothManual := fun n => by
    unfold State.mode
    rw [taken.modes]
    exact manual n
  obtain ⟨port, v, settled, service, noted, runs⟩ := activation_ends (s := w) (p := p) (q := s.pst.active) manual' idle few
  have plan : w.plan = (s.pst.pages.get p).items := by
    unfold State.plan
    rw [taken.pst]
  rw [effect, settled]
  refine ⟨⟨?_, taken.srcs, taken.chans, fun x no => ?_, taken.demand, taken.shed, noted, taken.hlc, taken.seqs, taken.owner,
    taken.modes⟩, service.trans taken.service⟩
  · show ({ w.pst with writes := _ } : PstState) = _
    rw [taken.pst]
  · exact (runs x (by rw [plan]; exact no)).trans (taken.runs x)

/-- Settles O22. -/
theorem activationTakesEffect : Obligations.ActivationTakesEffect := by
  intro s tag p manual rest adopted it Done
  have done {t : State} (h : PageInForce s p t) : Done t := by
    refine ⟨h.pst, fun x absent => ?absent, fun x present was => ?kept, fun x present was => ?returned,
      fun x was is => ?runs, fun f => ⟨?demand, fun shed => ?shed⟩, h.noted, fun c => h.chans c, h.hlc, h.seqs,
      h.owner, h.modes⟩
    case absent =>
      unfold State.srcState
      rw [h.srcs, QualRec.activated, if_pos absent]
      split
      · assumption
      · rfl
    case kept => rw [h.srcs, QualRec.activated, if_neg present, if_neg was]
    case returned => rw [h.srcs, QualRec.activated, if_neg present, if_pos was]
    case runs =>
      rw [h.runs x is, RunRec.activated, if_pos]
      simpa [was] using is
    case demand =>
      rw [h.demand]
      show (if s.plan.fitted f && !it.fitted f then _ else _) = _
      simp only [Bool.and_eq_true, Bool.not_eq_true']
      rfl
    case shed =>
      rw [h.shed f shed]
      show ((s.feeder f).shed && !(!it.fitted f || it.feeder f .cls == 1)) = _
      rw [shed, Bool.true_and, Bool.not_or, Bool.not_not]
      rfl
  refine ⟨fun ready valid other waiting => ?request, fun calm pending => ?row⟩
  case request =>
    have served : serve (.planActivate (pageCode p)) (s.awaiting 0x55 tag) =
        .after (takeEffect p (s.awaiting 0x55 tag)) fun _ => ⟨.ok, .outcome true⟩ := by
      show serveActivate _ _ = _
      rw [serveActivate_started (t := s.awaiting 0x55 tag) adopted]
      exact (if_neg (not_not.mpr valid)).trans ((if_neg other).trans ((if_neg waiting).trans (if_pos rest)))
    obtain ⟨h, -⟩ := takeEffect_settled (s := s.awaiting 0x55 tag) p ready.1.2 manual
    exact ⟨_, exec_after (r := .planActivate (pageCode p)) rfl ready served,
      done ⟨h.pst, h.srcs, h.chans, h.runs, h.demand, h.shed, h.noted, h.hlc, h.seqs, h.owner, h.modes⟩, rfl⟩
  case row =>
    refine ⟨_, exec_event rfl calm.1, ?_⟩
    have e : testPending s = takeEffect p s := by
      unfold testPending
      rw [pending]
      exact if_pos rest
    rw [e]
    exact done (takeEffect_settled p calm.2 manual).1

end Sys2Proof.Machine
end

section
/-! The tests a sequencer's choices rest on: the claim, the lists, the holds, eligibility and readiness (R92, R103 to R105,
R108, R129 to R131, R136 to R138). -/

namespace Sys2Proof.Machine

variable {s : State} {n : Sec} {x : Src} {e : SecEntry}

/-! ### The claim test (R129, R131) -/

theorem healthy_iff : s.healthy x = true ↔ s.srcState x = .healthy := by simp [State.healthy]

theorem settled_iff {k : SeqState} : k.settled = true ↔ k = .fed ∨ k = .returnWait := by cases k <;> decide

section Claim

variable (free : s.owner = none) (tie : s.avail .bkt = true) (settled : (s.ctx n.other).state.settled = true)
include free

theorem claimTest_tieUnavailable (tie : s.avail .bkt = false) : s.claimTest n = some .tieUnavailable := by
  unfold State.claimTest
  simp [free, tie]

include tie

theorem claimTest_otherBusy (busy : (s.ctx n.other).state.settled = false) : s.claimTest n = some .otherBusy := by
  unfold State.claimTest
  simp [free, tie, busy]

include settled

/-- Past the first three tests a claim turns on the other section's feed alone. -/
theorem claimTest_feed : s.claimTest n =
    match (s.ctx n.other).feed.bind (ownSource n.other) with
    | none => some .otherNotFed
    | some x =>
      if !s.healthy x then some .otherNotFed else if s.plan.budget x < s.classOne then some .budget else none := by
  unfold State.claimTest
  simp only [free, tie, settled]
  rfl

theorem claimTest_lent (feed : (s.ctx n.other).feed.bind (ownSource n.other) = some x) (healthy : s.srcState x = .healthy) :
    s.claimTest n = if s.plan.budget x < s.classOne then some .budget else none := by
  rw [claimTest_feed free tie settled, feed]
  simp [healthy_iff.mpr healthy]

theorem claimTest_otherNotFed (none : ∀ y, (s.ctx n.other).feed.bind (ownSource n.other) = some y → s.srcState y ≠ .healthy) :
    s.claimTest n = some .otherNotFed := by
  rw [claimTest_feed free tie settled]
  split
  · rfl
  · rename_i y e
    rw [if_pos]
    simpa [State.healthy] using none y e

end Claim

theorem claimTest_owned (owned : s.owner ≠ none) : s.claimTest n = some .owned := by
  unfold State.claimTest
  rw [if_pos (Option.isSome_iff_ne_none.mpr owned)]

/-- The five conditions of a claim (R129). -/
theorem claimTest_none_iff : s.claimTest n = none ↔ s.owner = none ∧ s.avail .bkt = true ∧
    (s.ctx n.other).state.settled = true ∧ ∃ x, (s.ctx n.other).feed.bind (ownSource n.other) = some x ∧
      s.srcState x = .healthy ∧ s.classOne ≤ s.plan.budget x := by
  constructor
  · intro granted
    have free : s.owner = none := by
      by_contra owned
      rw [claimTest_owned owned] at granted
      cases granted
    have tie : s.avail .bkt = true := by
      by_contra out
      rw [claimTest_tieUnavailable free (by simpa using out)] at granted
      cases granted
    have settled : (s.ctx n.other).state.settled = true := by
      by_contra busy
      rw [claimTest_otherBusy free tie (by simpa using busy)] at granted
      cases granted
    by_cases lent : ∃ x, (s.ctx n.other).feed.bind (ownSource n.other) = some x ∧ s.srcState x = .healthy
    · obtain ⟨x, feed, healthy⟩ := lent
      rw [claimTest_lent free tie settled feed healthy] at granted
      refine ⟨free, tie, settled, x, feed, healthy, ?_⟩
      by_contra above
      rw [if_pos (Nat.not_le.mp above)] at granted
      cases granted
    · rw [claimTest_otherNotFed free tie settled fun y feed healthy => lent ⟨y, feed, healthy⟩] at granted
      cases granted
  · rintro ⟨free, tie, settled, x, feed, healthy, within⟩
    rw [claimTest_lent free tie settled feed healthy, if_neg (Nat.not_lt.mpr within)]

/-! ### The serving section and the lists (R136, R137) -/

theorem serving_open (opened : s.closed .bkt = false) : s.serving = none := by
  unfold State.serving
  simp [opened]

theorem mayServe_iff : s.mayServe n = true ↔ s.mode n = .auto ∧ (s.ctx n).state ≠ .halted := by simp [State.mayServe]

theorem serving_sole (closed : s.closed .bkt = true) (sole : ∀ m, (s.ctx m).role = .sole) :
    s.serving = if s.mayServe .sec1 then some .sec1 else if s.mayServe .sec2 then some .sec2 else none := by
  unfold State.serving
  simp [closed, sole]

theorem selEntries_own (role : (s.ctx n).role ≠ .supplying) (free : s.serving ≠ some n) : s.selEntries n = s.prefs n := by
  unfold State.selEntries
  rw [if_neg (by simp [role, free])]

theorem prefs_bare (m : Sec) : (s.prefs m).filter (·.entry != .tie) =
    ((s.plan.prefs m).filter (· ≠ .tie)).map (⟨m, ·⟩ : Entry → SecEntry) := by
  unfold State.prefs
  rw [List.filter_map]
  congr 1
  exact List.filter_congr fun e _ => by cases e <;> rfl

theorem selEntries_supplying (serves : (s.ctx n).role = .supplying ∨ s.serving = some n) : s.selEntries n =
    (s.prefs n).filter (·.entry != .tie) ++
      if (s.ctx n.other).state.atRest then (s.prefs n.other).filter (·.entry != .tie) else [] := by
  unfold State.selEntries
  rw [if_pos (by simpa using serves)]

/-! ### Holds, eligibility and readiness (R92, R103, R104, R108, R138) -/

theorem held_iff : s.held n = true ↔ s.blocked = true ∨ s.mdc.settle.get n ≠ none ∨ s.serving = some n.other ∨
    ((s.ctx n.other).feed = some .tie ∧ (s.ctx n.other).closedTrans = true ∧
      ((s.ctx n.other).state = .closing ∨ (s.ctx n.other).state = .overlap)) := by
  unfold State.held State.heldBy
  simp only [Bool.or_eq_true, Bool.and_eq_true, beq_iff_eq, Option.isSome_iff_ne_none]
  tauto

theorem avail_iff {c : Chan} : s.avail c = true ↔ (s.bcu.get c).position = .isOpen ∧ (s.bcu.get c).ready.accepted = true ∧
    (s.bcu.get c).racked.accepted = true := by
  unfold State.avail ChanRec.available
  simp [and_assoc]

theorem feedOfPaths_iff {l : List Src} : feedOfPaths l = some x ↔ l = [x] := by
  cases l with
  | nil => simp [feedOfPaths]
  | cons y l => cases l <;> simp [feedOfPaths]

/-- The source of an entry (R3). -/
theorem entrySource_iff : s.entrySource e = some x ↔
    if e.entry = .tie then s.paths e.sec.other = [x] else ownSource e.sec e.entry = some x := by
  obtain ⟨m, k⟩ := e
  cases k <;> simp [State.entrySource, State.islandSource, feedOfPaths_iff]

theorem healthy?_iff {o : Option Src} : s.healthy? o = true ↔ ∃ x, o = some x ∧ s.srcState x = .healthy := by
  cases o <;> simp [State.healthy?, State.healthy]

theorem excluded_iff : s.excluded n e = false ↔ ∀ l, (s.ctx n).lost = some l → l.excluded = true → e ≠ ⟨n, l.entry⟩ := by
  unfold State.excluded
  cases (s.ctx n).lost with
  | none => simp
  | some l => simp

/-- The terms that eligibility and readiness share. -/
theorem targetFits_iff : s.targetFits n e = true ↔ (∃ x, s.entrySource e = some x ∧ s.srcState x = .healthy) ∧
    s.avail (entryChan e) = true ∧ (e.sec = n ∨ s.closed .bkt = true ∧ e.entry ≠ .tie) ∧
    (e.entry = .tie → s.claimTest n = none) := by
  unfold State.targetFits
  simp only [Bool.and_eq_true, Bool.or_eq_true, healthy?_iff, beq_iff_eq, bne_iff_ne, Option.isNone_iff_eq_none, and_assoc]
  tauto

theorem eligible_iff : s.eligible n e = true ↔ s.targetFits n e = true ∧ s.excluded n e = false := by
  unfold State.eligible
  simp

theorem ready_iff {k : Entry} : s.ready n k = true ↔ s.targetFits n ⟨n, k⟩ = true ∧
    ((s.ctx n).role = .dependent → (s.ctx n.other).state.settled = true) := by
  unfold State.ready
  simp only [Bool.and_eq_true, Bool.or_eq_true, bne_iff_ne]
  tauto

/-- The return condition (R108). -/
theorem returnDue_iff : s.returnDue n = true ↔ s.held n = false ∧ s.plan.sec n .autoReturn = 1 ∧
    ∃ k, s.preferred n = some k ∧ (s.ctx n).feed ≠ some k ∧ s.ready n k = true := by
  unfold State.returnDue
  simp only [Bool.and_eq_true, Bool.not_eq_true', beq_iff_eq, and_assoc]
  cases s.preferred n with
  | none => simp
  | some k => simp

/-- Settles O50. -/
theorem tieTestsAndSelection : Obligations.TieTestsAndSelection := by
  intro s n o settled lends own bare
  have lent {y : Src} : ((s.ctx n.other).feed.bind (ownSource n.other) = some y) ↔
      ∃ f, (s.ctx n.other).feed = some f ∧ ownSource n.other f = some y := Option.bind_eq_some_iff
  have rest : o.state.settled = true ↔ settled := settled_iff
  have supplied (e : SecEntry) : (∃ x, s.entrySource e = some x ∧ s.srcState x = .healthy) ↔
      ∃ x, s.srcState x = .healthy ∧ if e.entry = .tie then s.paths e.sec.other = [x] else ownSource e.sec e.entry = some x := by
    simp only [entrySource_iff]
    exact exists_congr fun x => and_comm
  refine ⟨?claim, claimTest_owned, claimTest_tieUnavailable, fun free tie busy => ?busy, fun free tie at_rest not => ?notFed,
    fun f x free tie at_rest feed own healthy above => ?budget, fun x => rfl, serving_open, fun closed sole => ?serving,
    selEntries_own, fun serves => ?lists, held_iff, fun e => ?choose, fun c => avail_iff, ⟨fun e => ?eligible, fun e => ?ready⟩,
    ?due⟩
  case claim =>
    rw [claimTest_none_iff, rest]
    simp only [lent]
    constructor
    · rintro ⟨free, tie, at_rest, x, ⟨f, feed, own⟩, healthy, within⟩
      exact ⟨free, tie, at_rest, f, x, feed, own, healthy, within⟩
    · rintro ⟨free, tie, at_rest, f, x, feed, own, healthy, within⟩
      exact ⟨free, tie, at_rest, x, ⟨f, feed, own⟩, healthy, within⟩
  case busy => exact claimTest_otherBusy free tie (Bool.eq_false_iff.mpr fun h => busy (rest.mp h))
  case notFed =>
    refine claimTest_otherNotFed free tie (rest.mpr at_rest) fun y feed healthy => not ?_
    obtain ⟨f, feed, own⟩ := lent.mp feed
    exact ⟨f, y, feed, own, healthy⟩
  case budget =>
    rw [claimTest_lent free tie (rest.mpr at_rest) (lent.mpr ⟨f, feed, own⟩) healthy, if_pos above]
  case serving =>
    intro may
    rw [serving_sole closed sole]
    show (_ ↔ s.mode .sec1 = .auto ∧ _) ∧ (_ ↔ ¬(s.mode .sec1 = .auto ∧ _) ∧ s.mode .sec2 = .auto ∧ _)
    rw [← mayServe_iff, ← mayServe_iff]
    cases s.mayServe .sec1 <;> cases s.mayServe .sec2 <;> simp
  case lists =>
    rw [selEntries_supplying serves, prefs_bare, prefs_bare]
  case choose =>
    unfold State.choose
    rw [List.find?_eq_some_iff_append]
    constructor
    · rintro ⟨fits, l, r, list, before⟩
      exact ⟨l, r, list, fits, fun g mem => by simpa using before g mem⟩
    · rintro ⟨l, r, list, fits, before⟩
      exact ⟨fits, l, r, list, fun g mem => by simpa using before g mem⟩
  case eligible =>
    rw [eligible_iff, targetFits_iff, excluded_iff, supplied]
    tauto
  case ready =>
    rw [ready_iff, targetFits_iff, supplied, rest]
    tauto
  case due =>
    rw [returnDue_iff]
    unfold State.preferred
    cases list : s.plan.prefs n with
    | nil => simp
    | cons k l => simp

end Sys2Proof.Machine
end

section
/-! The acts of a section sequencer, each said once as the fields it sets (chapters 6 and 7), and the reports that pass. -/

namespace Sys2Proof.Machine

variable {s t u : State} {n m : Sec} {c : Chan}

/-! ### States and feeds (R101, R102) -/

/-- The watches as a section's new state leaves them (R64). -/
def watchesIn (w : BySec (Option Watch)) (n : Sec) (st : SeqState) : BySec (Option Watch) :=
  if st = .decay ∨ st = .sync then w else w.set n none

/-- The announcements as a section's new state leaves them (R150). -/
def annsIn (a : BySec (Option Announcement)) (n : Sec) (old st : SeqState) : BySec (Option Announcement) :=
  if old ≠ st ∧ st.atRest then a.set n none else a

theorem enter_eq (n : Sec) (st : SeqState) (s : State) : enter n st s = { s with
    seqs := s.seqs.set n ((s.ctx n).into st)
    ccu := { s.ccu with watches := watchesIn s.ccu.watches n st }
    lmg := { s.lmg with anns := annsIn s.lmg.anns n (s.ctx n).state st }
    agenda := s.agenda ++ if (s.ctx n).state = st then [] else [.seqState n] } := by
  unfold enter watchesIn annsIn
  dsimp only
  by_cases same : (s.ctx n).state = st
  · rw [if_pos same, if_pos same]
    have same' : (s.seqs.get n).state = st := same
    split <;> simp [same', setWatch, modSeq, State.ctx]
  · rw [if_neg same, if_neg same]
    split <;> split <;> simp_all [setWatch, modSeq, State.ctx, clearAnn, report]

theorem setFeed_eq (n : Sec) (e : Option Entry) (s : State) : setFeed n e s = { s with
    seqs := s.seqs.set n { s.ctx n with feed := e }
    agenda := s.agenda ++ if (s.ctx n).feed = e then [] else [.seqFeed n] } := by
  unfold setFeed
  split
  · rename_i same
    have whole : ({ s.ctx n with feed := e } : SecCtx) = s.ctx n := by rw [← same]
    rw [whole]
    simp [State.ctx]
  · rfl

theorem enter_ctx (n : Sec) (st : SeqState) (s : State) (m : Sec) :
    (enter n st s).ctx m = if n = m then (s.ctx n).into st else s.ctx m := by
  rw [enter_eq]
  exact BySec.get_set _ _ _ _

theorem setFeed_ctx (n : Sec) (e : Option Entry) (s : State) (m : Sec) :
    (setFeed n e s).ctx m = if n = m then { s.ctx n with feed := e } else s.ctx m := by
  rw [setFeed_eq]
  exact BySec.get_set _ _ _ _

theorem enter_bcu (n : Sec) (st : SeqState) (s : State) : (enter n st s).bcu = s.bcu := by rw [enter_eq]
theorem setFeed_bcu (n : Sec) (e : Option Entry) (s : State) : (setFeed n e s).bcu = s.bcu := by rw [setFeed_eq]

theorem enter_agenda (n : Sec) (st : SeqState) (s : State) :
    (enter n st s).agenda = s.agenda ++ if (s.ctx n).state = st then [] else [.seqState n] := by rw [enter_eq]

theorem setFeed_agenda (n : Sec) (e : Option Entry) (s : State) :
    (setFeed n e s).agenda = s.agenda ++ if (s.ctx n).feed = e then [] else [.seqFeed n] := by rw [setFeed_eq]

/-! ### A section in MANUAL follows the board (R165) -/

/-- A section's context as it tracks the board. -/
def State.trackedCtx (s : State) (n : Sec) : SecCtx :=
  if (s.ctx n).state = .halted then { s.ctx n with feed := s.adoptedFeed n }
  else
    match s.paths n with
    | [x] => ({ s.ctx n with feed := some (pathEntry n x) } : SecCtx).into .fed
    | [] => ({ s.ctx n with feed := none } : SecCtx).into .waitSource
    | _ => s.ctx n

theorem track_ctx (n : Sec) (s : State) (m : Sec) : (track n s).ctx m = if n = m then s.trackedCtx n else s.ctx m := by
  unfold track State.trackedCtx
  split
  · exact setFeed_ctx _ _ _ _
  · cases s.paths n with
    | nil =>
      dsimp only
      rw [enter_ctx, setFeed_ctx, setFeed_ctx]
      by_cases e : n = m <;> simp [e]
    | cons x l =>
      cases l with
      | nil =>
        dsimp only
        rw [enter_ctx, setFeed_ctx, setFeed_ctx]
        by_cases e : n = m <;> simp [e]
      | cons y l =>
        dsimp only
        split
        · rename_i e
          rw [e]
        · rfl

theorem trackedCtx_congr (bcu : t.bcu = s.bcu) (ctx : t.ctx n = s.ctx n) : t.trackedCtx n = s.trackedCtx n := by
  have paths : t.paths n = s.paths n := by
    unfold State.paths State.islandOf
    rw [closedPaths_of_bcu bcu, closed_of_bcu bcu]
  unfold State.trackedCtx State.adoptedFeed State.islandSource
  rw [ctx, paths]

/-- Tracking makes reports on which nothing acts. -/
theorem track_agenda (n : Sec) (s : State) : ∃ l, (track n s).agenda = s.agenda ++ l ∧ ∀ r ∈ l, r.inert = true := by
  have feed (e : Option Entry) (s : State) : ∃ l, (setFeed n e s).agenda = s.agenda ++ l ∧ ∀ r ∈ l, r.inert = true := by
    rw [setFeed_agenda]
    split
    · exact ⟨[], rfl, by simp⟩
    · exact ⟨_, rfl, by simp [Report.inert]⟩
  have state (st : SeqState) (s : State) : ∃ l, (enter n st s).agenda = s.agenda ++ l ∧ ∀ r ∈ l, r.inert = true := by
    rw [enter_agenda]
    split
    · exact ⟨[], rfl, by simp⟩
    · exact ⟨_, rfl, by simp [Report.inert]⟩
  have both (e : Option Entry) (st : SeqState) : ∃ l, (enter n st (setFeed n e s)).agenda = s.agenda ++ l ∧
      ∀ r ∈ l, r.inert = true := by
    obtain ⟨a, first, inert⟩ := feed e s
    obtain ⟨b, second, inert'⟩ := state st (setFeed n e s)
    refine ⟨a ++ b, by rw [second, first, List.append_assoc], fun r mem => ?_⟩
    exact (List.mem_append.mp mem).elim (inert r) (inert' r)
  unfold track
  split
  · exact feed _ s
  · split
    · exact both _ _
    · exact both _ _
    · exact ⟨[], by simp, by simp⟩

/-- A report of a contact to a section. -/
def Report.contactOf (r : Report) (n : Sec) : Bool :=
  match r with
  | .contact m .. => m == n
  | _ => false

theorem contactOf_inert {r : Report} (i : r.inert = true) : r.contactOf n = false := by cases r <;> simp_all [Report.inert, Report.contactOf]

/-- A report that a still event of the contacts makes: one on which nothing acts, or that of a contact. -/
def Report.tracks (r : Report) : Prop := r.inert = true ∨ ∃ m c h o, r = .contact m c h o

/-- One report taken with both sections in MANUAL. -/
theorem handle_tracks {r : Report} (kind : r.tracks) (manual : s.BothManual) (pending : s.pst.pendingPage = none) (n : Sec) :
    (runAll (handle r s)).ctx n = (if r.contactOf n then s.trackedCtx n else s.ctx n) ∧
    ∃ l, (runAll (handle r s)).agenda = s.agenda ++ l ∧ ∀ q ∈ l, q.inert = true := by
  have same : (runAll (handle r s)).ctx n = (handle r s).ctx n := by
    unfold State.ctx
    rw [runAll_seqs]
  rw [same, runAll_agenda]
  rcases kind with inert | ⟨m, c, h, o, rfl⟩
  · rw [handle_inert inert manual pending, contactOf_inert inert]
    exact ⟨rfl, [], by simp, by simp⟩
  · have tracked : handle (.contact m c h o) s = track m s := by
      show contactSeen m c h o s = _
      unfold contactSeen
      rw [if_pos (by rw [auto_of_manual manual]; rfl)]
    rw [tracked, track_ctx]
    refine ⟨?_, track_agenda m s⟩
    by_cases e : m = n
    · subst e
      simp [Report.contactOf]
    · simp [Report.contactOf, e]

/-- Both sections in MANUAL, told of a contact at most once each, follow the board once, and every other report leaves them. -/
theorem drain_tracks (k : Nat) (a b : List Report) (manual : s.BothManual) (pending : s.pst.pendingPage = none)
    (agenda : s.agenda = a ++ b) (kind : ∀ r ∈ a ++ b, r.tracks) (once : (a.filter (·.contactOf n)).length ≤ 1)
    (none : b.any (·.contactOf n) = false) (few : a.length ≤ k) :
    (drain k s).ctx n = if a.any (·.contactOf n) then s.trackedCtx n else s.ctx n := by
  induction k generalizing s a b with
  | zero =>
    rw [List.length_eq_zero_iff.mp (Nat.le_zero.mp few)]
    rfl
  | succ k ih =>
    cases whole : a ++ b with
    | nil =>
      rw [drain_none _ (agenda.trans whole), (List.append_eq_nil_iff.mp whole).1]
      rfl
    | cons r rest =>
      rw [drain_cons (r := r) (rest := rest) _ (agenda.trans whole)]
      let u : State := { s with agenda := rest }
      rw [whole] at kind
      obtain ⟨ctx, l, left, inert⟩ := handle_tracks (s := u) (kind r List.mem_cons_self) manual pending n
      have quiet : Quiet u (runAll (handle r u)) := (handle_quiet (s := u) r manual pending).trans (runAll_quiet _)
      have silent : l.any (·.contactOf n) = false := List.any_eq_false.mpr fun q mem => by simp [contactOf_inert (inert q mem)]
      have later (a' b' : List Report) (split : rest = a' ++ b') (once' : (a'.filter (·.contactOf n)).length ≤ 1)
          (none' : b'.any (·.contactOf n) = false) (few' : a'.length ≤ k) :
          (drain k (runAll (handle r u))).ctx n =
            if a'.any (·.contactOf n) then (runAll (handle r u)).trackedCtx n else (runAll (handle r u)).ctx n := by
        refine ih a' (b' ++ l) (quiet.manual manual) (quiet.pending pending) ?_ (fun q mem => ?_) once' ?_ few'
        · rw [left, ← List.append_assoc, ← split]
        · rw [← List.append_assoc, ← split] at mem
          exact (List.mem_append.mp mem).elim (fun h => kind q (List.mem_cons_of_mem _ h)) fun h => .inl (inert q h)
        · rw [List.any_append, none', silent]
          rfl
      cases a with
      | nil =>
        have own : r.contactOf n = false := by
          rw [show b = r :: rest from whole] at none
          simpa using (List.any_eq_false.mp none) r List.mem_cons_self
        rw [later [] rest rfl (by simp) ?_ (by simp), ctx, own]
        · rfl
        · rw [show b = r :: rest from whole, List.any_cons, Bool.or_eq_false_iff] at none
          exact none.2
      | cons r' a =>
        obtain ⟨rfl, split⟩ := List.cons.inj whole
        rw [List.any_cons]
        rw [later a b split.symm ?_ none (by simpa using few), ctx]
        · cases own : r'.contactOf n with
          | false =>
            have same : (runAll (handle r' u)).trackedCtx n = s.trackedCtx n :=
              (trackedCtx_congr quiet.bcu (ctx.trans (by rw [own]; rfl))).trans rfl
            rw [same]
            rfl
          | true =>
            have rest_silent : a.any (·.contactOf n) = false := by
              rw [List.filter_cons_of_pos (p := fun q : Report => q.contactOf n) own, List.length_cons] at once
              have gone : a.filter (·.contactOf n) = [] := List.length_eq_zero_iff.mp (by omega)
              exact List.any_eq_false.mpr (List.filter_eq_nil_iff.mp gone)
            rw [rest_silent]
            rfl
        · exact (List.Sublist.length_le ((List.sublist_cons_self r' a).filter _)).trans once

end Sys2Proof.Machine
end

section
/-! A new AUX level with both sections in MANUAL (R76, R84 to R89, R132, R133, R165). -/

namespace Sys2Proof.Machine

variable {s t u : State} {n m : Sec} {c : Chan} {level : Bool}

/-! ### The reports of a contact (R84 to R88) -/

/-- The report of an operation that a contact confirms (R84, R85). -/
def operationReports (c : Chan) (kind : ContactKind) (op : Option Operation) (m : Nat) : List Report :=
  match kind, op with
  | .confirmClose, some o => [.closeConfirmed c o.requester m]
  | .confirmOpen, _ => [.tripConfirmed c]
  | _, _ => []

theorem operationReports_inert (c : Chan) (kind : ContactKind) (op : Option Operation) (m : Nat) :
    (∀ r ∈ operationReports c kind op m, r.inert = true) ∧ (operationReports c kind op m).length ≤ 1 := by
  unfold operationReports
  split <;> simp [Report.inert]

/-- The reports that a contact makes. -/
def contactReports (s : State) (c : Chan) (kind : ContactKind) (op : Option Operation) (m : Nat) : List Report :=
  (if s.told c .sec1 then [.contact .sec1 c kind op] else []) ++
  (if s.told c .sec2 then [.contact .sec2 c kind op] else []) ++ operationReports c kind op m

theorem reportContact_eq (c : Chan) (kind : ContactKind) (op : Option Operation) (m : Nat) (s : State) :
    reportContact c kind op m s = { s with agenda := s.agenda ++ contactReports s c kind op m } := by
  unfold reportContact contactReports operationReports report
  dsimp only
  cases s.told c .sec1 <;> cases s.told c .sec2 <;> cases kind <;> cases op <;> simp

theorem contactReports_tracks (kind : ContactKind) (op : Option Operation) (k : Nat) :
    ∀ r ∈ contactReports s c kind op k, r.tracks := by
  have told (b : Bool) (n : Sec) : ∀ r ∈ (if b then [Report.contact n c kind op] else []), r.tracks := by
    intro r mem
    cases b
    · cases mem
    · exact .inr ⟨_, _, _, _, List.mem_singleton.mp mem⟩
  intro r mem
  unfold contactReports at mem
  simp only [List.mem_append] at mem
  rcases mem with (mem | mem) | mem
  · exact told _ _ r mem
  · exact told _ _ r mem
  · exact .inl ((operationReports_inert c kind op k).1 r mem)

theorem contactReports_few (kind : ContactKind) (op : Option Operation) (k : Nat) : (contactReports s c kind op k).length ≤ 3 := by
  have told (b : Bool) (n : Sec) : (if b then [Report.contact n c kind op] else []).length ≤ 1 := by cases b <;> simp
  have last := (operationReports_inert c kind op k).2
  have first := told (s.told c .sec1) .sec1
  have second := told (s.told c .sec2) .sec2
  unfold contactReports
  simp only [List.length_append]
  omega

/-- Reports on which nothing acts tell no section of a contact. -/
theorem filter_inert {l : List Report} (i : ∀ r ∈ l, r.inert = true) (n : Sec) :
    l.filter (fun r => r.contactOf n) = [] :=
  List.filter_eq_nil_iff.mpr fun r mem => by simp [contactOf_inert (i r mem)]

/-- Each section told is told once. -/
theorem contactReports_of (kind : ContactKind) (op : Option Operation) (k : Nat) (n : Sec) :
    (contactReports s c kind op k).filter (fun r => r.contactOf n) = if s.told c n then [.contact n c kind op] else [] := by
  unfold contactReports
  simp only [List.filter_append, filter_inert (operationReports_inert c kind op k).1 n]
  cases n <;> cases s.told c .sec1 <;> cases s.told c .sec2 <;> rfl

theorem contactReports_any (kind : ContactKind) (op : Option Operation) (k : Nat) (n : Sec) :
    (contactReports s c kind op k).any (fun r => r.contactOf n) = s.told c n := by
  rw [List.any_eq_not_all_not, ← Bool.not_not (s.told c n)]
  congr 1
  rw [Bool.eq_iff_iff, List.all_eq_true]
  have only := contactReports_of (s := s) (c := c) kind op k n
  cases told : s.told c n with
  | false =>
    rw [told] at only
    simpa using List.filter_eq_nil_iff.mp only
  | true =>
    have mem : Report.contact n c kind op ∈ (contactReports s c kind op k).filter (fun r => r.contactOf n) := by
      rw [only, told]
      exact List.mem_singleton.mpr rfl
    obtain ⟨mem, own⟩ := List.mem_filter.mp mem
    simp only [Bool.not_true, Bool.false_eq_true, iff_false]
    intro silent
    simpa [own] using silent _ mem

/-! ### The channel's record (R76, R84 to R89) -/

section Record

variable {r : ChanRec} {now : Nat}

/-- A change of AUX moves the pin and, as its kind says, the position and the operation. -/
theorem auxChanged_rest (r : ChanRec) (level : Bool) (now : Nat) :
    let u := r.auxChanged level now
    u.aux = ⟨level, level, level, none⟩ ∧ u.ready = r.ready ∧ u.racked = r.racked ∧ u.prot = r.prot ∧
    u.cmdClosed = r.cmdClosed ∧ u.fault = r.fault := by
  unfold ChanRec.auxChanged InputPin.accept
  dsimp only
  split
  case h_4 | h_5 | h_6 => split <;> exact ⟨rfl, rfl, rfl, rfl, rfl, rfl⟩
  all_goals exact ⟨rfl, rfl, rfl, rfl, rfl, rfl⟩

theorem auxChanged_confirmed {o : Operation} (closing : r.position = .closing) (op : r.op = some o) :
    let u := r.auxChanged true now
    u.position = .isClosed ∧ u.op = none ∧ u.closeEnd = none ∧ u.lastM = some (now - o.trigAt) ∧
    u.tc = learn r.tc (now - o.trigAt) := by
  have kind : r.contactKind true = .confirmClose := by simp [ChanRec.contactKind, closing]
  have measured : r.measured now = now - o.trigAt := by simp [ChanRec.measured, op]
  unfold ChanRec.auxChanged
  rw [kind, measured]
  exact ⟨rfl, rfl, rfl, rfl, rfl⟩

theorem auxChanged_opened (opening : r.position = .opening) :
    let u := r.auxChanged false now
    u.position = .isOpen ∧ u.op = none ∧ u.tripEnd = none := by
  have kind : r.contactKind false = .confirmOpen := by simp [ChanRec.contactKind, opening]
  unfold ChanRec.auxChanged
  rw [kind]
  exact ⟨rfl, rfl, rfl⟩

theorem auxChanged_reclosed (opening : r.position = .opening) : r.auxChanged true now = { r with aux := r.aux.accept true } := by
  have kind : r.contactKind true = .inOperation := by simp [ChanRec.contactKind, opening]
  unfold ChanRec.auxChanged
  rw [kind]

/-- In OPEN and CLOSED the position follows. -/
theorem auxChanged_followed (rest : r.position = .isOpen ∨ r.position = .isClosed) : r.auxChanged level now =
    { r with aux := r.aux.accept level, position := if level then .isClosed else .isOpen } := by
  have kind : r.contactKind level = if level then .externalClose else .externalOpen := by
    cases level <;> rcases rest with e | e <;> simp [ChanRec.contactKind, e]
  unfold ChanRec.auxChanged
  rw [kind]
  cases level <;> rcases rest with e | e <;> simp [e]

/-- In FAULTED and LOCKED it is held. -/
theorem auxChanged_held (held : r.position = .faulted ∨ r.position = .locked) : r.auxChanged level now =
    { r with aux := r.aux.accept level } := by
  have kind : r.contactKind level = .externalClose ∨ r.contactKind level = .externalOpen ∨ r.contactKind level = .protectionOpen := by
    cases level <;> rcases held with e | e <;> simp [ChanRec.contactKind, e]
  unfold ChanRec.auxChanged
  rcases kind with e | e | e <;> rw [e] <;> rcases held with h | h <;> simp [h]

theorem contactKind_followed (rest : r.position = .isOpen ∨ r.position = .isClosed) :
    r.contactKind level = (if level then .externalClose else .externalOpen) ∧ r.position.held? = none := by
  cases level <;> rcases rest with e | e <;> simp [ChanRec.contactKind, Position.held?, e]

theorem contactKind_held (held : r.position = .faulted ∨ r.position = .locked) :
    r.contactKind level = (if level then .externalClose
      else if r.position = .locked ∧ r.prot.accepted = true then .protectionOpen else .externalOpen) ∧
    r.position.held? = some r.position := by
  cases level <;> rcases held with e | e <;> simp [ChanRec.contactKind, Position.held?, e]

theorem external_followed (rest : r.position = .isOpen ∨ r.position = .isClosed) : (r.contactKind level).external = true := by
  rw [(contactKind_followed rest).1]
  split <;> rfl

theorem external_held (held : r.position = .faulted ∨ r.position = .locked) : (r.contactKind level).external = true := by
  rw [(contactKind_held held).1]
  split
  · rfl
  · split <;> rfl

end Record

/-! ### The acceptance and its event -/

/-- The state after a new AUX level, before its contacts are told: the tie and the islands follow the board. -/
def auxFollowed (c : Chan) (level : Bool) (s : State) : State :=
  let t := tieFromBoard (modChan c (fun r => r.auxChanged level s.now) s)
  let kind := (s.bcu.get c).contactKind level
  reformIslands (if kind.external then post (.breakerExternal c kind (s.bcu.get c).position.held?) t else t)

theorem auxAccept_eq (new : (s.bcu.get c).aux.accepted = !level) (adopted : s.adopted = true) :
    auxAccept c level s = { auxFollowed c level s with
      agenda := (auxFollowed c level s).agenda ++ contactReports (auxFollowed c level s) c ((s.bcu.get c).contactKind level)
        (s.bcu.get c).op ((s.bcu.get c).measured s.now) } := by
  unfold auxAccept
  dsimp only
  rw [if_neg (by rw [new]; cases level <;> decide), if_pos adopted, reportContact_eq]
  rfl

/-- What the acceptance has made of the board before the contacts are told. -/
structure AuxFollowed (s : State) (c : Chan) (level : Bool) (t : State) : Prop where
  bcu     : t.bcu = s.bcu.set c ((s.bcu.get c).auxChanged level s.now)
  hlc     : t.hlc = s.hlc
  pst     : t.pst = s.pst
  squ     : t.squ = s.squ
  ccu     : t.ccu = s.ccu
  mdc     : t.mdc = s.mdc
  now     : t.now = s.now
  adopted : t.adopted = s.adopted
  service : t.spt.service = s.spt.service
  ctx     : ∀ n, ∃ r, t.ctx n = { s.ctx n with role := r }
  tie     : (t.closed .bkt = false → t.owner = none ∧ ∀ n, (t.ctx n).role = .sole) ∧
    (∀ x, t.closed .bkt = true → t.closedPaths allSecs = [x] → (t.ctx (srcSec x)).role = .supplying ∧
      (t.ctx (srcSec x).other).role = .dependent ∧ t.owner = some (srcSec x).other) ∧
    (t.closed .bkt = true → (t.closedPaths allSecs).length ≠ 1 → t.owner = s.owner ∧ ∀ n, t.ctx n = s.ctx n)
  agenda  : ∃ l, t.agenda = s.agenda ++ l ∧ (∀ r ∈ l, r = .availability c ∨ r = .tieOwner) ∧ l.length ≤ 2
  notes   : NotesGrow s t
  noted   : ((s.bcu.get c).contactKind level).external = true →
    t.Noted (.breakerExternal c ((s.bcu.get c).contactKind level) (s.bcu.get c).position.held?)

/-- The report that a change of a channel makes (R92). -/
def availReports (s : State) (c : Chan) (r : ChanRec) : List Report :=
  if s.adopted && (r.available != (s.bcu.get c).available) then [.availability c] else []

theorem modChan_agenda (c : Chan) (f : ChanRec → ChanRec) (s : State) : modChan c f s = { s with
    bcu := s.bcu.set c (f (s.bcu.get c)), agenda := s.agenda ++ availReports s c (f (s.bcu.get c)) } := by
  unfold modChan availReports report
  dsimp only
  split
  · rfl
  · simp

theorem availReports_few (s : State) (c : Chan) (r : ChanRec) :
    (∀ q ∈ availReports s c r, q = .availability c) ∧ (availReports s c r).length ≤ 1 := by
  unfold availReports
  split <;> simp

theorem auxFollowed_follows (c : Chan) (level : Bool) (s : State) : AuxFollowed s c level (auxFollowed c level s) := by
  obtain ⟨v, hv⟩ : ∃ v, v = modChan c (fun r => r.auxChanged level s.now) s := ⟨_, rfl⟩
  have e := hv.trans (modChan_agenda c (fun r => r.auxChanged level s.now) s)
  obtain ⟨avail, few⟩ := availReports_few s c ((s.bcu.get c).auxChanged level s.now)
  obtain ⟨w, hw⟩ : ∃ w, w = tieFromBoard v := ⟨_, rfl⟩
  have tie : TieOnly v w := hw ▸ tieFromBoard_tieOnly v
  obtain ⟨port, x, hx, xe, notes, noted⟩ : ∃ port x, x = (if ((s.bcu.get c).contactKind level).external then
      post (.breakerExternal c ((s.bcu.get c).contactKind level) (s.bcu.get c).position.held?) w else w) ∧
      x = { w with spt := port } ∧ NotesGrow w x ∧ (((s.bcu.get c).contactKind level).external = true →
        x.Noted (.breakerExternal c ((s.bcu.get c).contactKind level) (s.bcu.get c).position.held?)) := by
    cases ((s.bcu.get c).contactKind level).external with
    | false => exact ⟨w.spt, w, rfl, rfl, .refl w, nofun⟩
    | true => exact ⟨_, _, rfl, post_eq _ w, .post _ w, fun _ => noted_post _ w⟩
  have final : auxFollowed c level s = reformIslands x := by
    unfold auxFollowed
    rw [hx, hw, hv]
  have load : LoadOnly x (reformIslands x) := reformIslands_load x
  have later : NotesGrow x (reformIslands x) := (reformIslands_moves (.refl (s := x))).notesGrow
  have port_same : port.service = s.spt.service := by
    have : x.spt.service = w.spt.service := by
      rw [hx]
      split
      · exact post_spt_service _ _
      · rfl
    rw [xe] at this
    exact this.trans ((congrArg SptState.service tie.spt_eq).trans (by rw [e]))
  have bcu : (reformIslands x).bcu = s.bcu.set c ((s.bcu.get c).auxChanged level s.now) := by
    rw [load.bcu_eq, xe]
    exact tie.bcu_eq.trans (by rw [e])
  have bcuW : (reformIslands x).bcu = v.bcu := by rw [bcu, e]
  have seqs : (reformIslands x).seqs = w.seqs := by rw [load.seqs_eq, xe]
  have owner : (reformIslands x).owner = w.owner := (congrArg State.owner load :).trans (by rw [xe])
  have vctx (n : Sec) : v.ctx n = s.ctx n := by rw [e]; rfl
  have wctx (n : Sec) : (reformIslands x).ctx n = w.ctx n := congrArg (BySec.get · n) seqs
  have closed : (reformIslands x).closed .bkt = v.closed .bkt := closed_of_bcu bcuW _
  have paths : (reformIslands x).closedPaths allSecs = v.closedPaths allSecs := closedPaths_of_bcu bcuW _
  obtain ⟨opened, one⟩ := tieFromBoard_roles v
  rw [← hw] at opened one
  rw [final]
  refine ⟨bcu, ?hlc, ?pst, ?squ, ?ccu, ?mdc, ?now, ?adopted, ?service, fun n => ?ctx, ⟨fun o => ?opened, fun y cl path => ?one, fun cl many => ?many⟩,
    ?agenda, ?notes, fun ext => ?noted⟩
  case hlc => rw [load.hlc_eq, xe]; exact (congrArg State.hlc tie.eq :).trans (by rw [e])
  case pst => rw [load.pst_eq, xe]; exact tie.pst_eq.trans (by rw [e])
  case squ => exact (congrArg State.squ load :).trans (by rw [xe]; exact (congrArg State.squ tie.eq :).trans (by rw [e]))
  case ccu => exact (congrArg State.ccu load :).trans (by rw [xe]; exact (congrArg State.ccu tie.eq :).trans (by rw [e]))
  case mdc => rw [load.mdc_eq, xe]; exact tie.mdc_eq.trans (by rw [e])
  case now => rw [load.now_eq, xe]; exact (congrArg State.now tie.eq :).trans (by rw [e])
  case adopted => exact (congrArg State.adopted load :).trans (by rw [xe]; exact (congrArg State.adopted tie.eq :).trans (by rw [e]))
  case service => exact (congrArg (fun u : State => u.spt.service) load :).trans (by rw [xe]; exact port_same)
  case ctx =>
    obtain ⟨r, role⟩ := tieFromBoard_ctx v n
    exact ⟨r, by rw [wctx, hw, role, vctx]⟩
  case opened =>
    rw [closed] at o
    exact ⟨owner.trans (opened o).1, fun n => by rw [wctx]; exact (opened o).2 n⟩
  case one =>
    rw [closed] at cl
    rw [paths] at path
    rw [wctx, wctx, owner]
    exact one y cl path
  case many =>
    rw [closed] at cl
    rw [paths] at many
    have kept : w = v := hw.trans (tieFromBoard_kept cl many)
    exact ⟨by rw [owner, kept, e], fun n => by rw [wctx, kept, vctx]⟩
  case agenda =>
    have same : (reformIslands x).agenda = w.agenda := (congrArg State.agenda load :).trans (by rw [xe])
    have va : v.agenda = s.agenda ++ availReports s c ((s.bcu.get c).auxChanged level s.now) := by rw [e]
    rw [same, hw]
    rcases tieFromBoard_agenda v with a | a
    · exact ⟨_, by rw [a, va], fun r mem => .inl (avail r mem), by omega⟩
    · refine ⟨_, by rw [a, va, List.append_assoc], fun r mem => ?_, by rw [List.length_append, List.length_singleton]; omega⟩
      exact (List.mem_append.mp mem).imp (avail r) List.mem_singleton.mp
  case notes =>
    have port : w.spt = s.spt := tie.spt_eq.trans (by rw [e])
    exact ((NotesGrow.of_spt (by rw [port]) (by rw [port])).trans notes).trans later
  case noted => exact later.noted (noted ext)

theorem told_congr (h : t.bcu = s.bcu) (c : Chan) (n : Sec) : t.told c n = s.told c n := by
  unfold State.told
  rw [closed_of_bcu h]

theorem paths_of_bcu (h : t.bcu = s.bcu) (n : Sec) : t.paths n = s.paths n := by
  unfold State.paths State.islandOf
  rw [closedPaths_of_bcu h, closed_of_bcu h]

/-- The end of a new AUX level's event in MANUAL: each section told follows the board, the other stays. -/
theorem auxAccept_settled (new : (s.bcu.get c).aux.accepted = !level) (calm : s.agenda = []) (manual : s.BothManual)
    (pending : s.pst.pendingPage = none) (adopted : s.adopted = true) :
    let f := auxFollowed c level s
    let t := settle (auxAccept c level s)
    Quiet f t ∧ NotesGrow f t ∧ ∀ n, t.ctx n = if f.told c n then f.trackedCtx n else f.ctx n := by
  intro f t
  have follows := auxFollowed_follows c level s
  obtain ⟨l, agenda, few, short⟩ := follows.agenda
  rw [calm, List.nil_append] at agenda
  let reports := contactReports f c ((s.bcu.get c).contactKind level) (s.bcu.get c).op ((s.bcu.get c).measured s.now)
  let a : State := { f with agenda := l ++ reports }
  have accepted : auxAccept c level s = a := by
    rw [auxAccept_eq new adopted, agenda]
  have manual' : a.BothManual := fun n => by
    show f.mdc.modes.get n = _
    rw [follows.mdc]
    exact manual n
  have pending' : a.pst.pendingPage = none := (congrArg PstState.pendingPage follows.pst).trans pending
  have inert : ∀ r ∈ l, r.inert = true := fun r mem => by rcases few r mem with e | e <;> rw [e] <;> rfl
  have quiet : Quiet f a := ⟨rfl, rfl, rfl, rfl, rfl, rfl, rfl, rfl, rfl, fun _ => rfl, rfl, rfl, rfl, rfl⟩
  refine ⟨?_, ?_, fun n => ?_⟩
  · show Quiet f (settle (auxAccept c level s))
    rw [accepted]
    exact quiet.trans (settle_quiet manual' pending')
  · show NotesGrow f (settle (auxAccept c level s))
    rw [accepted]
    exact (NotesGrow.of_spt rfl rfl).trans (settle_moves (.refl (s := a))).notesGrow
  · have formed : (runAll a).agenda = (l ++ reports) ++ [] := by rw [runAll_agenda, List.append_nil]
    have q := runAll_quiet a
    have drained := drain_tracks (s := runAll a) (n := n) 4096 (l ++ reports) [] (q.manual manual') (q.pending pending')
      formed (fun r mem => ?_) ?_ rfl ?_
    · have any : (l ++ reports).any (fun r => r.contactOf n) = f.told c n := by
        rw [List.any_append, contactReports_any,
          List.any_eq_false.mpr fun r mem => by simp [contactOf_inert (inert r mem)]]
        exact Bool.false_or _
      have ctx : (runAll a).ctx n = f.ctx n := congrArg (BySec.get · n) (runAll_seqs a)
      show (settle (auxAccept c level s)).ctx n = _
      rw [accepted, settle, drained, any, trackedCtx_congr (t := runAll a) (s := f) (runAll_bcu a) ctx, ctx]
    · rw [List.append_nil] at mem
      exact (List.mem_append.mp mem).elim (fun h => .inl (inert r h)) (contactReports_tracks _ _ _ r)
    · rw [List.filter_append, filter_inert inert, contactReports_of]
      cases f.told c n <;> simp
    · have := contactReports_few (s := f) (c := c) ((s.bcu.get c).contactKind level) (s.bcu.get c).op
        ((s.bcu.get c).measured s.now)
      rw [List.length_append]
      show l.length + (contactReports f c _ _ _).length ≤ 4096
      omega

section Tracked

theorem trackedCtx_halted (h : (s.ctx n).state = .halted) : s.trackedCtx n = { s.ctx n with feed := s.adoptedFeed n } := by
  unfold State.trackedCtx
  rw [if_pos h]

theorem trackedCtx_dead (moving : (s.ctx n).state ≠ .halted) (dead : s.paths n = []) :
    s.trackedCtx n = ({ s.ctx n with feed := none } : SecCtx).into .waitSource := by
  unfold State.trackedCtx
  rw [if_neg moving, dead]

theorem trackedCtx_fed {x : Src} (moving : (s.ctx n).state ≠ .halted) (one : s.paths n = [x]) :
    s.trackedCtx n = ({ s.ctx n with feed := some (pathEntry n x) } : SecCtx).into .fed := by
  unfold State.trackedCtx
  rw [if_neg moving, one]

theorem trackedCtx_parallel {x y : Src} {l : List Src} (moving : (s.ctx n).state ≠ .halted) (many : s.paths n = x :: y :: l) :
    s.trackedCtx n = s.ctx n := by
  unfold State.trackedCtx
  rw [if_neg moving, many]

end Tracked

/-- Settles O39. -/
theorem auxChangeFollows : Obligations.AuxChangeFollows := by
  intro s c level calm manual pending adopted new
  have follows := auxFollowed_follows c level s
  obtain ⟨quiet, notes, ctx⟩ := auxAccept_settled new calm.2 manual pending adopted
  generalize auxFollowed c level s = f at *
  refine ⟨_, exec_event rfl calm.1, ?_⟩
  show _ ∧ _
  generalize settle (auxAccept c level s) = t at *
  have bcu : t.bcu = s.bcu.set c ((s.bcu.get c).auxChanged level s.now) := quiet.bcu.trans follows.bcu
  have record : t.bcu.get c = (s.bcu.get c).auxChanged level s.now := by rw [bcu]; exact ByChan.get_set_self _ _ _
  have closed (d : Chan) : t.closed d = f.closed d := closed_of_bcu quiet.bcu d
  have paths (l : List Sec) : t.closedPaths l = f.closedPaths l := closedPaths_of_bcu quiet.bcu l
  refine ⟨fun d ne => ?others, quiet.hlc.trans follows.hlc, ?pages, ?modes, ?rest⟩
  case others => rw [bcu]; exact ByChan.get_set_other _ _ (Ne.symm ne)
  case pages => rw [quiet.pst, follows.pst]
  case modes => rw [quiet.mdc, follows.mdc]
  case rest =>
    intro r u
    have changed : u = r.auxChanged level s.now := record
    obtain ⟨aux, ready, racked, prot, cmd, fault⟩ := auxChanged_rest r level s.now
    have role (n : Sec) : (t.ctx n).role = (f.ctx n).role := quiet.roles n
    have noted {m : Note} (h : f.Noted m) : t.Noted m := notes.noted h
    obtain ⟨opened, one, many⟩ := follows.tie
    rw [changed]
    refine ⟨aux, ready, racked, prot, cmd, fault, fun o closing op l => ?_, fun opening l => ?_, fun opening l => ?_,
      fun rest => ?_, fun held => ?_, fun o => ?opened, fun x cl path => ?one, fun cl path => ?many, fun rest => ?external,
      fun held => ?held, fun n => ?section_⟩
    · subst l
      exact auxChanged_confirmed closing op
    · subst l
      exact auxChanged_opened opening
    · subst l
      rw [auxChanged_reclosed opening]
      exact ⟨opening, rfl, rfl⟩
    · rw [auxChanged_followed rest]
    · rw [auxChanged_held held]
      exact ⟨rfl, rfl⟩
    case opened =>
      rw [closed] at o
      rw [quiet.owner]
      exact ⟨(opened o).1, fun n => (role n).trans ((opened o).2 n)⟩
    case one =>
      rw [closed] at cl
      rw [paths] at path
      rw [quiet.owner, role, role]
      exact one x cl path
    case many =>
      rw [closed] at cl
      rw [paths] at path
      obtain ⟨owner, same⟩ := many cl path
      exact ⟨quiet.owner.trans owner, fun n => by rw [role, same]⟩
    case external =>
      obtain ⟨kind, at_rest⟩ := contactKind_followed (level := level) rest
      have posted := noted (follows.noted (external_followed rest))
      rw [kind, at_rest] at posted
      exact posted
    case held =>
      obtain ⟨kind, at_rest⟩ := contactKind_held (level := level) held
      have posted := noted (follows.noted (external_held held))
      rw [kind, at_rest] at posted
      exact posted
    case section_ =>
      obtain ⟨ρ, fctx⟩ := follows.ctx n
      have state : (f.ctx n).state = (s.ctx n).state := by rw [fctx]
      rw [ctx n, paths_of_bcu quiet.bcu, closed]
      intro k v entry
      cases told : f.told c n with
      | false =>
        rw [if_neg (by simpa [State.told] using told)]
        have shown : v = f.ctx n := if_neg (by simp [told])
        clear_value v
        subst shown
        rw [fctx]
      | true =>
        rw [if_pos (by simpa [State.told] using told)]
        have shown : v = f.trackedCtx n := if_pos told
        clear_value v
        subst shown
        refine ⟨fun moving => ?_, fun halted => ?_⟩
        · have live : (f.ctx n).state ≠ .halted := by
            rw [state]
            rcases moving with e | e <;> rw [e] <;> decide
          cases p : f.paths n with
          | nil => rw [trackedCtx_dead live p]; exact ⟨rfl, rfl⟩
          | cons x l =>
            cases l with
            | nil => rw [trackedCtx_fed live p]; exact ⟨rfl, rfl, rfl⟩
            | cons y l => rw [trackedCtx_parallel live p, fctx]; exact ⟨rfl, rfl⟩
        · rw [trackedCtx_halted (state.trans halted), fctx]
          refine ⟨halted, rfl, ?_⟩
          show f.adoptedFeed n = _
          unfold State.adoptedFeed State.islandSource
          cases f.paths n with
          | nil => rfl
          | cons x l => cases l <;> rfl

end Sys2Proof.Machine
end

section
/-! What the acts of one sequencer leave, said once, and the end of an event whose reports pass (chapters 6 and 7). -/

namespace Sys2Proof.Machine

variable {s t u : State} {n : Sec} {c c' : SecCtx} {w w' : Option Watch} {b b' : ByChan ChanRec} {o o' : Option Sec}
  {m m' : LmgState} {l l' : List Report} {r : Report} {k : Nat}

/-! ### Taking reports one after another -/

/-- A report on which nothing acts in this state, whatever other reports wait. -/
def State.passes (s : State) (r : Report) : Prop := ∀ a, handle r { s with agenda := a } = { s with agenda := a }

/-- The reports that wait in s are taken, k of them, and leave t. -/
inductive Takes : Nat → State → State → Prop
  | done {s : State} (calm : s.agenda = []) : Takes 0 s s
  | step {k : Nat} {s t : State} {r : Report} {rest : List Report} (front : s.agenda = r :: rest)
      (next : Takes k (runAll (handle r { s with agenda := rest })) t) : Takes (k + 1) s t

namespace Takes

theorem drained (h : Takes k s t) (m : Nat) : drain (k + m) s = t := by
  induction h with
  | done calm => exact drain_none _ calm
  | step front _ ih => rw [Nat.add_right_comm, drain_cons _ front, ih]

/-- An event whose reports are taken within the bound ends so. -/
theorem settled (h : Takes k s t) (g : s.NoGenerator) (few : k ≤ 4096) : settle s = t := by
  unfold settle
  rw [runAll_noGenerator g, ← Nat.add_sub_cancel' few, h.drained]

/-- A report that is acted on, with no generator on the page in use. -/
theorem acts {rest : List Report} (front : s.agenda = r :: rest) (handled : handle r { s with agenda := rest } = u)
    (g : u.NoGenerator) (next : Takes k u t) : Takes (k + 1) s t := by
  refine .step front ?_
  rw [handled, runAll_noGenerator g]
  exact next

theorem passing (l : List Report) {rest : List Report} (front : s.agenda = l ++ rest) (g : s.NoGenerator)
    (pass : ∀ r ∈ l, s.passes r) (next : Takes k { s with agenda := rest } t) : Takes (l.length + k) s t := by
  induction l generalizing s with
  | nil =>
    rw [List.nil_append] at front
    rw [List.length_nil, Nat.zero_add]
    rw [show s = { s with agenda := rest } from by rw [← front]]
    exact next
  | cons r l ih =>
    rw [List.length_cons, Nat.add_right_comm]
    exact .acts front (pass r List.mem_cons_self _) g
      (ih (s := { s with agenda := l ++ rest }) rfl g (fun q mem => pass q (List.mem_cons_of_mem _ mem)) next)

end Takes

/-- Where every waiting report passes, the event is over. -/
theorem settle_passing (g : s.NoGenerator) (pass : ∀ r ∈ s.agenda, s.passes r) (few : s.agenda.length ≤ 4096) :
    settle s = { s with agenda := [] } :=
  (Takes.passing s.agenda (rest := []) (List.append_nil _).symm g pass (.done rfl)).settled g few

/-! ### What one sequencer's acts leave -/

/-- t is s after acts of one sequencer, which leave this context, watch, channel records, tie owner and load manager's
records, and make these reports; notices and the ALARM aside, the rest is as it was. -/
structure Acted (n : Sec) (s : State) (c : SecCtx) (w : Option Watch) (b : ByChan ChanRec) (o : Option Sec) (m : LmgState)
    (l : List Report) (t : State) : Prop where
  frame   : ∃ port alarm free, t = { s with
    seqs := s.seqs.set n c, ccu := { s.ccu with watches := s.ccu.watches.set n w }, bcu := b, owner := o, lmg := m
    spt := port, mdc := { s.mdc with alarm := alarm }, freeCount := free, agenda := s.agenda ++ l }
  service : t.spt.service = s.spt.service
  notes   : NotesGrow s t

namespace Acted

theorem refl (n : Sec) (s : State) : Acted n s (s.ctx n) (s.ccu.watches.get n) s.bcu s.owner s.lmg [] s :=
  ⟨⟨s.spt, s.mdc.alarm, s.freeCount, by simp [State.ctx]⟩, rfl, .refl s⟩

theorem trans (h : Acted n s c w b o m l t) (k : Acted n t c' w' b' o' m' l' u) : Acted n s c' w' b' o' m' (l ++ l') u := by
  refine ⟨?_, k.service.trans h.service, h.notes.trans k.notes⟩
  obtain ⟨port, alarm, free, e⟩ := h.frame
  obtain ⟨port', alarm', free', e'⟩ := k.frame
  refine ⟨port', alarm', free', ?_⟩
  have twice {α : Type} (t : BySec α) (v w : α) : (t.set n v).set n w = t.set n w := by cases n <;> rfl
  rw [e', e]
  simp only [twice, List.append_assoc]

section Fields

variable (h : Acted n s c w b o m l t)
include h

theorem ctx : t.ctx n = c := by
  obtain ⟨_, _, _, e⟩ := h.frame
  rw [e]
  exact BySec.get_set_self _ _ _

theorem other : t.ctx n.other = s.ctx n.other := by
  obtain ⟨_, _, _, e⟩ := h.frame
  rw [e]
  exact BySec.get_set_other _ _ (by cases n <;> decide)

theorem watch : t.ccu.watches.get n = w := by
  obtain ⟨_, _, _, e⟩ := h.frame
  rw [e]
  exact BySec.get_set_self _ _ _

theorem watch_other : t.ccu.watches.get n.other = s.ccu.watches.get n.other := by
  obtain ⟨_, _, _, e⟩ := h.frame
  rw [e]
  exact BySec.get_set_other _ _ (by cases n <;> decide)

theorem bcu : t.bcu = b := by obtain ⟨_, _, _, e⟩ := h.frame; rw [e]
theorem owner : t.owner = o := by obtain ⟨_, _, _, e⟩ := h.frame; rw [e]
theorem lmg : t.lmg = m := by obtain ⟨_, _, _, e⟩ := h.frame; rw [e]
theorem agenda : t.agenda = s.agenda ++ l := by obtain ⟨_, _, _, e⟩ := h.frame; rw [e]
theorem hlc : t.hlc = s.hlc := by obtain ⟨_, _, _, e⟩ := h.frame; rw [e]
theorem pst : t.pst = s.pst := by obtain ⟨_, _, _, e⟩ := h.frame; rw [e]
theorem squ : t.squ = s.squ := by obtain ⟨_, _, _, e⟩ := h.frame; rw [e]
theorem now : t.now = s.now := by obtain ⟨_, _, _, e⟩ := h.frame; rw [e]
theorem adopted : t.adopted = s.adopted := by obtain ⟨_, _, _, e⟩ := h.frame; rw [e]
theorem modes : t.mdc.modes = s.mdc.modes := by obtain ⟨_, _, _, e⟩ := h.frame; rw [e]
theorem settles : t.mdc.settle = s.mdc.settle := by obtain ⟨_, _, _, e⟩ := h.frame; rw [e]
theorem blocked : t.blocked = s.blocked := by obtain ⟨_, _, _, e⟩ := h.frame; rw [e]; rfl
theorem plan : t.plan = s.plan := by unfold State.plan; rw [h.pst]
theorem mode (m : Sec) : t.mode m = s.mode m := by unfold State.mode; rw [h.modes]
theorem closed (x : Chan) : t.closed x = (b.get x).aux.accepted := by unfold State.closed; rw [h.bcu]

/-- Reports taken off do not matter to what an act leaves. -/
theorem forget (a : List Report) : Acted n { s with agenda := a } c w b o m l { t with agenda := a ++ l } := by
  obtain ⟨port, alarm, free, e⟩ := h.frame
  refine ⟨⟨port, alarm, free, by rw [e]⟩, h.service, h.notes⟩

theorem restKept (same : o = s.owner) : s.RestKept n t := ⟨h.other, h.owner.trans same, h.hlc, h.pst, h.modes⟩

end Fields

/-! ### The single acts, one after another -/

theorem modSeq (h : Acted n s c w b o m l t) (f : SecCtx → SecCtx) : Acted n s (f c) w b o m l (modSeq n f t) := by
  have k : Acted n t (f (t.ctx n)) (t.ccu.watches.get n) t.bcu t.owner t.lmg [] (Machine.modSeq n f t) :=
    ⟨⟨t.spt, t.mdc.alarm, t.freeCount, by simp [Machine.modSeq, State.ctx]⟩, rfl, .of_spt rfl rfl⟩
  simpa only [h.ctx, h.watch, h.bcu, h.owner, h.lmg, List.append_nil] using h.trans k

theorem setWatch (h : Acted n s c w b o m l t) (v : Option Watch) : Acted n s c v b o m l (setWatch n v t) := by
  have k : Acted n t (t.ctx n) v t.bcu t.owner t.lmg [] (Machine.setWatch n v t) :=
    ⟨⟨t.spt, t.mdc.alarm, t.freeCount, by simp [Machine.setWatch, State.ctx]⟩, rfl, .of_spt rfl rfl⟩
  simpa only [h.ctx, h.bcu, h.owner, h.lmg, List.append_nil] using h.trans k

theorem report (h : Acted n s c w b o m l t) (r : Report) : Acted n s c w b o m (l ++ [r]) (report r t) := by
  have k : Acted n t (t.ctx n) (t.ccu.watches.get n) t.bcu t.owner t.lmg [r] (Machine.report r t) :=
    ⟨⟨t.spt, t.mdc.alarm, t.freeCount, by simp [Machine.report, State.ctx]⟩, rfl, .of_spt rfl rfl⟩
  simpa only [h.ctx, h.watch, h.bcu, h.owner, h.lmg] using h.trans k

theorem post (h : Acted n s c w b o m l t) (q : Note) : Acted n s c w b o m l (post q t) := by
  have k : Acted n t (t.ctx n) (t.ccu.watches.get n) t.bcu t.owner t.lmg [] (Machine.post q t) :=
    ⟨⟨(Machine.post q t).spt, t.mdc.alarm, t.freeCount, by
      simp only [BySec.set_get, State.ctx, List.append_nil]; exact post_eq q t⟩, post_spt_service q t, .post q t⟩
  simpa only [h.ctx, h.watch, h.bcu, h.owner, h.lmg, List.append_nil] using h.trans k

theorem triggerAlarm (h : Acted n s c w b o m l t) : Acted n s c w b o m l (triggerAlarm t) := by
  have k : Acted n t (t.ctx n) (t.ccu.watches.get n) t.bcu t.owner t.lmg [] (Machine.triggerAlarm t) :=
    ⟨⟨t.spt, some (t.now + t.plan.glob .alarmTime * 1000), t.freeCount, by simp [Machine.triggerAlarm, State.ctx]⟩, rfl,
      .of_spt rfl rfl⟩
  simpa only [h.ctx, h.watch, h.bcu, h.owner, h.lmg, List.append_nil] using h.trans k

theorem load (h : Acted n s c w b o m l t) (k : LoadOnly t u) (notes : NotesGrow t u) : Acted n s c w b o u.lmg l u := by
  have k : Acted n t (t.ctx n) (t.ccu.watches.get n) t.bcu t.owner u.lmg [] u :=
    ⟨⟨u.spt, t.mdc.alarm, u.freeCount, by
      simp only [BySec.set_get, State.ctx, List.append_nil]
      have e : u.spt = { t.spt with queue := u.spt.queue, overflow := u.spt.overflow } := (congrArg State.spt k :)
      rw [e]
      exact k⟩, (congrArg (fun u : State => u.spt.service) k :), notes⟩
  simpa only [h.ctx, h.watch, h.bcu, h.owner, List.append_nil] using h.trans k

theorem modChan (h : Acted n s c w b o m l t) (x : Chan) (f : ChanRec → ChanRec) :
    Acted n s c w (b.set x (f (b.get x))) o m (l ++ availReports t x (f (b.get x))) (modChan x f t) := by
  have k : Acted n t (t.ctx n) (t.ccu.watches.get n) (t.bcu.set x (f (t.bcu.get x))) t.owner t.lmg
      (availReports t x (f (t.bcu.get x))) (Machine.modChan x f t) := by
    rw [modChan_agenda]
    exact ⟨⟨t.spt, t.mdc.alarm, t.freeCount, by simp [State.ctx]⟩, rfl, .of_spt rfl rfl⟩
  simpa only [h.ctx, h.watch, h.bcu, h.owner, h.lmg] using h.trans k

theorem setOwner (h : Acted n s c w b o m l t) (v : Option Sec) :
    Acted n s c w b v m (l ++ if o = v then [] else [.tieOwner]) (setOwner v t) := by
  have k : Acted n t (t.ctx n) (t.ccu.watches.get n) t.bcu v t.lmg (if t.owner = v then [] else [.tieOwner])
      (Machine.setOwner v t) := by
    refine ⟨⟨t.spt, t.mdc.alarm, t.freeCount, ?_⟩, by simp, .of_spt (by simp) (by simp)⟩
    unfold Machine.setOwner
    split
    · rename_i e
      rw [← e]
      simp [State.ctx]
    · simp [Machine.report, State.ctx]
  simpa only [h.ctx, h.watch, h.bcu, h.owner, h.lmg] using h.trans k

/-- The watch of a section as its new state leaves it (R64). -/
def watchIn (st : SeqState) (w : Option Watch) : Option Watch := if st = .decay ∨ st = .sync then w else none

theorem enter (h : Acted n s c w b o m l t) (st : SeqState) :
    Acted n s (c.into st) (watchIn st w) b o { m with anns := annsIn m.anns n c.state st }
      (l ++ if c.state = st then [] else [.seqState n]) (enter n st t) := by
  have k : Acted n t ((t.ctx n).into st) (watchIn st (t.ccu.watches.get n)) t.bcu t.owner
      { t.lmg with anns := annsIn t.lmg.anns n (t.ctx n).state st } (if (t.ctx n).state = st then [] else [.seqState n])
      (Machine.enter n st t) := by
    have watches : watchesIn t.ccu.watches n st = t.ccu.watches.set n (watchIn st (t.ccu.watches.get n)) := by
      unfold watchesIn watchIn
      split <;> simp
    rw [enter_eq, watches]
    exact ⟨⟨t.spt, t.mdc.alarm, t.freeCount, rfl⟩, rfl, .of_spt rfl rfl⟩
  simpa only [h.ctx, h.watch, h.bcu, h.owner, h.lmg] using h.trans k

theorem setFeed (h : Acted n s c w b o m l t) (e : Option Entry) :
    Acted n s { c with feed := e } w b o m (l ++ if c.feed = e then [] else [.seqFeed n]) (setFeed n e t) := by
  have k : Acted n t { t.ctx n with feed := e } (t.ccu.watches.get n) t.bcu t.owner t.lmg
      (if (t.ctx n).feed = e then [] else [.seqFeed n]) (Machine.setFeed n e t) := by
    rw [setFeed_eq]
    exact ⟨⟨t.spt, t.mdc.alarm, t.freeCount, by simp⟩, rfl, .of_spt rfl rfl⟩
  simpa only [h.ctx, h.watch, h.bcu, h.owner, h.lmg] using h.trans k

end Acted

end Sys2Proof.Machine
end

section
/-! The composite acts of one sequencer, and the reports on which nothing acts (chapters 6 and 7). -/

namespace Sys2Proof.Machine

variable {s t u : State} {n : Sec} {c : SecCtx} {w : Option Watch} {b : ByChan ChanRec} {o : Option Sec} {m : LmgState}
  {l l' : List Report} {r : Report} {k k' : Nat}

/-! ### Reports that make a sequencer test again -/

/-- A report of a sequencer's own act, on which the sequencers reconsider at most. -/
def Report.retests (n : Sec) (r : Report) : Prop :=
  r = .seqState n ∨ r = .seqFeed n ∨ r = .tieOwner ∨ ∃ x, r = .availability x

/-- At most so many reports, each such a one. -/
structure Retests (n : Sec) (k : Nat) (l : List Report) : Prop where
  each : ∀ r ∈ l, r.retests n
  few  : l.length ≤ k

namespace Retests

theorem nil : Retests n k [] := ⟨nofun, by simp⟩

theorem append (h : Retests n k l) (g : Retests n k' l') : Retests n (k + k') (l ++ l') :=
  ⟨fun r mem => (List.mem_append.mp mem).elim (h.each r) (g.each r), by
    rw [List.length_append]; exact Nat.add_le_add h.few g.few⟩

theorem weaken (h : Retests n k l) (le : k ≤ k') : Retests n k' l := ⟨h.each, h.few.trans le⟩

theorem stateMade (p : Prop) [Decidable p] : Retests n 1 (if p then [] else [.seqState n]) := by
  split
  · exact nil
  · exact ⟨fun r mem => .inl (List.mem_singleton.mp mem), Nat.le_refl _⟩

theorem feedMade (p : Prop) [Decidable p] : Retests n 1 (if p then [] else [.seqFeed n]) := by
  split
  · exact nil
  · exact ⟨fun r mem => .inr (.inl (List.mem_singleton.mp mem)), Nat.le_refl _⟩

theorem ownerMade (p : Prop) [Decidable p] : Retests n 1 (if p then [] else [.tieOwner]) := by
  split
  · exact nil
  · exact ⟨fun r mem => .inr (.inr (.inl (List.mem_singleton.mp mem))), Nat.le_refl _⟩

theorem availMade (s : State) (x : Chan) (r : ChanRec) : Retests n 1 (availReports s x r) :=
  ⟨fun q mem => .inr (.inr (.inr ⟨x, (availReports_few s x r).1 q mem⟩)), (availReports_few s x r).2⟩

end Retests

/-- A section's sequencer is in AUTO, the other in MANUAL, and neither a generator nor a pending page acts. -/
structure State.Alone (s : State) (n : Sec) : Prop where
  auto    : s.mode n = .auto
  other   : s.mode n.other = .manual
  gen     : s.NoGenerator
  pending : s.pst.pendingPage = none

/-- A section that reconsiders makes nothing of it. -/
def State.Retested (s : State) (n : Sec) : Prop :=
  ∀ wake a, reconsider n wake { s with agenda := a } = { s with agenda := a }

theorem State.AutoAlone.alone (h : s.AutoAlone n) : s.Alone n := by
  obtain ⟨_, gen, pending, _, auto, other⟩ := h
  exact ⟨auto, other, gen, pending⟩

theorem Acted.alone (h : Acted n s c w b o m l t) (a : s.Alone n) : t.Alone n where
  auto := (h.mode n).trans a.auto
  other := (h.mode n.other).trans a.other
  gen x := by rw [h.plan]; exact a.gen x
  pending := by rw [h.pst]; exact a.pending

theorem testPending_calm (none : s.pst.pendingPage = none) : testPending s = s := by
  unfold testPending
  rw [none]

theorem reconsider_manual (manual : s.mode n = .manual) (wake : Bool) : reconsider n wake s = s := by
  unfold reconsider State.auto
  rw [manual]
  rfl

theorem forSecs_one {f : Sec → State → State} (n : Sec) (still : f n.other s = s) (still' : f n.other (f n s) = f n s) :
    forSecs f s = f n s := by
  unfold forSecs
  cases n with
  | sec1 => exact still'
  | sec2 =>
    have e : f .sec1 s = s := still
    rw [e]

namespace State.Alone

variable (a : s.Alone n)
include a

theorem is_auto : s.auto n = true := by
  unfold State.auto
  rw [a.auto]
  rfl

theorem not_auto : s.auto n.other = false := by
  unfold State.auto
  rw [a.other]
  rfl

theorem agenda (q : List Report) : ({ s with agenda := q } : State).Alone n := ⟨a.auto, a.other, a.gen, a.pending⟩

/-- A section's own report of its state passes: the other section is in MANUAL. -/
theorem passes_seqState : s.passes (.seqState n) := fun q =>
  ((congrArg (reconsider n.other true) (testPending_calm (s := { s with agenda := q }) a.pending)).trans
    (reconsider_manual (s := { s with agenda := q }) a.other true) :)

theorem passes_seqFeed : s.passes (.seqFeed n) := fun q => reconsider_manual (s := { s with agenda := q }) a.other false

theorem retest_both (calm : s.Retested n) (wake : Bool) (q : List Report) :
    forSecs (fun n => reconsider n wake) { s with agenda := q } = { s with agenda := q } := by
  have still := reconsider_manual (s := { s with agenda := q }) a.other wake
  rw [forSecs_one n still (by rw [calm wake q]; exact still), calm wake q]

theorem passes (calm : s.Retested n) (h : r.retests n) : s.passes r := by
  rcases h with rfl | rfl | rfl | ⟨x, rfl⟩
  · exact a.passes_seqState
  · exact a.passes_seqFeed
  · exact a.retest_both calm false
  · exact a.retest_both calm true

/-- An event that ends with such reports alone leaves the state as it is. -/
theorem settle_retests (calm : s.Retested n) (h : Retests n k s.agenda) (few : k ≤ 4096) : settle s = { s with agenda := [] } :=
  settle_passing a.gen (fun r mem => a.passes calm (h.each r mem)) (h.few.trans few)

end State.Alone

/-! ### Sections that reconsider nothing -/

section Retested

theorem State.Retested.of_transfer (st : (s.ctx n).state = .opening ∨ (s.ctx n).state = .closing ∨ (s.ctx n).state = .overlap ∨
    (s.ctx n).state = .halted) : s.Retested n := by
  intro wake a
  have st : (({ s with agenda := a } : State).ctx n).state = .opening ∨ (({ s with agenda := a } : State).ctx n).state = .closing ∨
    (({ s with agenda := a } : State).ctx n).state = .overlap ∨ (({ s with agenda := a } : State).ctx n).state = .halted := st
  unfold reconsider
  split
  · rcases st with e | e | e | e <;> rw [e]
  · rfl

theorem evalReturn_not (due : s.returnDue n = false) : evalReturn n s = s := by
  unfold evalReturn
  rw [due, Bool.and_false]
  rfl

theorem returnDue_of_auto (no : s.plan.sec n .autoReturn = 0) : s.returnDue n = false := by
  unfold State.returnDue
  rw [no, show ((0 : Nat) == 1) = false from rfl, Bool.and_false, Bool.false_and]

theorem State.Retested.of_fed (st : (s.ctx n).state = .fed) (due : s.returnDue n = false) : s.Retested n := by
  intro wake a
  have st : (({ s with agenda := a } : State).ctx n).state = .fed := st
  unfold reconsider
  rw [st]
  dsimp only
  rw [evalReturn_not (s := { s with agenda := a }) due, ite_self, ite_self]

theorem State.Retested.of_decay {e : SecEntry} (st : (s.ctx n).state = .decay) (target : (s.ctx n).target = some e)
    (fits : s.targetFits n e = true) : s.Retested n := by
  intro wake a
  have st : (({ s with agenda := a } : State).ctx n).state = .decay := st
  have target : (({ s with agenda := a } : State).ctx n).target = some e := target
  have fits : ({ s with agenda := a } : State).targetFits n e = true := fits
  unfold reconsider retest
  rw [st]
  dsimp only
  rw [target]
  dsimp only
  rw [if_pos fits]
  split <;> rfl

theorem State.Retested.of_sync {e : SecEntry} (st : (s.ctx n).state = .sync) (target : (s.ctx n).target = some e)
    (own : e.entry ≠ .tie ∨ s.claimTest n = none) : s.Retested n := by
  intro wake a
  have st : (({ s with agenda := a } : State).ctx n).state = .sync := st
  have target : (({ s with agenda := a } : State).ctx n).target = some e := target
  have no : ¬(e.entry = .tie ∧ (({ s with agenda := a } : State).claimTest n).isSome = true) := fun ⟨tie, fails⟩ =>
    own.elim (fun h => h tie) fun h => by
      have h : ({ s with agenda := a } : State).claimTest n = none := h
      rw [h] at fails
      cases fails
  unfold reconsider syncClaim
  rw [st]
  dsimp only
  rw [target]
  dsimp only
  rw [if_neg no]
  split <;> rfl

theorem State.Retested.of_returnWait {e : Entry} (st : (s.ctx n).state = .returnWait) (first : s.preferred n = some e)
    (ready : s.ready n e = true) : s.Retested n := by
  intro wake a
  have st : (({ s with agenda := a } : State).ctx n).state = .returnWait := st
  have first : ({ s with agenda := a } : State).preferred n = some e := first
  have ready : ({ s with agenda := a } : State).ready n e = true := ready
  unfold reconsider checkReturn
  rw [st]
  dsimp only
  rw [first]
  dsimp only
  rw [if_pos ready]
  split <;> rfl

/-- A section that is in a state, with what serves another state cleared, enters it without effect. -/
theorem enter_again {st : SeqState} (whole : (s.ctx n).into st = s.ctx n) (watch : st = .decay ∨ st = .sync ∨ s.ccu.watches.get n = none) :
    enter n st s = s := by
  have same : (s.ctx n).state = st := (congrArg SecCtx.state whole).symm
  have w : watchesIn s.ccu.watches n st = s.ccu.watches := by
    unfold watchesIn
    split
    · rfl
    · rename_i no
      rw [← watch.resolve_left (fun h => no (.inl h)) |>.resolve_left (fun h => no (.inr h)), BySec.set_get]
  rw [enter_eq, whole, w, same]
  simp [annsIn, State.ctx]

/-- A section that waits and finds nothing to select waits on. -/
theorem State.Retested.of_wait (whole : (s.ctx n).into .waitSource = s.ctx n) (watch : s.ccu.watches.get n = none)
    (back : s.lostIsBack n = none) (no : s.held n = true ∨ s.choose n = none) : s.Retested n := by
  intro wake a
  have whole : (({ s with agenda := a } : State).ctx n).into .waitSource = ({ s with agenda := a } : State).ctx n := whole
  have st : (({ s with agenda := a } : State).ctx n).state = .waitSource := (congrArg SecCtx.state whole).symm
  have back : ({ s with agenda := a } : State).lostIsBack n = none := back
  have again : enter n .waitSource ({ s with agenda := a } : State) = { s with agenda := a } :=
    enter_again whole (.inr (.inr watch))
  have waits : waitTest n ({ s with agenda := a } : State) = { s with agenda := a } := by
    unfold waitTest
    rw [back]
    dsimp only
    unfold select
    split
    · exact again
    · rename_i held
      have none : ({ s with agenda := a } : State).choose n = none := no.resolve_left held
      rw [none]
      exact again
  unfold reconsider
  rw [st]
  dsimp only
  rw [waits, ite_self, ite_self]

end Retested

end Sys2Proof.Machine
end

section
/-! The composite acts of one sequencer: transfers, trips, closes, halts (chapters 6 and 7). -/

namespace Sys2Proof.Machine

variable {s t u : State} {n : Sec} {c : SecCtx} {w : Option Watch} {b : ByChan ChanRec} {o : Option Sec} {m : LmgState}
  {l l' : List Report} {r : Report} {k k' : Nat}

/-! ### Channels -/

theorem availReports_unavailable {x : Chan} {r : ChanRec} (old : (s.bcu.get x).position ≠ .isOpen) (new : r.position ≠ .isOpen) :
    availReports s x r = [] := by
  have no {r : ChanRec} (h : r.position ≠ .isOpen) : r.available = false :=
    Bool.eq_false_iff.mpr fun a => h (ChanRec.isOpen_of_available a)
  unfold availReports
  rw [no old, no new]
  simp

theorem annsIn_moving (a : BySec (Option Announcement)) (n : Sec) (old : SeqState) {st : SeqState} (moving : st.atRest = false) :
    annsIn a n old st = a := by
  unfold annsIn
  rw [if_neg (by simp [moving])]

/-- A record after a close trigger that was accepted (R81). -/
def ChanRec.begun (r : ChanRec) (q : Requester) (now width confirm : Nat) : ChanRec :=
  { r with
    closeEnd := some (now + width), cmdClosed := true, position := .closing
    op := some ⟨.close, q, now, now + confirm, false⟩ }

theorem closeBegun_eq (s : State) (x : Chan) (q : Requester) (now : Nat) :
    s.closeBegun x q now = (s.bcu.get x).begun q now (s.plan.chan x .closeWidth) (s.plan.chan x .closeConfirm) := rfl

theorem tripBegun_eq {s : State} {x : Chan} (q : Requester) (now : Nat)
    (go : (s.bcu.get x).position = .isClosed ∨ (s.bcu.get x).position = .isOpen ∨ (s.bcu.get x).position = .closing) :
    s.tripBegun x q now = (s.bcu.get x).trip q now (s.plan.chan x .tripWidth) (s.plan.chan x .tripConfirm) := by
  unfold State.tripBegun ChanRec.trip
  rcases go with h | h | h <;> simp only [h]

theorem closeTarget_own {e : SecEntry} (own : e.entry ≠ .tie) (ok : s.closeRefusal (entryChan e) = none) :
    closeTarget n e s = (startClose (entryChan e) (.seq n) s, none) := by
  unfold closeTarget
  rw [if_neg own, closeTrigger_accepted ok]

theorem closeTarget_refused {e : SecEntry} {r : Status} (own : e.entry ≠ .tie) (no : s.closeRefusal (entryChan e) = some r) :
    closeTarget n e s = (s, some (.refused r)) := by
  unfold closeTarget
  rw [if_neg own, closeTrigger_refused no]

theorem tripTrigger_free (x : Chan) (q : Requester) (free : s.blocked = false) :
    tripTrigger x q s = (startTrip x q s, none) := by
  unfold tripTrigger
  rw [if_neg (by simp [free])]

/-! ### Contexts -/

/-- A section's context as the choice of a target leaves it (R105, R106). -/
def SecCtx.chosen (c : SecCtx) (n : Sec) (e : SecEntry) (cause : StartCause) (closed : Bool) (now : Nat) : SecCtx :=
  ({ c with target := some e } : SecCtx).begin n cause closed now

section Chosen

variable (e : SecEntry) (cause : StartCause) (closed : Bool) (now : Nat)

@[simp] theorem SecCtx.chosen_state : (c.chosen n e cause closed now).state = c.state := by
  unfold chosen SecCtx.begin
  split <;> rfl

@[simp] theorem SecCtx.chosen_feed : (c.chosen n e cause closed now).feed = c.feed := by
  unfold chosen SecCtx.begin
  split <;> rfl

@[simp] theorem SecCtx.chosen_lost : (c.chosen n e cause closed now).lost = c.lost := by
  unfold chosen SecCtx.begin
  split <;> rfl

@[simp] theorem SecCtx.chosen_role : (c.chosen n e cause closed now).role = c.role := by
  unfold chosen SecCtx.begin
  split <;> rfl

@[simp] theorem SecCtx.chosen_target : (c.chosen n e cause closed now).target = some e := by
  unfold chosen SecCtx.begin
  split <;> rfl

end Chosen

/-- A section's context as an entry into SYNC leaves it (R111). -/
def SecCtx.synced (c : SecCtx) (due : Nat) : SecCtx := { c.into .sync with tSyncWait := some due, lastResult := none }

/-- A section's context as an entry into DECAY leaves it (R115). -/
def SecCtx.decayed (c : SecCtx) (it : Items) (n : Sec) (now : Nat) : SecCtx := { c.into .decay with
  tDecayMax := some (now + it.sec n .tDecayMax)
  tDead := if it.sec n .openMethod = 2 then some (now + it.sec n .tDead) else none
  decayOver := false, deadOver := false, lastResult := none }

/-- A section's context as a close that is triggered in DECAY leaves it (R116). -/
def SecCtx.closingBy (c : SecCtx) (method : Method) (now : Nat) : SecCtx :=
  SecCtx.into { c with
    method := method, closeStop := false, closeRec := ⟨c.lastResult.bind (·.angleSlip), now⟩ } .closing

/-- A section's context as a halt leaves it (R124). -/
def SecCtx.haltedBy (c : SecCtx) (cause : HaltCause) (ch : Option Chan) (feed : Option Entry) : SecCtx :=
  SecCtx.into { c with haltCause := cause, haltChan := ch, feed := feed } .halted

/-- The watch of a section that has entered DECAY (R115). -/
def decayWatch (it : Items) (n : Sec) (target : Option SecEntry) : Option Watch :=
  if it.sec n .openMethod = 0 then target.map fun e => ⟨targetPair e, .openItems, n⟩ else none

namespace Acted

/-! ### Trips and closes -/

/-- The trip of a channel that is no open or closing one (R82). -/
theorem startTrip (h : Acted n s c w b o m l t) (x : Chan) (q : Requester) (shut : (b.get x).position ≠ .isOpen)
    (rest : (b.get x).position ≠ .closing) :
    Acted n s c w (b.set x ((b.get x).trip q s.now (s.plan.chan x .tripWidth) (s.plan.chan x .tripConfirm))) o m l
      (startTrip x q t) := by
  have made := h.modChan x fun r => r.trip q t.now (t.tripWidth x) (t.plan.chan x .tripConfirm)
  have stays : ((b.get x).trip q t.now (t.tripWidth x) (t.plan.chan x .tripConfirm)).position ≠ .isOpen := by
    rw [trip_eq]
    dsimp only
    split
    · decide
    · exact shut
  rw [availReports_unavailable (by rw [h.bcu]; exact shut) stays, List.append_nil] at made
  have plain : Machine.startTrip x q t = Machine.modChan x (fun r => r.trip q t.now (t.tripWidth x) (t.plan.chan x .tripConfirm)) t := by
    unfold Machine.startTrip
    dsimp only
    split
    · rename_i e _
      exact absurd (by rw [← h.bcu]; exact e) rest
    · rfl
  rw [plain]
  unfold State.tripWidth at *
  rw [h.now, h.plan] at *
  exact made

/-- An accepted close (R81). -/
theorem startClose (h : Acted n s c w b o m l t) (x : Chan) (q : Requester) :
    ∃ a, Retests n 1 a ∧ Acted n s c w
      (b.set x ((b.get x).begun q s.now (s.plan.chan x .closeWidth) (s.plan.chan x .closeConfirm))) o m (l ++ a)
      (startClose x q t) := by
  have made := h.modChan x fun r => r.begun q t.now (t.closeWidth x) (t.plan.chan x .closeConfirm)
  unfold State.closeWidth at made
  rw [h.now, h.plan] at made
  unfold Machine.startClose State.closeWidth
  rw [h.now, h.plan]
  exact ⟨_, .availMade t x _, made⟩

/-! ### States entered -/

theorem enter_moving (h : Acted n s c w b o m l t) {st : SeqState} (moving : st.atRest = false) (from_ : c.state ≠ st) :
    Acted n s (c.into st) (watchIn st w) b o m (l ++ [.seqState n]) (Machine.enter n st t) := by
  have made := h.enter st
  rwa [annsIn_moving _ _ _ moving, if_neg from_] at made

theorem enter_resting (h : Acted n s c w b o m l t) {st : SeqState} (rest : st.atRest = true) (from_ : c.state ≠ st) :
    Acted n s (c.into st) none b o { m with anns := m.anns.set n none } (l ++ [.seqState n]) (Machine.enter n st t) := by
  have made := h.enter st
  have moving : ¬(st = .decay ∨ st = .sync) := by rintro (rfl | rfl) <;> cases rest
  rwa [annsIn, if_pos ⟨from_, rest⟩, if_neg from_, watchIn, if_neg moving] at made

theorem enterDecay (h : Acted n s c w b o m l t) (from_ : c.state ≠ .decay) :
    Acted n s (c.decayed s.plan n s.now) (decayWatch s.plan n c.target) b o m (l ++ [.seqState n, .decayTest n []])
      (enterDecay n t) := by
  have made := ((h.enter_moving (st := .decay) rfl from_).modSeq fun c => { c with
    tDecayMax := some (t.now + t.plan.sec n .tDecayMax)
    tDead := if t.plan.sec n .openMethod = 2 then some (t.now + t.plan.sec n .tDead) else none
    decayOver := false, deadOver := false, lastResult := none })
  have set := (made.setWatch (decayWatch s.plan n c.target)).report (.decayTest n [])
  have watch : setDecayWatch n (Machine.modSeq n (fun c => { c with
      tDecayMax := some (t.now + t.plan.sec n .tDecayMax)
      tDead := if t.plan.sec n .openMethod = 2 then some (t.now + t.plan.sec n .tDead) else none
      decayOver := false, deadOver := false, lastResult := none }) (Machine.enter n .decay t)) =
      Machine.setWatch n (decayWatch s.plan n c.target) (Machine.modSeq n (fun c => { c with
      tDecayMax := some (t.now + t.plan.sec n .tDecayMax)
      tDead := if t.plan.sec n .openMethod = 2 then some (t.now + t.plan.sec n .tDead) else none
      decayOver := false, deadOver := false, lastResult := none }) (Machine.enter n .decay t)) := by
    unfold setDecayWatch decayWatch
    rw [made.plan, made.ctx]
    rfl
  unfold Machine.enterDecay
  dsimp only
  rw [watch]
  rw [List.append_assoc] at set
  unfold SecCtx.decayed
  rw [← h.plan, ← h.now] at *
  exact set

theorem enterSync (h : Acted n s c w b o m l t) (from_ : c.state ≠ .sync) :
    Acted n s (c.synced (s.now + s.plan.sec n .tSyncWait * 1000)) (c.target.map fun e => ⟨targetPair e, .closedItems, n⟩) b o m
      (l ++ [.seqState n]) (enterSync n t) := by
  have made := (h.enter_moving (st := .sync) rfl from_).modSeq fun c => { c with
    tSyncWait := some (t.now + t.plan.sec n .tSyncWait * 1000), lastResult := none }
  have set := made.setWatch (c.target.map fun e => ⟨targetPair e, .closedItems, n⟩)
  unfold Machine.enterSync
  dsimp only
  rw [made.ctx]
  unfold SecCtx.synced
  rw [← h.plan, ← h.now]
  exact set

/-! ### Transfers -/

/-- A target is chosen (R105, R106). -/
theorem beginTransfer (h : Acted n s c w b o m l t) (cause : StartCause) (closed : Bool) (e : SecEntry) :
    Acted n s (c.chosen n e cause closed s.now) w b o
      (announce n e (Machine.modSeq n (fun c => { c with target := some e }) t)).lmg l (beginTransfer n cause closed e t) := by
  have chosen := h.modSeq fun c => { c with target := some e }
  have told := chosen.load (announce_load n e _) (announce_moves n e .refl).notesGrow
  have made := told.modSeq (·.begin n cause closed (announce n e (Machine.modSeq n (fun c => { c with target := some e }) t)).now)
  rw [told.now] at made
  have posted := made.post (.transferBegin n (c.chosen n e cause closed s.now).origin (some e)
    (c.chosen n e cause closed s.now).closedTrans cause)
  unfold Machine.beginTransfer
  dsimp only
  rw [told.now, made.ctx]
  exact posted

theorem beginTransfer_noted (h : Acted n s c w b o m l t) (cause : StartCause) (closed : Bool) (e : SecEntry) :
    (Machine.beginTransfer n cause closed e t).Noted (.transferBegin n
      (c.chosen n e cause closed s.now).origin (some e)
      (c.chosen n e cause closed s.now).closedTrans cause) := by
  have chosen := h.modSeq fun c => { c with target := some e }
  have told := chosen.load (announce_load n e _) (announce_moves n e .refl).notesGrow
  have made := told.modSeq (·.begin n cause closed (announce n e (Machine.modSeq n (fun c => { c with target := some e }) t)).now)
  rw [told.now] at made
  unfold Machine.beginTransfer
  dsimp only
  rw [told.now, made.ctx]
  exact noted_post _ _

/-- The old incomer is closed and is tripped (R114). -/
theorem openTransition_trip (h : Acted n s c w b o m l t) {x : Chan} (old : t.oldChan n = some x)
    (shut : (b.get x).aux.accepted = true) (rest : (b.get x).position = .isClosed) (free : s.blocked = false)
    (from_ : c.state ≠ .opening) :
    Acted n s (c.into .opening) none
      (b.set x ((b.get x).trip (.seq n) s.now (s.plan.chan x .tripWidth) (s.plan.chan x .tripConfirm))) o m
      (l ++ [.seqState n]) (openTransition n t) := by
  have closed : t.closed x = true := by rw [h.closed]; exact shut
  have tripped := h.startTrip x (.seq n) (by rw [rest]; decide) (by rw [rest]; decide)
  have plain : openTransition n t = Machine.enter n .opening (Machine.startTrip x (.seq n) t) := by
    unfold openTransition
    rw [old]
    dsimp only
    rw [if_pos closed, tripTrigger_free x _ (h.blocked.trans free)]
    dsimp only
    rw [h.bcu, rest]
  rw [plain]
  exact tripped.enter_moving rfl from_

/-- The old incomer is open, or there is none (R105). -/
theorem openTransition_open (old : ∀ x, t.oldChan n = some x → t.closed x = false) :
    openTransition n t = Machine.enterDecay n t := by
  unfold openTransition
  split
  · rfl
  · rename_i x e
    rw [if_neg (by rw [old x e]; decide)]

/-- The old incomer is closed and stuck: it is tripped all the same, and the section halts (R114). -/
theorem openTransition_stuck {x : Chan} (old : t.oldChan n = some x) (shut : t.closed x = true) (free : t.blocked = false)
    (stuck : (t.bcu.get x).position = .faulted ∨ (t.bcu.get x).position = .locked) :
    openTransition n t = halt n (if (t.bcu.get x).position = .locked then .busFault else .failToOpen) (some x)
      (Machine.startTrip x (.seq n) t) := by
  unfold openTransition
  rw [old]
  dsimp only
  rw [if_pos shut, tripTrigger_free x _ free]
  dsimp only
  rcases stuck with e | e <;> rw [e] <;> rfl

/-! ### The close of DECAY -/

/-- The close of DECAY for an own entry (R116). -/
theorem decayClose_own (h : Acted n s c w b o m l t) {e : SecEntry} (target : c.target = some e) (own : e.entry ≠ .tie)
    (ok : t.closeRefusal (entryChan e) = none) (method : Method) (passed : List SecEntry) (from_ : c.state ≠ .closing) :
    ∃ a, Retests n 2 a ∧ Acted n s (c.closingBy method s.now) none
      (b.set (entryChan e) ((b.get (entryChan e)).begun (.seq n) s.now (s.plan.chan (entryChan e) .closeWidth)
        (s.plan.chan (entryChan e) .closeConfirm))) o m (l ++ a) (decayClose n method passed t) := by
  obtain ⟨a, ha, closed⟩ := h.startClose (entryChan e) (.seq n)
  have made := closed.modSeq fun c => { c with
    method := method, closeStop := false, closeRec := ⟨c.lastResult.bind (·.angleSlip), s.now⟩ }
  refine ⟨a ++ [.seqState n], ha.append ⟨fun r mem => .inl (List.mem_singleton.mp mem), Nat.le_refl _⟩, ?_⟩
  unfold decayClose
  rw [h.ctx, target]
  dsimp only
  rw [closeTarget_own own ok]
  dsimp only
  rw [closed.now, ← List.append_assoc]
  exact made.enter_moving rfl from_

/-! ### Halts -/

theorem releaseAtHalt (h : Acted n s c w b o m l t) : ∃ o' a, Retests n 1 a ∧ (o ≠ some n → o' = o ∧ a = []) ∧
    Acted n s c w b o' m (l ++ a) (releaseAtHalt n t) := by
  unfold Machine.releaseAtHalt
  split
  · rename_i held
    have held : o = some n := h.owner.symm.trans held.1
    exact ⟨none, _, .ownerMade _, fun no => absurd held no, h.setOwner none⟩
  · exact ⟨o, [], .nil, fun _ => ⟨rfl, rfl⟩, by rw [List.append_nil]; exact h⟩

/-- A section halts (R124). -/
theorem halt (h : Acted n s c w b o m l t) (cause : HaltCause) (ch : Option Chan) : ∃ o' anns a, Retests n 3 a ∧
    (o ≠ some n → o' = o) ∧ Acted n s (c.haltedBy cause ch (t.adoptedFeed n)) none b o' { m with anns := anns } (l ++ a)
      (halt n cause ch t) := by
  obtain ⟨o', a, ha, same, released⟩ := h.releaseAtHalt
  have caused := released.modSeq fun c => { c with haltCause := cause, haltChan := ch }
  have feed : (Machine.modSeq n (fun c => { c with haltCause := cause, haltChan := ch }) (Machine.releaseAtHalt n t)).adoptedFeed n =
      t.adoptedFeed n := by
    unfold State.adoptedFeed State.islandSource State.paths State.closedPaths State.islandOf State.closed
    rw [caused.bcu, h.bcu]
  have entered := (caused.setFeed (t.adoptedFeed n)).enter .halted
  have posted := entered.triggerAlarm.post (.sectionHalted n cause ch c.state
    (SecCtx.into { c with haltCause := cause, haltChan := ch, feed := t.adoptedFeed n } .halted).feed)
  rw [List.append_assoc, List.append_assoc] at posted
  unfold Machine.halt
  dsimp only
  rw [feed, h.ctx, entered.ctx]
  exact ⟨o', _, _, ha.append ((Retests.feedMade (c.feed = t.adoptedFeed n)).append (.stateMade (c.state = .halted))),
    fun no => (same no).1, posted⟩

end Acted

/-- A halt leaves the section halted, the ALARM triggered and the notice posted (R97, R124). -/
theorem Acted.halt_haltedWith (h : Acted n s c w b o m l t) (cause : HaltCause) (ch : Option Chan) :
    (Machine.halt n cause ch t).HaltedWith n c.state cause ch := by
  obtain ⟨o', anns, a, ha, same, made⟩ := h.halt cause ch
  have feed : (Machine.halt n cause ch t).adoptedFeed n = t.adoptedFeed n := by
    unfold State.adoptedFeed State.islandSource State.paths State.closedPaths State.islandOf State.closed
    rw [made.bcu, h.bcu]
  obtain ⟨v, e⟩ : ∃ v, Machine.halt n cause ch t =
      Machine.post (.sectionHalted n cause ch (t.ctx n).state (v.ctx n).feed) (Machine.triggerAlarm v) := ⟨_, rfl⟩
  have noted : (Machine.halt n cause ch t).Noted (.sectionHalted n cause ch (t.ctx n).state (v.ctx n).feed) := by
    rw [e]
    exact noted_post _ _
  have fed : (v.ctx n).feed = t.adoptedFeed n := by
    have same := congrArg (fun q : State => (q.ctx n).feed) e
    rw [made.ctx] at same
    simp only [State.ctx, post_seqs] at same
    exact same.symm
  have alarm : (Machine.halt n cause ch t).mdc.alarm =
      some ((Machine.halt n cause ch t).now + (Machine.halt n cause ch t).plan.glob .alarmTime * 1000) := by
    rw [e]
    simp [Machine.triggerAlarm, State.plan]
  rw [h.ctx, fed] at noted
  unfold State.HaltedWith
  dsimp only
  rw [made.ctx, made.watch, feed]
  exact ⟨rfl, rfl, rfl, rfl, rfl, rfl, rfl, rfl, rfl, rfl, rfl, rfl, alarm, noted⟩

end Sys2Proof.Machine
end

section
/-! What a sequencer's acts leave of the tests its choices rest on (R103 to R105, R129), and the ends of its timers. -/

namespace Sys2Proof.Machine

variable {s t u : State} {n : Sec} {c : SecCtx} {w : Option Watch} {b : ByChan ChanRec} {o : Option Sec} {m : LmgState}
  {l l' : List Report} {r : Report} {k k' : Nat}

/-! ### The tests after an act -/

theorem classOne_congr (plan : t.plan = s.plan) (demands : ∀ f, (t.feeder f).demand = (s.feeder f).demand) :
    t.classOne = s.classOne := by
  unfold State.classOne State.cls
  simp only [plan, demands]

theorem classOne_of_feeders (plan : t.plan = s.plan) (same : t.lmg.feeders = s.lmg.feeders) : t.classOne = s.classOne :=
  classOne_congr plan fun f => by unfold State.feeder; rw [same]

theorem paths_congr (bcu : t.bcu = s.bcu) (q : Sec) : t.paths q = s.paths q := by
  unfold State.paths State.closedPaths State.islandOf State.closed
  rw [bcu]

theorem islandSource_congr (bcu : t.bcu = s.bcu) (q : Sec) : t.islandSource q = s.islandSource q := by
  unfold State.islandSource
  rw [paths_congr bcu]

theorem adoptedFeed_congr (bcu : t.bcu = s.bcu) (q : Sec) : t.adoptedFeed q = s.adoptedFeed q := by
  unfold State.adoptedFeed
  rw [islandSource_congr bcu]

theorem entrySource_congr (bcu : t.bcu = s.bcu) (e : SecEntry) : t.entrySource e = s.entrySource e := by
  unfold State.entrySource
  split
  · rw [islandSource_congr bcu]
  · rfl

theorem healthy?_congr (squ : t.squ = s.squ) (x : Option Src) : t.healthy? x = s.healthy? x := by
  unfold State.healthy? State.healthy State.srcState
  rw [squ]

namespace Acted

section Tests

variable (h : Acted n s c w b o m l t) (sameBcu : b = s.bcu) (sameOwner : o = s.owner) (sameOne : t.classOne = s.classOne)
include h

theorem healthy? (x : Option Src) : t.healthy? x = s.healthy? x := healthy?_congr h.squ x

theorem srcState (x : Src) : t.srcState x = s.srcState x := by unfold State.srcState; rw [h.squ]

theorem classOne (same : m.feeders = s.lmg.feeders) : t.classOne = s.classOne :=
  classOne_of_feeders h.plan (by rw [h.lmg, same])

theorem prefs (q : Sec) : t.prefs q = s.prefs q := by unfold State.prefs; rw [h.plan]

theorem preferred : t.preferred n = s.preferred n := by unfold State.preferred; rw [h.plan]

theorem returnsClosed : t.returnsClosed n = s.returnsClosed n := by unfold State.returnsClosed; rw [h.plan]

theorem mayServe_other : t.mayServe n.other = s.mayServe n.other := by unfold State.mayServe; rw [h.mode, h.other]

include sameBcu

theorem same_closed (x : Chan) : t.closed x = s.closed x := by rw [h.closed, sameBcu]; rfl

theorem entrySource (e : SecEntry) : t.entrySource e = s.entrySource e := entrySource_congr (h.bcu.trans sameBcu) e

theorem feedSource (same : c.feed = (s.ctx n).feed) : t.feedSource n = s.feedSource n := by
  unfold State.feedSource
  rw [h.ctx, same]
  simp only [h.entrySource sameBcu]

theorem closeRefusal (x : Chan) : t.closeRefusal x = s.closeRefusal x := by
  unfold State.closeRefusal State.avail
  rw [h.blocked, h.bcu, sameBcu]

/-- Serving depends on the role, and on whether the section is halted. -/
theorem serving (role : c.role = (s.ctx n).role) (halted : (c.state = .halted) = ((s.ctx n).state = .halted)) :
    t.serving = s.serving := by
  have own : t.mayServe n = s.mayServe n := by
    unfold State.mayServe
    rw [h.mode, h.ctx]
    rw [Bool.eq_iff_iff]
    simp [halted]
  have roles (q : Sec) : (t.ctx q).role = (s.ctx q).role := by
    by_cases e : q = n
    · rw [e, h.ctx, role]
    · rw [show q = n.other from by cases q <;> cases n <;> simp_all [Sec.other], h.other]
  have serve (q : Sec) : t.mayServe q = s.mayServe q := by
    by_cases e : q = n
    · rw [e, own]
    · rw [show q = n.other from by cases q <;> cases n <;> simp_all [Sec.other], h.mayServe_other]
  unfold State.serving
  rw [h.same_closed sameBcu, roles, roles, serve, serve]

theorem held (role : c.role = (s.ctx n).role) (halted : (c.state = .halted) = ((s.ctx n).state = .halted)) :
    t.held n = s.held n := by
  unfold State.held State.heldBy
  rw [h.blocked, h.settles, h.other, h.serving sameBcu role halted]

theorem selEntries (role : c.role = (s.ctx n).role) (halted : (c.state = .halted) = ((s.ctx n).state = .halted)) :
    t.selEntries n = s.selEntries n := by
  unfold State.selEntries
  rw [h.ctx, role, h.other, h.prefs, h.prefs, h.serving sameBcu role halted]

include sameOwner sameOne

theorem claimTest : t.claimTest n = s.claimTest n := by
  unfold State.claimTest State.avail State.healthy State.srcState
  rw [h.owner, sameOwner, h.bcu, sameBcu, h.other, h.plan, h.squ, sameOne]

theorem targetFits (e : SecEntry) : t.targetFits n e = s.targetFits n e := by
  unfold State.targetFits State.avail
  rw [h.healthy?, h.entrySource sameBcu, h.bcu, sameBcu, h.same_closed sameBcu, h.claimTest sameBcu sameOwner sameOne]

theorem eligible (lost : c.lost = (s.ctx n).lost) (e : SecEntry) : t.eligible n e = s.eligible n e := by
  unfold State.eligible State.excluded
  rw [h.targetFits sameBcu sameOwner sameOne, h.ctx, lost]

theorem choose (role : c.role = (s.ctx n).role) (halted : (c.state = .halted) = ((s.ctx n).state = .halted))
    (lost : c.lost = (s.ctx n).lost) : t.choose n = s.choose n := by
  unfold State.choose
  rw [h.selEntries sameBcu role halted, show t.eligible n = s.eligible n from funext (h.eligible sameBcu sameOwner sameOne lost)]

end Tests

/-- The event in which these acts are the last ends with them, where the section makes nothing of the reports they make. -/
theorem ends (h : Acted n s c w b o m l t) (a : s.Alone n) (calm : s.agenda = []) (quiet : t.Retested n)
    (made : Retests n k l) (few : k ≤ 4096) : settle t = { t with agenda := [] } := by
  refine (h.alone a).settle_retests quiet (k := k) ?_ few
  rw [h.agenda, calm, List.nil_append]
  exact made

end Acted

/-! ### The ends of a sequencer's timers (R110, R112, R117, R122) -/

/-- The sequencer's timer is over and idle, at the tick of its end. -/
def timerStopped (n : Sec) (k : SeqTimer) (d : Nat) (s : State) : State := modSeq n (·.stopTimer k) (reach d s)

@[simp] theorem SecCtx.stopTimer_state (c : SecCtx) (k : SeqTimer) : (c.stopTimer k).state = c.state := by cases k <;> rfl

/-- What an expiry of a timer makes of the state: everything but the section's own part, the channels and the notices is as
it was, at the tick of the expiry. -/
theorem Acted.rest {d : Nat} (h : Acted n (reach d s) c w b o m l t) :
    t.now = max s.now d ∧ t.ctx n.other = s.ctx n.other ∧ t.hlc = s.hlc ∧ t.mdc.modes = s.mdc.modes ∧ t.pst = s.pst :=
  ⟨h.now, h.other, h.hlc, h.modes, h.pst⟩

theorem timerStopped_acted (n : Sec) (k : SeqTimer) (d : Nat) (s : State) :
    Acted n (reach d s) ((s.ctx n).stopTimer k) (s.ccu.watches.get n) s.bcu s.owner s.lmg [] (timerStopped n k d s) :=
  (Acted.refl n (reach d s)).modSeq (·.stopTimer k)

/-- The state a timer serves (R102). -/
def SeqTimer.serves : SeqTimer → SeqState
  | .tReturn => .returnWait
  | .tSyncWait => .sync
  | .tDecayMax => .decay
  | .tDead => .decay
  | .tOverlap => .overlap

/-- What a sequencer does at the end of a timer in the state it serves. -/
def timerAct (n : Sec) : SeqTimer → State → State
  | .tReturn => returnOver n
  | .tSyncWait => syncOver n
  | .tDecayMax => decayOver n
  | .tDead => deadOver n
  | .tOverlap => overlapFail n .overlapFail none

theorem timerOver_served {d : Nat} {k : SeqTimer} (auto : s.mode n = .auto) (st : (s.ctx n).state = k.serves)
    (runs : (s.ctx n).timer k = some d) : timerOver n k s = timerAct n k (timerStopped n k d s) := by
  have auto : s.auto n = true := by unfold State.auto; rw [auto]; rfl
  unfold timerOver
  rw [runs]
  dsimp only
  rw [if_pos auto, st]
  cases k <;> rfl

end Sys2Proof.Machine
end

section
/-! The ends of a sequencer's timers (R110, R112, R117, R122). -/

namespace Sys2Proof.Machine

variable {s t u : State} {n : Sec} {c : SecCtx} {w : Option Watch} {b : ByChan ChanRec} {o : Option Sec} {m : LmgState}
  {l l' : List Report} {r : Report} {k k' : Nat}

namespace Acted

/-- The event ends with these acts, where every report they make passes. -/
theorem ends_all (h : Acted n s c w b o m l t) (a : s.Alone n) (calm : s.agenda = []) (pass : ∀ r ∈ l, t.passes r)
    (few : l.length ≤ 4096) : settle t = { t with agenda := [] } := by
  have agenda : t.agenda = l := by rw [h.agenda, calm, List.nil_append]
  exact settle_passing (h.alone a).gen (by rw [agenda]; exact pass) (by rw [agenda]; exact few)

/-- The event ends with these acts, of which the last reported the section's new state. -/
theorem ends_state (h : Acted n s c w b o m [.seqState n] t) (a : s.Alone n) (calm : s.agenda = []) :
    settle t = { t with agenda := [] } :=
  h.ends_all a calm (fun r mem => List.mem_singleton.mp mem ▸ (h.alone a).passes_seqState) (by simp)

/-- The state that an event leaves has no report waiting. -/
theorem cleared (h : Acted n s c w b o m l t) (calm : s.agenda = []) : Acted n s c w b o m [] { t with agenda := [] } := by
  obtain ⟨port, alarm, free, e⟩ := h.frame
  refine ⟨⟨port, alarm, free, ?_⟩, h.service, h.notes⟩
  rw [calm, e]
  rfl

/-- A section that rests in FED (R107, R108). -/
theorem enterFed (h : Acted n s c w b o m l t) (cause : StartCause) (from_ : c.state ≠ .fed) :
    Acted n s (c.into .fed) none b o { m with anns := m.anns.set n none } (l ++ [.seqState n, .fedEntry n cause])
      (enterFed n cause t) := by
  have made := (h.enter_resting (st := .fed) rfl from_).report (.fedEntry n cause)
  rw [List.append_assoc] at made
  exact made

theorem fedOn (h : Acted n s (c.into .fed) none b o { m with anns := m.anns.set n none } l t) : t.FedOn n c.feed := by
  unfold State.FedOn
  dsimp only
  rw [h.ctx, h.watch, h.lmg]
  exact ⟨rfl, rfl, rfl, rfl, rfl, rfl, rfl, rfl, rfl, rfl, rfl, BySec.get_set_self _ _ _⟩

end Acted

/-- The tests of FED find nothing: the feed's own source is not DOWN, and no return is due (R107, R108). -/
theorem passes_fedEntry (noLoss : ∀ x, (s.ctx n).feed.bind (ownSource n) = some x → s.srcState x ≠ .down)
    (due : s.returnDue n = false) (cause : StartCause) : s.passes (.fedEntry n cause) := by
  intro a
  have rest : evalReturn n ({ s with agenda := a } : State) = { s with agenda := a } :=
    evalReturn_not (s := { s with agenda := a }) due
  have feed : (({ s with agenda := a } : State).ctx n).feed = (s.ctx n).feed := rfl
  show fedTests n cause ({ s with agenda := a } : State) = _
  unfold fedTests
  rw [rest, feed]
  split
  · split
    · rename_i x e
      rw [if_neg (show ({ s with agenda := a } : State).srcState x ≠ .down from noLoss x e)]
    · rfl
  · rfl

/-- The old incomer that is closed is tripped (R114). -/
theorem openTransition_tripped {x : Chan} (old : s.oldChan n = some x) (shut : s.closed x = true) (free : s.blocked = false)
    (rest : (s.bcu.get x).position = .isClosed) : openTransition n s = enter n .opening (startTrip x (.seq n) s) := by
  unfold openTransition
  rw [old]
  dsimp only
  rw [if_pos shut, tripTrigger_free x _ free]
  dsimp only
  rw [rest]

theorem oldChan_of {f : Entry} (lost : (s.ctx n).lost = none) (feed : (s.ctx n).feed = some f) :
    s.oldChan n = some (entryChan ⟨n, f⟩) := by
  unfold State.oldChan
  rw [lost, feed]
  rfl

/-- The close condition of DECAY at the end of t_decay_max (R116). -/
theorem closeCondition_timeout (live : (s.squ.buses.get n).state ≠ .dead) (early : (s.ctx n).deadOver = false)
    (late : (s.ctx n).decayOver = true) (allowed : s.plan.sec n .closeOnTimeout = 1) :
    s.closeCondition n false = some .timeout := by
  unfold State.closeCondition
  dsimp only
  rw [if_neg (by simp), if_neg (fun h => live h.1), if_neg (by simp [early]), if_pos ⟨late, allowed⟩]

/-- The close condition of DECAY under TIMED at the end of t_dead (R116). -/
theorem closeCondition_timed (late : (s.ctx n).deadOver = true) (timed : s.plan.sec n .openMethod = 2) :
    s.closeCondition n false = some .timed := by
  unfold State.closeCondition
  dsimp only
  rw [if_neg (by simp), if_neg (by simp [timed]), if_pos ⟨late, timed⟩]

theorem testDecay_holds {method : Method} {permit : Bool} (auto : s.mode n = .auto) (st : (s.ctx n).state = .decay)
    (holds : s.closeCondition n permit = some method) (passed : List SecEntry) :
    testDecay n permit passed s = decayClose n method passed s := by
  unfold testDecay State.auto
  rw [auto, st, holds]
  rfl

/-- A refused close of DECAY with no other entry left: the section waits (R103, R117). -/
theorem selectPast_waits {passed : List SecEntry}
    (none : ∀ g ∈ t.selEntries n, passed.contains g = false → t.eligible n g = false) :
    selectPast n passed t = enter n .waitSource t := by
  unfold selectPast
  split
  · rfl
  · have no : ((t.selEntries n).find? fun e => !passed.contains e && t.eligible n e) = Option.none := by
      rw [List.find?_eq_none]
      intro g mem
      cases e : passed.contains g with
      | true => simp
      | false => simp [none g mem e]
    rw [no]
    rfl

section Timers

variable {d : Nat}

theorem reach_alone (a : s.Alone n) (d : Nat) : (reach d s).Alone n := ⟨a.auto, a.other, a.gen, a.pending⟩

variable (calm : s.Calm) (a : s.Alone n)
include calm a

/-- The end of a timer in the state it serves. -/
theorem timer_ends {cmd : Instr} {k : SeqTimer} (row : exec cmd s = event (timerOver n k) s)
    (st : (s.ctx n).state = k.serves) (runs : (s.ctx n).timer k = some d) :
    exec cmd s = .next (settle (timerAct n k (timerStopped n k d s))) := by
  rw [exec_event row calm.1, timerOver_served a.auto st runs]

/-- t_return ends and a closed return begins (R110, R111). -/
theorem tReturn_syncs {e : Entry} (st : (s.ctx n).state = .returnWait) (runs : (s.ctx n).tReturn = some d)
    (first : s.preferred n = some e) (closed : s.returnsClosed n = true) (feeds : s.healthy? (s.feedSource n) = true) :
    ∃ m t, exec (.tReturnExpiry n) s = .next t ∧ Acted n (reach d s)
      ((((s.ctx n).stopTimer .tReturn).chosen n ⟨n, e⟩ .return true (max s.now d)).synced
        (max s.now d + s.plan.sec n .tSyncWait * 1000))
      (some ⟨targetPair ⟨n, e⟩, .closedItems, n⟩) s.bcu s.owner m [] t := by
  have stopped := timerStopped_acted n .tReturn d s
  have feed := stopped.feedSource rfl rfl
  have act : timerAct n .tReturn (timerStopped n .tReturn d s) =
      enterSync n (beginTransfer n .return true ⟨n, e⟩ (timerStopped n .tReturn d s)) := by
    show returnOver n _ = _
    unfold returnOver
    rw [show (timerStopped n .tReturn d s).preferred n = some e from stopped.preferred.trans first]
    dsimp only
    rw [stopped.returnsClosed, stopped.healthy?, feed, show (reach d s).returnsClosed n = true from closed,
      show (reach d s).healthy? ((reach d s).feedSource n) = true from feeds]
    rfl
  have made := (stopped.beginTransfer .return true ⟨n, e⟩).enterSync (by
    rw [SecCtx.chosen_state, SecCtx.stopTimer_state, st]; decide)
  refine ⟨_, _, ?_, made.cleared calm.2⟩
  rw [timer_ends (k := .tReturn) calm a rfl st runs, act, made.ends_state (reach_alone a d) calm.2]

/-- The open transition of a section whose closed old incomer is tripped, at a timer's end (R110, R112, R114). -/
theorem trips_at {f : Entry} {t : State} (h : Acted n (reach d s) c w s.bcu s.owner m [] t)
    (feed : c.feed = some f) (lost : c.lost = none) (free : s.blocked = false)
    (rest : (s.bcu.get (entryChan ⟨n, f⟩)).position = .isClosed) (shut : s.closed (entryChan ⟨n, f⟩) = true)
    (from_ : c.state ≠ .opening) :
    settle (openTransition n t) = { openTransition n t with agenda := [] } ∧
    Acted n (reach d s) (c.into .opening) none
      (s.bcu.set (entryChan ⟨n, f⟩) (s.tripBegun (entryChan ⟨n, f⟩) (.seq n) (max s.now d))) s.owner m []
      { openTransition n t with agenda := [] } ∧ (openTransition n t).spt = t.spt := by
  have old : t.oldChan n = some (entryChan ⟨n, f⟩) := oldChan_of (by rw [h.ctx]; exact lost) (by rw [h.ctx]; exact feed)
  have made := h.openTransition_trip old shut rest free from_
  have same := tripBegun_eq (s := s) (x := entryChan ⟨n, f⟩) (.seq n) (max s.now d) (.inl rest)
  refine ⟨made.ends_state (reach_alone a d) calm.2, ?_, ?_⟩
  · rw [same]
    exact made.cleared calm.2
  · rw [openTransition_tripped old (h.closed _ |>.trans shut) (h.blocked.trans free) (by rw [h.bcu]; exact rest), enter_eq]
    exact startTrip_spt _ _ _

/-- t_return ends and an open return begins (R110, R114). -/
theorem tReturn_opens {e f : Entry} (st : (s.ctx n).state = .returnWait) (runs : (s.ctx n).tReturn = some d)
    (first : s.preferred n = some e) (feed : (s.ctx n).feed = some f) (lost : (s.ctx n).lost = none)
    (isOpen : (s.returnsClosed n && s.healthy? (s.feedSource n)) = false) (free : s.blocked = false)
    (rest : (s.bcu.get (entryChan ⟨n, f⟩)).position = .isClosed) (shut : s.closed (entryChan ⟨n, f⟩) = true) :
    ∃ m t, exec (.tReturnExpiry n) s = .next t ∧ Acted n (reach d s)
      ((((s.ctx n).stopTimer .tReturn).chosen n ⟨n, e⟩ .return false (max s.now d)).into .opening)
      none (s.bcu.set (entryChan ⟨n, f⟩) (s.tripBegun (entryChan ⟨n, f⟩) (.seq n) (max s.now d))) s.owner m [] t := by
  have stopped := timerStopped_acted n .tReturn d s
  have source := stopped.feedSource rfl rfl
  have act : timerAct n .tReturn (timerStopped n .tReturn d s) =
      openTransition n (beginTransfer n .return false ⟨n, e⟩ (timerStopped n .tReturn d s)) := by
    show returnOver n _ = _
    unfold returnOver
    rw [show (timerStopped n .tReturn d s).preferred n = some e from stopped.preferred.trans first]
    dsimp only
    rw [stopped.returnsClosed, stopped.healthy?, source,
      show ((reach d s).returnsClosed n && (reach d s).healthy? ((reach d s).feedSource n)) = false from isOpen]
    rfl
  obtain ⟨ends, made, -⟩ := trips_at calm a (stopped.beginTransfer .return false ⟨n, e⟩)
    ((SecCtx.chosen_feed ..).trans feed) ((SecCtx.chosen_lost ..).trans lost) free rest shut
    (by rw [SecCtx.chosen_state, SecCtx.stopTimer_state, st]; decide)
  refine ⟨_, _, ?_, made⟩
  rw [timer_ends (k := .tReturn) calm a rfl st runs, act, ends]

/-- t_sync_wait ends without a fallback: the section is FED on the feed it had (R112). -/
theorem tSyncWait_rests (st : (s.ctx n).state = .sync) (runs : (s.ctx n).tSyncWait = some d)
    (no : s.plan.sec n .fallbackOpen ≠ 1) (noReturn : s.plan.sec n .autoReturn = 0)
    (noLoss : ∀ x, (s.ctx n).feed.bind (ownSource n) = some x → s.srcState x ≠ .down) :
    ∃ m t, exec (.tSyncWaitExpiry n) s = .next t ∧
      Acted n (reach d s) (((s.ctx n).stopTimer .tSyncWait).into .fed) none s.bcu s.owner m [] t ∧
      t.spt = (post (.syncTimeout n (s.ctx n).target ((s.ctx n).lastResult.bind (·.angleSlip))) { s with now := max s.now d }).spt := by
  have stopped := timerStopped_acted n .tSyncWait d s
  obtain ⟨u, hu⟩ : ∃ u, u = post (.syncTimeout n (s.ctx n).target ((s.ctx n).lastResult.bind (·.angleSlip)))
    (timerStopped n .tSyncWait d s) := ⟨_, rfl⟩
  have act : timerAct n .tSyncWait (timerStopped n .tSyncWait d s) = enterFed n .loss u := by
    show syncOver n _ = _
    unfold syncOver
    rw [stopped.plan, if_neg (show (reach d s).plan.sec n .fallbackOpen ≠ 1 from no), stopped.ctx, hu]
    rfl
  have made := (hu ▸ stopped.post (.syncTimeout n (s.ctx n).target ((s.ctx n).lastResult.bind (·.angleSlip))) :
    Acted n (reach d s) _ _ _ _ _ _ u).enterFed .loss (by rw [SecCtx.stopTimer_state, st]; decide)
  have alone := made.alone (reach_alone a d)
  have rests := passes_fedEntry (n := n) (s := enterFed n .loss u)
    (by rw [made.ctx]; exact fun x e => by rw [made.srcState]; exact noLoss x e)
    (returnDue_of_auto (by rw [made.plan]; exact noReturn)) .loss
  have ends := made.ends_all (reach_alone a d) calm.2 (by
    simp only [List.nil_append, List.mem_cons, List.not_mem_nil, or_false]
    rintro r (rfl | rfl)
    · exact alone.passes_seqState
    · exact rests) (by simp)
  refine ⟨_, _, ?_, made.cleared calm.2, ?_⟩
  · rw [timer_ends (k := .tSyncWait) calm a rfl st runs, act, ends]
  · show (enter n .fed u).spt = _
    rw [enter_eq, hu]
    exact post_spt_congr _ rfl rfl

/-- t_sync_wait ends with the fallback: the transition goes on as an open one (R112). -/
theorem tSyncWait_opens {f : Entry} (st : (s.ctx n).state = .sync) (runs : (s.ctx n).tSyncWait = some d)
    (fallback : s.plan.sec n .fallbackOpen = 1) (lost : (s.ctx n).lost = none) (feed : (s.ctx n).feed = some f)
    (free : s.blocked = false) (rest : (s.bcu.get (entryChan ⟨n, f⟩)).position = .isClosed)
    (shut : s.closed (entryChan ⟨n, f⟩) = true) :
    ∃ m t, exec (.tSyncWaitExpiry n) s = .next t ∧ Acted n (reach d s)
      (SecCtx.into { (s.ctx n).stopTimer .tSyncWait with closedTrans := false } .opening)
      none (s.bcu.set (entryChan ⟨n, f⟩) (s.tripBegun (entryChan ⟨n, f⟩) (.seq n) (max s.now d))) s.owner m [] t ∧
      t.spt = s.spt := by
  have stopped := timerStopped_acted n .tSyncWait d s
  have act : timerAct n .tSyncWait (timerStopped n .tSyncWait d s) =
      openTransition n (modSeq n (fun c => { c with closedTrans := false }) (timerStopped n .tSyncWait d s)) := by
    show syncOver n _ = _
    unfold syncOver
    rw [stopped.plan, if_pos (show (reach d s).plan.sec n .fallbackOpen = 1 from fallback)]
  obtain ⟨ends, made, spt⟩ := trips_at calm a (stopped.modSeq fun c => { c with closedTrans := false })
    feed lost free rest shut (by rw [SecCtx.stopTimer_state, st]; decide)
  refine ⟨_, _, ?_, made, spt⟩
  rw [timer_ends (k := .tSyncWait) calm a rfl st runs, act, ends]

/-- A section that halts at the end of a timer (R117, R122, R124). -/
theorem halts_at {t : State} (h : Acted n (reach d s) c w b s.owner m [] t) (aux : ∀ x, (b.get x).aux = (s.bcu.get x).aux)
    (cause : HaltCause) : ∃ o' m' u, settle (halt n cause none t) = u ∧
      Acted n (reach d s) (c.haltedBy cause none (s.adoptedFeed n)) none b o' m' [] u ∧
      u.mdc.alarm = some (max s.now d + s.plan.glob .alarmTime * 1000) := by
  obtain ⟨o', anns, l', few, -, made⟩ := h.halt cause none
  have feed : t.adoptedFeed n = s.adoptedFeed n := by
    unfold State.adoptedFeed State.islandSource State.paths State.closedPaths State.islandOf State.closed
    simp only [h.bcu, aux]
  have ends := made.ends (reach_alone a d) calm.2 (.of_transfer (by rw [made.ctx]; exact .inr (.inr (.inr rfl)))) few (by omega)
  have halted := h.halt_haltedWith cause none
  obtain ⟨-, -, -, -, -, -, -, -, -, -, -, -, alarm, -⟩ := halted
  rw [made.now, made.plan] at alarm
  have cleared := made.cleared calm.2
  rw [feed] at cleared
  exact ⟨o', _, _, ends, cleared, alarm⟩

/-- t_decay_max ends without a close on it: the section halts (R117). -/
theorem tDecayMax_halts (st : (s.ctx n).state = .decay) (runs : (s.ctx n).tDecayMax = some d)
    (no : s.plan.sec n .closeOnTimeout ≠ 1) :
    ∃ o' m' t, exec (.tDecayMaxExpiry n) s = .next t ∧ Acted n (reach d s)
      (SecCtx.haltedBy { (s.ctx n).stopTimer .tDecayMax with decayOver := true } .decayTimeout none (s.adoptedFeed n))
      none s.bcu o' m' [] t ∧ t.mdc.alarm = some (max s.now d + s.plan.glob .alarmTime * 1000) := by
  have stopped := timerStopped_acted n .tDecayMax d s
  have act : timerAct n .tDecayMax (timerStopped n .tDecayMax d s) =
      halt n .decayTimeout none (modSeq n (fun c => { c with decayOver := true }) (timerStopped n .tDecayMax d s)) := by
    show decayOver n _ = _
    unfold decayOver
    rw [stopped.plan, if_neg (show (reach d s).plan.sec n .closeOnTimeout ≠ 1 from no)]
  obtain ⟨o', m', u, ends, made, alarm⟩ :=
    halts_at calm a (stopped.modSeq fun c => { c with decayOver := true }) (fun _ => rfl) .decayTimeout
  refine ⟨o', m', u, ?_, made, alarm⟩
  rw [timer_ends (k := .tDecayMax) calm a rfl st runs, act, ends]

/-- The close of DECAY for an own entry, triggered at the end of a timer (R116). -/
theorem closes_at {e : SecEntry} {t : State} (h : Acted n (reach d s) c w s.bcu s.owner m [] t) (target : c.target = some e)
    (own : e.entry ≠ .tie) (ok : s.closeRefusal (entryChan e) = none) (method : Method) (from_ : c.state = .decay) :
    ∃ u, settle (decayClose n method [] t) = u ∧ Acted n (reach d s) (c.closingBy method (max s.now d)) none
      (s.bcu.set (entryChan e) (s.closeBegun (entryChan e) (.seq n) (max s.now d))) s.owner m [] u := by
  obtain ⟨l', few, made⟩ := h.decayClose_own target own ((h.closeRefusal rfl _).trans ok) method [] (by rw [from_]; decide)
  exact ⟨_, made.ends (reach_alone a d) calm.2 (.of_transfer (by rw [made.ctx]; exact .inr (.inl rfl))) few (by omega),
    made.cleared calm.2⟩

/-- t_decay_max ends with a close on it: the target's close is triggered (R116, R117). -/
theorem tDecayMax_closes {e : SecEntry} (st : (s.ctx n).state = .decay) (runs : (s.ctx n).tDecayMax = some d)
    (allowed : s.plan.sec n .closeOnTimeout = 1) (target : (s.ctx n).target = some e) (own : e.entry ≠ .tie)
    (ok : s.closeRefusal (entryChan e) = none) (live : (s.squ.buses.get n).state ≠ .dead) (early : (s.ctx n).deadOver = false) :
    ∃ m t, exec (.tDecayMaxExpiry n) s = .next t ∧ Acted n (reach d s)
      (SecCtx.closingBy { (s.ctx n).stopTimer .tDecayMax with decayOver := true } .timeout (max s.now d)) none
      (s.bcu.set (entryChan e) (s.closeBegun (entryChan e) (.seq n) (max s.now d))) s.owner m [] t := by
  have flagged := (timerStopped_acted n .tDecayMax d s).modSeq fun c => { c with decayOver := true }
  have holds := closeCondition_timeout (n := n) (s := modSeq n (fun c => { c with decayOver := true }) (timerStopped n .tDecayMax d s))
    (by rw [flagged.squ]; exact live) (by rw [flagged.ctx]; exact early) (by rw [flagged.ctx]) (by rw [flagged.plan]; exact allowed)
  have act : timerAct n .tDecayMax (timerStopped n .tDecayMax d s) =
      decayClose n .timeout [] (modSeq n (fun c => { c with decayOver := true }) (timerStopped n .tDecayMax d s)) := by
    show decayOver n _ = _
    unfold decayOver
    rw [(timerStopped_acted n .tDecayMax d s).plan, if_pos (show (reach d s).plan.sec n .closeOnTimeout = 1 from allowed),
      testDecay_holds (flagged.alone (reach_alone a d)).auto (by rw [flagged.ctx]; exact st) holds]
  obtain ⟨u, ends, made⟩ := closes_at calm a flagged target own ok .timeout st
  refine ⟨_, u, ?_, made⟩
  rw [timer_ends (k := .tDecayMax) calm a rfl st runs, act, ends]

section TDead

variable {e : SecEntry} (st : (s.ctx n).state = .decay) (runs : (s.ctx n).tDead = some d)
  (timed : s.plan.sec n .openMethod = 2) (target : (s.ctx n).target = some e) (own : e.entry ≠ .tie)
include st runs timed

/-- t_dead ends under TIMED: the close of the target is to be triggered (R116, R117). -/
theorem tDead_tests : exec (.tDeadExpiry n) s = .next (settle (decayClose n .timed []
    (modSeq n (fun c => { c with deadOver := true }) (timerStopped n .tDead d s)))) := by
  have flagged := (timerStopped_acted n .tDead d s).modSeq fun c => { c with deadOver := true }
  have holds := closeCondition_timed (n := n) (s := modSeq n (fun c => { c with deadOver := true }) (timerStopped n .tDead d s))
    (by rw [flagged.ctx]) (by rw [flagged.plan]; exact timed)
  have act : timerAct n .tDead (timerStopped n .tDead d s) =
      decayClose n .timed [] (modSeq n (fun c => { c with deadOver := true }) (timerStopped n .tDead d s)) :=
    testDecay_holds (flagged.alone (reach_alone a d)).auto (by rw [flagged.ctx]; exact st) holds []
  rw [timer_ends (k := .tDead) calm a rfl st runs, act]

include target own

theorem tDead_closes (ok : s.closeRefusal (entryChan e) = none) :
    ∃ m t, exec (.tDeadExpiry n) s = .next t ∧ Acted n (reach d s)
      (SecCtx.closingBy { (s.ctx n).stopTimer .tDead with deadOver := true } .timed (max s.now d)) none
      (s.bcu.set (entryChan e) (s.closeBegun (entryChan e) (.seq n) (max s.now d))) s.owner m [] t := by
  obtain ⟨u, ends, made⟩ := closes_at calm a
    ((timerStopped_acted n .tDead d s).modSeq fun c => { c with deadOver := true }) target own ok .timed st
  refine ⟨_, u, ?_, made⟩
  rw [tDead_tests calm a st runs timed, ends]

/-- The close is refused, and no other entry is eligible: the section waits (R103, R116, R117). -/
theorem tDead_waits {r : Status} (no : s.closeRefusal (entryChan e) = some r)
    (others : ∀ g ∈ s.selEntries n, g ≠ e → s.eligible n g = false) :
    ∃ m t, exec (.tDeadExpiry n) s = .next t ∧ Acted n (reach d s)
      (SecCtx.into { (s.ctx n).stopTimer .tDead with deadOver := true } .waitSource) none s.bcu s.owner m [] t ∧
      t.Noted (.closeFail n (entryChan e) (.refused r)) := by
  have flagged := (timerStopped_acted n .tDead d s).modSeq fun c => { c with deadOver := true }
  obtain ⟨u, hu⟩ : ∃ u, u = post (.closeFail n (entryChan e) (.refused r))
    (modSeq n (fun c => { c with deadOver := true }) (timerStopped n .tDead d s)) := ⟨_, rfl⟩
  have posted : Acted n (reach d s) _ _ _ _ _ _ u := hu ▸ flagged.post (.closeFail n (entryChan e) (.refused r))
  have one : u.classOne = (reach d s).classOne := posted.classOne rfl
  have halted : (({ (s.ctx n).stopTimer .tDead with deadOver := true } : SecCtx).state = .halted) =
    (((reach d s).ctx n).state = .halted) := rfl
  have act : decayClose n .timed [] (modSeq n (fun c => { c with deadOver := true }) (timerStopped n .tDead d s)) =
      enter n .waitSource u := by
    unfold decayClose
    rw [flagged.ctx, show (({ (s.ctx n).stopTimer .tDead with deadOver := true } : SecCtx)).target = some e from target]
    dsimp only
    rw [closeTarget_refused own ((flagged.closeRefusal rfl _).trans no)]
    dsimp only
    rw [← hu, selectPast_waits]
    intro g mem other
    rw [posted.selEntries rfl rfl halted] at mem
    rw [posted.eligible rfl rfl one rfl]
    exact others g mem (by simpa using other)
  have made := posted.enter_resting (st := .waitSource) rfl (by
    rw [show (({ (s.ctx n).stopTimer .tDead with deadOver := true } : SecCtx)).state = .decay from st]; decide)
  refine ⟨_, _, ?_, made.cleared calm.2, ?_⟩
  · rw [tDead_tests calm a st runs timed, act, made.ends_state (reach_alone a d) calm.2]
  · have noted : u.Noted (.closeFail n (entryChan e) (.refused r)) := hu ▸ noted_post _ _
    intro open_
    rw [show ({ enter n .waitSource u with agenda := [] } : State).spt = u.spt by rw [enter_eq]] at open_ ⊢
    exact noted open_

end TDead

/-- An overlap whose outgoing entry is the target fails by its timer: the section halts (R122). -/
theorem tOverlap_halts (st : (s.ctx n).state = .overlap) (runs : (s.ctx n).tOverlap = some d)
    (out : (s.ctx n).outIsTarget = true) :
    ∃ o' m' t, exec (.tOverlapExpiry n) s = .next t ∧ Acted n (reach d s)
      (SecCtx.haltedBy ((s.ctx n).stopTimer .tOverlap) .overlapFail none (s.adoptedFeed n))
      none s.bcu o' m' [] t ∧ t.mdc.alarm = some (max s.now d + s.plan.glob .alarmTime * 1000) := by
  have stopped := timerStopped_acted n .tOverlap d s
  have act : timerAct n .tOverlap (timerStopped n .tOverlap d s) = halt n .overlapFail none (timerStopped n .tOverlap d s) := by
    show overlapFail n _ _ _ = _
    unfold overlapFail
    rw [stopped.ctx, if_pos (show ((s.ctx n).stopTimer .tOverlap).outIsTarget = true from out)]
  obtain ⟨o', m', u, ends, made, alarm⟩ := halts_at calm a stopped (fun _ => rfl) .overlapFail
  refine ⟨o', m', u, ?_, made, alarm⟩
  rw [timer_ends (k := .tOverlap) calm a rfl st runs, act, ends]

/-- One whose outgoing entry is the old feed fails so: the target is tripped (R122). -/
theorem tOverlap_trips {e : SecEntry} (st : (s.ctx n).state = .overlap) (runs : (s.ctx n).tOverlap = some d)
    (target : (s.ctx n).target = some e) (out : (s.ctx n).outIsTarget = false) (free : s.blocked = false)
    (rest : (s.bcu.get (entryChan e)).position = .isClosed) :
    ∃ o' m' t, exec (.tOverlapExpiry n) s = .next t ∧ Acted n (reach d s)
      (SecCtx.haltedBy ((s.ctx n).stopTimer .tOverlap) .overlapFail none (s.adoptedFeed n)) none
      (s.bcu.set (entryChan e) (s.tripBegun (entryChan e) (.seq n) (max s.now d))) o' m' [] t ∧
      t.mdc.alarm = some (max s.now d + s.plan.glob .alarmTime * 1000) := by
  have stopped := timerStopped_acted n .tOverlap d s
  have tripped := stopped.startTrip (entryChan e) (.seq n) (by rw [rest]; decide) (by rw [rest]; decide)
  have act : timerAct n .tOverlap (timerStopped n .tOverlap d s) =
      halt n .overlapFail none (startTrip (entryChan e) (.seq n) (timerStopped n .tOverlap d s)) := by
    show overlapFail n _ _ _ = _
    unfold overlapFail State.targetChan
    rw [stopped.ctx, if_neg (by rw [show ((s.ctx n).stopTimer .tOverlap).outIsTarget = false from out]; decide),
      show ((s.ctx n).stopTimer .tOverlap).target = some e from target]
    dsimp only [Option.map_some]
    rw [tripTrigger_free _ _ (stopped.blocked.trans free)]
  obtain ⟨o', m', u, ends, made, alarm⟩ := halts_at calm a tripped (fun x => by
    rw [ByChan.get_set]
    split
    · rename_i e
      rw [← e, trip_eq]
    · rfl) .overlapFail
  refine ⟨o', m', u, ?_, ?_, alarm⟩
  · rw [timer_ends (k := .tOverlap) calm a rfl st runs, act, ends]
  · rw [tripBegun_eq (s := s) (.seq n) (max s.now d) (.inl rest)]
    exact made

end Timers

/-- Settles O52. -/
theorem sequencerTimersExpire : Obligations.SequencerTimersExpire := by
  intro s n d calm gen pending auto manual c now Rest Halted
  have a : s.Alone n := ⟨auto, manual, gen, pending⟩
  have halted {cause : HaltCause} {c' : SecCtx} {b : ByChan ChanRec} {o : Option Sec} {m : LmgState} {t : State}
      (h : Acted n (reach d s) (c'.haltedBy cause none (s.adoptedFeed n)) none b o m [] t)
      (alarm : t.mdc.alarm = some (now + s.plan.glob .alarmTime * 1000)) : Halted cause t := by
    refine ⟨h.rest, ?_⟩
    rw [h.ctx]
    exact ⟨rfl, rfl, rfl, rfl, rfl, rfl, rfl, rfl, alarm⟩
  refine ⟨fun e st runs first closed feeds => ?sync, fun e f st runs first feed lost isOpen free rest shut => ?opens,
    fun st runs no noReturn noLoss => ?rests, fun f st runs fallback lost feed free rest shut => ?fallback,
    fun st runs no => ?decayHalts, fun e st runs allowed target own ok live early => ?decayCloses,
    fun e st runs timed target own ok => ?timed, fun e r st runs timed target own no others => ?refused,
    fun st runs out => ?overlapOut, fun e st runs target out free rest => ?overlapTrips⟩
  case sync =>
    obtain ⟨m, t, row, h⟩ := tReturn_syncs calm a st runs first closed feeds
    refine ⟨t, row, h.rest, ?_⟩
    rw [h.ctx, h.watch, h.bcu]
    exact ⟨rfl, rfl, SecCtx.chosen_target .., rfl, SecCtx.chosen_feed .., rfl, rfl, rfl⟩
  case opens =>
    obtain ⟨m, t, row, h⟩ := tReturn_opens calm a st runs first feed lost isOpen free rest shut
    refine ⟨t, row, h.rest, ?_⟩
    rw [h.ctx, h.bcu]
    refine ⟨rfl, rfl, SecCtx.chosen_target .., ?_, rfl, SecCtx.chosen_feed .., rfl⟩
    show SecCtx.start? { (s.ctx n).stopTimer .tReturn with target := some ⟨n, e⟩ } n = _
    unfold SecCtx.start?
    rw [show ({ (s.ctx n).stopTimer .tReturn with target := some ⟨n, e⟩ } : SecCtx).lost = none from lost,
      show ({ (s.ctx n).stopTimer .tReturn with target := some ⟨n, e⟩ } : SecCtx).feed = some f from feed]
    rfl
  case rests =>
    obtain ⟨m, t, row, h, port⟩ := tSyncWait_rests calm a st runs no noReturn noLoss
    refine ⟨t, row, h.rest, ?_⟩
    rw [h.ctx, h.watch, h.bcu]
    exact ⟨rfl, rfl, rfl, rfl, rfl, rfl, port⟩
  case fallback =>
    obtain ⟨m, t, row, h, port⟩ := tSyncWait_opens calm a st runs fallback lost feed free rest shut
    refine ⟨t, row, h.rest, ?_⟩
    rw [h.ctx, h.watch, h.bcu]
    exact ⟨rfl, rfl, rfl, rfl, rfl, rfl, port, rfl⟩
  case decayHalts =>
    obtain ⟨o, m, t, row, h, alarm⟩ := tDecayMax_halts calm a st runs no
    exact ⟨t, row, halted h alarm, h.bcu⟩
  case decayCloses =>
    obtain ⟨m, t, row, h⟩ := tDecayMax_closes calm a st runs allowed target own ok live early
    refine ⟨t, row, h.rest, ?_⟩
    rw [h.ctx, h.watch, h.bcu]
    exact ⟨rfl, rfl, target, rfl, rfl, rfl, rfl, rfl, rfl⟩
  case timed =>
    obtain ⟨m, t, row, h⟩ := tDead_closes calm a st runs timed target own ok
    refine ⟨t, row, h.rest, ?_⟩
    rw [h.ctx, h.watch, h.bcu]
    exact ⟨rfl, rfl, target, rfl, rfl, rfl, rfl, rfl⟩
  case refused =>
    obtain ⟨m, t, row, h, noted⟩ := tDead_waits calm a st runs timed target own no others
    refine ⟨t, row, h.rest, ?_⟩
    rw [h.ctx, h.watch, h.bcu]
    exact ⟨rfl, rfl, rfl, rfl, rfl, rfl, rfl, noted⟩
  case overlapOut =>
    obtain ⟨o, m, t, row, h, alarm⟩ := tOverlap_halts calm a st runs out
    exact ⟨t, row, halted h alarm, h.bcu⟩
  case overlapTrips =>
    obtain ⟨o, m, t, row, h, alarm⟩ := tOverlap_trips calm a st runs target out free rest
    exact ⟨t, row, halted h alarm, h.bcu⟩

end Sys2Proof.Machine
end

section
/-! The block's entry and release with one section in AUTO (R103, R113, R164, R169, R170). -/

namespace Sys2Proof.Machine

variable {s t u : State} {n : Sec} {c : SecCtx} {w : Option Watch} {b : ByChan ChanRec} {o : Option Sec} {m : LmgState}
  {l l' : List Report} {r : Report} {k k' : Nat}

/-! ### States said of a section, after acts of others -/

theorem State.HaltedWith.later {left : SeqState} {cause : HaltCause} {ch : Option Chan} (h : t.HaltedWith n left cause ch)
    (ctx : u.ctx n = t.ctx n) (bcu : u.bcu = t.bcu) (watch : u.ccu.watches.get n = t.ccu.watches.get n)
    (alarm : u.mdc.alarm = t.mdc.alarm) (now : u.now = t.now) (plan : u.plan = t.plan) (notes : NotesGrow t u) :
    u.HaltedWith n left cause ch := by
  unfold State.HaltedWith at *
  dsimp only at *
  rw [ctx, watch, alarm, now, plan, adoptedFeed_congr bcu]
  obtain ⟨h1, h2, h3, h4, h5, h6, h7, h8, h9, h10, h11, h12, h13, noted⟩ := h
  exact ⟨h1, h2, h3, h4, h5, h6, h7, h8, h9, h10, h11, h12, h13, notes.noted noted⟩

theorem State.FedOn.later {feed : Option Entry} (h : t.FedOn n feed) (ctx : u.ctx n = t.ctx n)
    (watch : u.ccu.watches.get n = t.ccu.watches.get n) (ann : u.lmg.anns.get n = t.lmg.anns.get n) : u.FedOn n feed := by
  unfold State.FedOn at *
  dsimp only at *
  rw [ctx, watch, ann]
  exact h

/-! ### The waiting section -/

theorem choose_none (own : s.NoneHealthy n) (other : s.NoneHealthy n.other) : s.choose n = none := by
  unfold State.choose
  rw [List.find?_eq_none]
  intro g _
  have sick : s.healthy? (s.entrySource g) = false := by
    obtain ⟨q, g⟩ := g
    by_cases e : q = n
    · exact e ▸ own g
    · exact (show q = n.other by cases q <;> cases n <;> simp_all [Sec.other]) ▸ other g
  simp [State.eligible, State.targetFits, sick]

theorem lostIsBack_none (own : s.NoneHealthy n) : s.lostIsBack n = none := by
  unfold State.lostIsBack
  split
  · rename_i l _
    rw [own l.entry, Bool.and_false]
    rfl
  · rfl

/-- A section that waits, with nothing to select, enters WAIT_SOURCE again. -/
theorem waitTest_waits (back : s.lostIsBack n = none) (no : s.held n = true ∨ s.choose n = none) :
    waitTest n s = enter n .waitSource s := by
  unfold waitTest
  rw [back]
  dsimp only
  unfold select
  split
  · rfl
  · rename_i held
    rw [no.resolve_left held]
    rfl

/-! ### The entry -/

theorem forBoth_one {f : Sec → State → State} (n : Sec) (still : ∀ t : State, t.mode n.other = .manual → f n.other t = t)
    (manual : s.mode n.other = .manual) (kept : (f n s).mode n.other = s.mode n.other) : f .sec2 (f .sec1 s) = f n s := by
  cases n with
  | sec1 => exact still _ (kept.trans manual)
  | sec2 => rw [show f .sec1 s = s from still s manual]

/-- Every pulse of the channels stops, and of the sections the one in AUTO is told (R169). -/
theorem blockEntry_one (a : s.Alone n) : ∃ b : ByChan ChanRec, (∀ ch, b.get ch = (s.bcu.get ch).stop) ∧
    blockEntry s = loadBlocked (seqBlocked n { s with bcu := b }) := by
  obtain ⟨b, stopped⟩ := stopAllPulses_frame s
  refine ⟨b, fun ch => ?_, ?_⟩
  · have := stopAllPulses_get s ch
    rw [stopped] at this
    exact this
  · have kept : (seqBlocked n { s with bcu := b }).mode n.other = s.mode n.other :=
      congrArg (·.get n.other) (seqBlocked_moves n (.refl : Moves { s with bcu := b } _)).modes_eq
    unfold blockEntry
    rw [stopped, forBoth_one (s := { s with bcu := b }) (f := seqBlocked) n (fun t => seqBlocked_manual) a.other kept]

theorem loadBlocked_load (s : State) : LoadOnly s (loadBlocked s) := by
  obtain ⟨i, e⟩ := loadBlocked_frame s
  rw [e]
  rfl

theorem loadBlocked_anns (s : State) : (loadBlocked s).lmg.anns = s.lmg.anns := by
  obtain ⟨i, e⟩ := loadBlocked_frame s
  rw [e]

theorem Acted.loadBlocked (h : Acted n s c w b o m l t) : Acted n s c w b o (loadBlocked t).lmg l (loadBlocked t) := by
  refine h.load (loadBlocked_load t) ?_
  obtain ⟨i, e⟩ := loadBlocked_frame t
  rw [e]
  exact .of_spt rfl rfl

theorem returnDue_of_blocked (block : s.blocked = true) : s.returnDue n = false := by
  unfold State.returnDue State.held State.heldBy
  simp [block]

section SeqBlocked

variable (a : s.Alone n)
include a

theorem seqBlocked_rests (st : (s.ctx n).state = .fed ∨ (s.ctx n).state = .waitSource ∨ (s.ctx n).state = .halted) :
    seqBlocked n s = s := by
  unfold seqBlocked
  rw [if_pos a.is_auto]
  rcases st with e | e | e <;> rw [e]

theorem seqBlocked_halts
    (st : (s.ctx n).state = .opening ∨ (s.ctx n).state = .closing ∨ (s.ctx n).state = .overlap) :
    seqBlocked n s = halt n .blockedInTransfer (s.inFlight n) s := by
  unfold seqBlocked
  rw [if_pos a.is_auto]
  rcases st with e | e | e <;> rw [e]

theorem seqBlocked_waits (st : (s.ctx n).state = .decay) : seqBlocked n s = enter n .waitSource s := by
  unfold seqBlocked
  rw [if_pos a.is_auto, st]

theorem seqBlocked_feeds (st : (s.ctx n).state = .sync ∨ (s.ctx n).state = .returnWait) :
    seqBlocked n s = enterFed n .loss s := by
  unfold seqBlocked
  rw [if_pos a.is_auto]
  rcases st with e | e <;> rw [e]

end SeqBlocked

section EntryEnds

variable (a : s.Alone n) (calm : s.agenda = [])
include a calm

theorem blockEntry_halts
    (st : (s.ctx n).state = .opening ∨ (s.ctx n).state = .closing ∨ (s.ctx n).state = .overlap) :
    ∃ c w o m t, settle (loadBlocked (seqBlocked n s)) = t ∧ Acted n s c w s.bcu o m [] t ∧
      t.HaltedWith n (s.ctx n).state .blockedInTransfer (s.inFlight n) := by
  have start := Acted.refl n s
  obtain ⟨o', anns, l', few, -, made⟩ := start.halt .blockedInTransfer (s.inFlight n)
  have halted := start.halt_haltedWith .blockedInTransfer (s.inFlight n)
  have later := made.loadBlocked
  have ends := later.ends a calm (.of_transfer (by rw [later.ctx]; exact .inr (.inr (.inr rfl)))) few (by omega)
  obtain ⟨i, e⟩ := loadBlocked_frame (halt n .blockedInTransfer (s.inFlight n) s)
  rw [seqBlocked_halts a st]
  refine ⟨_, _, _, _, _, ends, later.cleared calm, ?_⟩
  rw [e]
  exact halted.later rfl rfl rfl rfl rfl rfl (.of_spt rfl rfl)

theorem blockEntry_waits (st : (s.ctx n).state = .decay) :
    ∃ c w o m t, settle (loadBlocked (seqBlocked n s)) = t ∧ Acted n s c w s.bcu o m [] t ∧
      t.ctx n = (s.ctx n).into .waitSource := by
  have later := ((Acted.refl n s).enter_resting (st := .waitSource) rfl (by rw [st]; decide)).loadBlocked
  have ends := later.ends_state a calm
  rw [seqBlocked_waits a st]
  exact ⟨_, _, _, _, _, ends, later.cleared calm, later.ctx⟩

theorem blockEntry_feeds (st : (s.ctx n).state = .sync ∨ (s.ctx n).state = .returnWait) (block : s.blocked = true)
    (noLoss : ∀ x, (s.ctx n).feed.bind (ownSource n) = some x → s.srcState x ≠ .down) :
    ∃ c w o m t, settle (loadBlocked (seqBlocked n s)) = t ∧ Acted n s c w s.bcu o m [] t ∧ t.FedOn n (s.ctx n).feed := by
  have made := (Acted.refl n s).enterFed .loss (by rcases st with e | e <;> rw [e] <;> decide)
  have fed := made.fedOn
  have later := made.loadBlocked
  have alone := later.alone a
  have rests := passes_fedEntry (n := n) (s := loadBlocked (enterFed n .loss s))
    (by rw [later.ctx]; exact fun x e => by rw [later.srcState]; exact noLoss x e)
    (returnDue_of_blocked (later.blocked.trans block)) .loss
  have ends := later.ends_all a calm (by
    simp only [List.nil_append, List.mem_cons, List.not_mem_nil, or_false]
    rintro r (rfl | rfl)
    · exact alone.passes_seqState
    · exact rests) (by simp)
  rw [seqBlocked_feeds a st]
  refine ⟨_, _, _, _, _, ends, later.cleared calm, ?_⟩
  exact fed.later (later.ctx.trans made.ctx.symm) (later.watch.trans made.watch.symm)
    (congrArg (BySec.get · n) (loadBlocked_anns (enterFed n .loss s)))

theorem blockEntry_rests
    (st : (s.ctx n).state = .fed ∨ (s.ctx n).state = .waitSource ∨ (s.ctx n).state = .halted) :
    ∃ c w o m t, settle (loadBlocked (seqBlocked n s)) = t ∧ Acted n s c w s.bcu o m [] t ∧ t.ctx n = s.ctx n := by
  have later := (Acted.refl n s).loadBlocked
  have ends := later.ends_all a calm (fun _ mem => nomatch mem) (by simp)
  rw [seqBlocked_rests a st]
  exact ⟨_, _, _, _, _, ends, later.cleared calm, later.ctx⟩

end EntryEnds

/-- The four sorts of states at the block's entry (R169). -/
theorem SeqState.blocked_sorts (st : SeqState) : (st = .opening ∨ st = .closing ∨ st = .overlap) ∨ st = .decay ∨
    (st = .sync ∨ st = .returnWait) ∨ (st = .fed ∨ st = .waitSource ∨ st = .halted) := by
  cases st <;> simp

/-! ### The release -/

theorem blockRelease_one (a : s.Alone n) : ∃ v, blockRelease s = superviseAll (seqReleased n { s with lmg := { s.lmg with lines := v } }) := by
  obtain ⟨v, driven⟩ := driveAllLines_frame s
  refine ⟨v, ?_⟩
  have kept : (seqReleased n { s with lmg := { s.lmg with lines := v } }).mode n.other = s.mode n.other :=
    congrArg (·.get n.other) (seqReleased_moves n (.refl : Moves { s with lmg := { s.lmg with lines := v } } _)).modes_eq
  unfold blockRelease
  rw [driven, forBoth_one (s := { s with lmg := { s.lmg with lines := v } }) (f := seqReleased) n
    (fun t => seqReleased_manual) a.other kept]

theorem seqReleased_waits (a : s.Alone n) (idle : s.mdc.settle.get n = none) (st : (s.ctx n).state = .waitSource)
    (own : s.NoneHealthy n) (other : s.NoneHealthy n.other) : seqReleased n s = enter n .waitSource s := by
  unfold seqReleased holdEnded
  rw [if_pos (by rw [idle]; rfl), if_pos a.is_auto, st]
  exact waitTest_waits (lostIsBack_none own) (.inr (choose_none own other))

theorem seqReleased_fed (idle : s.mdc.settle.get n = none) (st : (s.ctx n).state = .fed)
    (no : s.plan.sec n .autoReturn = 0) : seqReleased n s = s := by
  unfold seqReleased holdEnded
  rw [if_pos (by rw [idle]; rfl), st, evalReturn_not (returnDue_of_auto no)]
  exact ite_self s

theorem Acted.superviseAll (h : Acted n s c w b o m l t) : Acted n s c w b o (superviseAll t).lmg l (superviseAll t) :=
  h.load (superviseAll_load t) (superviseAll_moves .refl).notesGrow

/-- What the block's release leaves of a section that rests on (R170). -/
theorem blockRelease_rests (a : s.Alone n) (calm : s.agenda = []) (idle : s.mdc.settle.get n = none)
    (st : (s.ctx n).state = .fed ∧ s.plan.sec n .autoReturn = 0 ∨
      (s.ctx n).state = .waitSource ∧ s.NoneHealthy n ∧ s.NoneHealthy n.other) :
    ∃ c w m t, settle (blockRelease s) = t ∧ Acted n s c w s.bcu s.owner m [] t ∧
      (c = s.ctx n ∨ (s.ctx n).state = .waitSource ∧ c = (s.ctx n).into .waitSource) := by
  obtain ⟨v, e⟩ := blockRelease_one a
  have start : Acted n s (s.ctx n) (s.ccu.watches.get n) s.bcu s.owner { s.lmg with lines := v } []
      { s with lmg := { s.lmg with lines := v } } := (Acted.refl n s).load (show LoadOnly s { s with lmg := { s.lmg with lines := v } } from rfl) (.of_spt rfl rfl)
  rw [e]
  rcases st with ⟨st, no⟩ | ⟨st, own, other⟩
  · rw [seqReleased_fed (s := { s with lmg := { s.lmg with lines := v } }) idle st no]
    have later := start.superviseAll
    exact ⟨_, _, _, _, later.ends_all a calm (fun _ mem => nomatch mem) (by simp), later.cleared calm, .inl rfl⟩
  · rw [seqReleased_waits (s := { s with lmg := { s.lmg with lines := v } }) (start.alone a) idle st own other]
    have entered := start.enter .waitSource
    rw [if_pos st] at entered
    have later := entered.superviseAll
    exact ⟨_, _, _, _, later.ends_all a calm (fun _ mem => nomatch mem) (by simp), later.cleared calm, .inr ⟨st, rfl⟩⟩

/-- Settles O49. -/
theorem blockInAuto : Obligations.BlockInAuto := by
  intro s n alone c
  obtain ⟨⟨out, calm⟩, gen, pending, adopted, auto, manual⟩ := alone
  refine ⟨fun free noLoss => ?entry, fun held host idle st => ?release⟩
  case entry =>
    obtain ⟨s1, h1⟩ : ∃ s1 : State, s1 = { s with mdc := { s.mdc with blk := s.mdc.blk.accept true } } := ⟨_, rfl⟩
    have a1 : s1.Alone n := by subst h1; exact ⟨auto, manual, gen, pending⟩
    have block : s1.blocked = true := by subst h1; rfl
    obtain ⟨b, stops, e⟩ := blockEntry_one a1
    obtain ⟨s2, h2⟩ : ∃ s2 : State, s2 = { s1 with bcu := b } := ⟨_, rfl⟩
    have a2 : s2.Alone n := by subst h2; exact ⟨a1.auto, a1.other, a1.gen, a1.pending⟩
    have calm2 : s2.agenda = [] := by subst h2; subst h1; exact calm
    have row : exec (.blknAccepted true) s = .next (settle (loadBlocked (seqBlocked n s2))) := by
      rw [exec_event (f := blkAccept true) rfl out]
      unfold blkAccept changeBlock
      dsimp only
      rw [free, ← h1, block]
      dsimp only
      rw [e, ← h2]
    have bcu2 : s2.bcu = b := by rw [h2]
    have block2 : s2.blocked = true := by subst h2; exact block
    have same {c w o m t} (h : Acted n s2 c w s2.bcu o m [] t) : t.blocked = true ∧
        (∀ ch, t.bcu.get ch = (s.bcu.get ch).stop) ∧ t.ctx n.other = s.ctx n.other ∧ t.hlc = s.hlc ∧ t.pst = s.pst ∧
        t.mdc.modes = s.mdc.modes := by
      refine ⟨h.blocked.trans block2, fun ch => ?_, ?_⟩
      · rw [h.bcu, bcu2, stops]
        subst h1
        rfl
      · subst h2
        subst h1
        exact ⟨h.other, h.hlc, h.pst, h.modes⟩
    have ctx2 : s2.ctx n = c := by subst h2; subst h1; rfl
    have flight : s2.inFlight n = s.inFlight n := by subst h2; subst h1; rfl
    rw [row]
    rcases c.state.blocked_sorts with st | st | st | st
    · obtain ⟨_, _, _, _, t, ends, h, halted⟩ := blockEntry_halts a2 calm2 (by rw [ctx2]; exact st)
      obtain ⟨blocked, bcu, rest⟩ := same h
      rw [ctx2, flight] at halted
      exact ⟨t, congrArg _ ends, blocked, bcu, rest.1, rest.2.1, rest.2.2.1, rest.2.2.2, fun _ => halted,
        fun no => absurd no (by rcases st with e | e | e <;> simp [e]),
        fun no => absurd no (by rcases st with e | e | e <;> simp [e]),
        fun no => absurd no (by rcases st with e | e | e <;> simp [e])⟩
    · obtain ⟨_, _, _, _, t, ends, h, waits⟩ := blockEntry_waits a2 calm2 (by rw [ctx2]; exact st)
      obtain ⟨blocked, bcu, rest⟩ := same h
      rw [ctx2] at waits
      refine ⟨t, congrArg _ ends, blocked, bcu, rest.1, rest.2.1, rest.2.2.1, rest.2.2.2, fun no => absurd no (by simp [st]),
        fun _ => ?_, fun no => absurd no (by simp [st]), fun no => absurd no (by simp [st])⟩
      rw [waits]
      exact ⟨rfl, rfl, rfl, rfl, rfl⟩
    · obtain ⟨_, _, _, _, t, ends, h, fed⟩ := blockEntry_feeds a2 calm2 (by rw [ctx2]; exact st) block2
        (by rw [ctx2]; subst h2; subst h1; exact noLoss)
      obtain ⟨blocked, bcu, rest⟩ := same h
      rw [ctx2] at fed
      exact ⟨t, congrArg _ ends, blocked, bcu, rest.1, rest.2.1, rest.2.2.1, rest.2.2.2,
        fun no => absurd no (by rcases st with e | e <;> simp [e]), fun no => absurd no (by rcases st with e | e <;> simp [e]),
        fun _ => fed, fun no => absurd no (by rcases st with e | e <;> simp [e])⟩
    · obtain ⟨_, _, _, _, t, ends, h, same_ctx⟩ := blockEntry_rests a2 calm2 (by rw [ctx2]; exact st)
      obtain ⟨blocked, bcu, rest⟩ := same h
      exact ⟨t, congrArg _ ends, blocked, bcu, rest.1, rest.2.1, rest.2.2.1, rest.2.2.2,
        fun no => absurd no (by rcases st with e | e | e <;> simp [e]),
        fun no => absurd no (by rcases st with e | e | e <;> simp [e]),
        fun no => absurd no (by rcases st with e | e | e <;> simp [e]), fun _ => same_ctx.trans ctx2⟩
  case release =>
    obtain ⟨s1, h1⟩ : ∃ s1 : State, s1 = { s with mdc := { s.mdc with blk := s.mdc.blk.accept false } } := ⟨_, rfl⟩
    have a1 : s1.Alone n := by subst h1; exact ⟨auto, manual, gen, pending⟩
    have calm1 : s1.agenda = [] := by subst h1; exact calm
    have was : s.blocked = true := by unfold State.blocked; rw [held]; rfl
    have free : s1.blocked = false := by
      subst h1
      unfold State.blocked
      rw [host]
      rfl
    have row : exec (.blknAccepted false) s = .next (settle (blockRelease s1)) := by
      rw [exec_event (f := blkAccept false) rfl out]
      unfold blkAccept changeBlock
      dsimp only
      rw [was, ← h1, free]
    obtain ⟨c', w, m, t, ends, h, what⟩ := blockRelease_rests a1 calm1 (by subst h1; exact idle) (by
      subst h1
      exact st.imp id fun ⟨waits, _, own, other⟩ => ⟨waits, own, other⟩)
    refine ⟨t, row.trans (congrArg _ ends), h.blocked.trans free, ?_⟩
    have ctx := h.ctx
    subst h1
    refine ⟨h.bcu, h.restKept rfl, ?_⟩
    rw [ctx]
    rcases what with e | ⟨waits, e⟩
    · rw [e]
      exact ⟨rfl, rfl, rfl, rfl⟩
    · rw [e]
      have empty : c.target = none := st.elim (fun ⟨fed, _⟩ => absurd (fed.symm.trans waits) (by decide)) fun ⟨_, empty, _⟩ => empty
      exact ⟨waits.symm, rfl, empty.symm, rfl⟩

end Sys2Proof.Machine
end

section
/-! TRANSFER_REQUEST (R109, R135). -/

namespace Sys2Proof.Machine

variable {s t u : State} {n : Sec} {e : Entry} {c : SecCtx} {w : Option Watch} {b : ByChan ChanRec} {o : Option Sec}
  {m : LmgState} {l l' : List Report}

/-- The tests of a TRANSFER_REQUEST that answer BUSY. -/
def State.transferBusy (s : State) (n : Sec) (e : Entry) : Bool :=
  (s.mdc.settle.get n).isSome || !(s.ctx n).state.settled ||
    (e != .tie && (s.ctx n).role == .dependent && !(s.ctx n.other).state.settled)

section Refusals

theorem transferRefusal_manual (manual : s.mode n = .manual) : s.transferRefusal n e = some (.wrongMode, none) := by
  unfold State.transferRefusal State.auto
  rw [manual]
  rfl

variable (auto : s.mode n = .auto)
include auto

theorem transferRefusal_blocked (block : s.blocked = true) : s.transferRefusal n e = some (.blocked, none) := by
  unfold State.transferRefusal State.auto
  rw [auto, block]
  rfl

variable (free : s.blocked = false)
include free

theorem transferRefusal_busy (busy : s.transferBusy n e = true) : s.transferRefusal n e = some (.busy, none) := by
  unfold State.transferRefusal State.auto
  unfold State.transferBusy at busy
  rw [auto, free]
  dsimp only
  rw [if_neg (by decide), if_neg (by decide)]
  cases own : (s.mdc.settle.get n).isSome || !(s.ctx n).state.settled with
  | true => rw [if_pos rfl]
  | false =>
    rw [own, Bool.false_or] at busy
    rw [if_neg (by decide), if_pos (by simpa [and_assoc] using busy)]

theorem transferRefusal_rest (idle : s.transferBusy n e = false) : s.transferRefusal n e =
    if (s.ctx n).feed = some e ∨ !(s.plan.prefs n).contains e then some (.notAvailable, none)
    else if s.eligible n ⟨n, e⟩ then none
    else if e = .tie then some (.notAvailable, s.claimTest n)
    else some (.notAvailable, none) := by
  unfold State.transferBusy at idle
  obtain ⟨own, other⟩ := Bool.or_eq_false_iff.mp idle
  unfold State.transferRefusal State.auto
  dsimp only
  rw [auto, free, own, if_neg (by decide), if_neg (by decide), if_neg (by decide), if_neg]
  rintro ⟨h1, h2, h3⟩
  simp [h1, h2, h3] at other

end Refusals

section Serving

variable (adopted : s.adopted = true)
include adopted

theorem serveTransfer_plain {st : Status} (no : s.transferRefusal n e = some (st, none)) :
    serveTransfer (secCode n) (entryCode e) s = refuse st s := by
  unfold serveTransfer afterStart
  rw [withArg_of (secOf_secCode n), withArg_of (entryOfCode_entryCode e), if_pos (show s.started = true from adopted), no]

theorem serveTransfer_claim {st : Status} {r : ClaimReason} (no : s.transferRefusal n e = some (st, some r)) :
    serveTransfer (secCode n) (entryCode e) s = .done s ⟨st, .claimTest r⟩ := by
  unfold serveTransfer afterStart
  rw [withArg_of (secOf_secCode n), withArg_of (entryOfCode_entryCode e), if_pos (show s.started = true from adopted), no]

theorem serveTransfer_accepted (ok : s.transferRefusal n e = none) :
    serveTransfer (secCode n) (entryCode e) s = answerOk (startRequested n e s) := by
  unfold serveTransfer afterStart
  rw [withArg_of (secOf_secCode n), withArg_of (entryOfCode_entryCode e), if_pos (show s.started = true from adopted), ok]

end Serving

section Starts

variable (a : s.Alone n) (calm : s.agenda = []) (st : (s.ctx n).state.settled = true)
include a calm st

theorem directTransfer_syncs (cause : StartCause) (g : SecEntry) : ∃ m t, settle (directTransfer n cause true g s) = t ∧
    Acted n s (((s.ctx n).chosen n g cause true s.now).synced (s.now + s.plan.sec n .tSyncWait * 1000))
      (some ⟨targetPair g, .closedItems, n⟩) s.bcu s.owner m [] t := by
  have made := ((Acted.refl n s).beginTransfer cause true g).enterSync (by
    rw [SecCtx.chosen_state]
    rintro e
    rw [e] at st
    cases st)
  rw [SecCtx.chosen_target] at made
  exact ⟨_, _, made.ends_state a calm, made.cleared calm⟩

theorem directTransfer_opens (cause : StartCause) (g : SecEntry) {f : Entry} (feed : (s.ctx n).feed = some f)
    (lost : (s.ctx n).lost = none) (free : s.blocked = false)
    (rest : (s.bcu.get (entryChan ⟨n, f⟩)).position = .isClosed) (shut : s.closed (entryChan ⟨n, f⟩) = true) :
    ∃ m t, settle (directTransfer n cause false g s) = t ∧
      Acted n s (((s.ctx n).chosen n g cause false s.now).into .opening) none
        (s.bcu.set (entryChan ⟨n, f⟩) (s.tripBegun (entryChan ⟨n, f⟩) (.seq n) s.now)) s.owner m [] t := by
  have begun := (Acted.refl n s).beginTransfer cause false g
  have old : (beginTransfer n cause false g s).oldChan n = some (entryChan ⟨n, f⟩) :=
    oldChan_of (by rw [begun.ctx, SecCtx.chosen_lost, lost]) (by rw [begun.ctx, SecCtx.chosen_feed, feed])
  have made := begun.openTransition_trip old shut rest free (by
    rw [SecCtx.chosen_state]
    rintro e
    rw [e] at st
    cases st)
  rw [tripBegun_eq (s := s) (.seq n) s.now (.inl rest)]
  exact ⟨_, _, made.ends_state a calm, made.cleared calm⟩

end Starts

theorem SecCtx.chosen_origin (c : SecCtx) (n : Sec) (g : SecEntry) (closed : Bool) (now : Nat) (lost : c.lost = none) :
    (c.chosen n g .request closed now).origin = c.feed.map (⟨n, ·⟩) := by
  show SecCtx.start? { c with target := some g } n = _
  unfold SecCtx.start?
  rw [show ({ c with target := some g } : SecCtx).lost = none from lost]

/-- Settles O43. -/
theorem transferRequested : Obligations.TransferRequested := by
  intro s tag n e ready adopted c cmd answers busy
  have req : cmd.request = some (tag, .transferRequest (secCode n) (entryCode e)) := rfl
  have plain {st : Status} (no : s.transferRefusal n e = some (st, none)) : answers st .empty :=
    exec_refused (r := .transferRequest (secCode n) (entryCode e)) req ready
      (serveTransfer_plain (s := s.awaiting 0x33 tag) adopted no)
  refine ⟨fun manual => plain (transferRefusal_manual manual), fun auto block => plain (transferRefusal_blocked auto block),
    fun auto free h => plain (transferRefusal_busy auto free h), fun auto free idle => ?away, fun alone free idle feed listed ok lost => ?begins⟩
  case away =>
    have rest := transferRefusal_rest auto free idle
    refine ⟨fun no => plain ?_, fun feed listed ineligible => ?_⟩
    · rw [rest, if_pos (no.imp id fun h => by simpa using h)]
    · rw [if_neg (by simp [show (s.ctx n).feed ≠ some e from feed, listed]), if_neg (by simp [ineligible])] at rest
      refine ⟨fun tie r claim => ?_, fun other => plain ?_⟩
      · rw [if_pos tie, claim] at rest
        exact exec_done (r := .transferRequest (secCode n) (entryCode e)) req ready
          (serveTransfer_claim (s := s.awaiting 0x33 tag) adopted rest) (replied_twice ..)
      · rw [rest]
        split
        · rename_i tie
          rw [other.resolve_left (fun h => h tie)]
        · rfl
  case begins =>
    have a := alone.alone
    have calm := ready.1.2
    obtain ⟨v, hv⟩ : ∃ v, v = s.awaiting 0x33 tag := ⟨_, rfl⟩
    have av : v.Alone n := by subst hv; exact ⟨a.auto, a.other, a.gen, a.pending⟩
    have calmv : v.agenda = [] := by subst hv; exact calm
    have rest := transferRefusal_rest a.auto free idle
    rw [if_neg (by simp [show (s.ctx n).feed ≠ some e from feed, listed]), if_pos ok] at rest
    have row : exec cmd s = .next (setService 0x33 tag (.formed ⟨.ok, .empty⟩) (settle (startRequested n e v))) := by
      subst hv
      exact exec_after (r := .transferRequest (secCode n) (entryCode e)) req ready
        (serveTransfer_accepted (s := s.awaiting 0x33 tag) adopted rest)
    have settled : (v.ctx n).state.settled = true := by
      subst hv
      have own := (Bool.or_eq_false_iff.mp idle).1
      exact (by simpa using (Bool.or_eq_false_iff.mp own).2 : c.state.settled = true)
    intro closed Begun
    have begun {c' : SecCtx} {w b m t} (h : Acted n v c' w b v.owner m [] t) (target : c'.target = some ⟨n, e⟩)
        (origin : c'.origin = c.feed.map (⟨n, ·⟩)) (start : c'.startMs = s.now) (same : c'.feed = c.feed) :
        Begun (setService 0x33 tag (.formed ⟨.ok, .empty⟩) t) := by
      have ctx : (setService 0x33 tag (.formed ⟨.ok, .empty⟩) t).ctx n = c' := h.ctx
      refine ⟨?_, ?_, ?_, ?_, ?_⟩
      · rw [ctx, target]
      · rw [ctx, origin]
      · rw [ctx, start]
      · rw [ctx, same]
      · subst hv
        exact ⟨h.other, h.hlc, h.modes, rfl⟩
    have origin (closed : Bool) := (v.ctx n).chosen_origin n ⟨n, e⟩ closed v.now (by subst hv; exact lost)
    refine ⟨fun yes => ?syncs, fun f no fed rest shut => ?opens⟩
    case syncs =>
      obtain ⟨m, t, ends, h⟩ := directTransfer_syncs av calmv settled .request ⟨n, e⟩
      have starts : startRequested n e v = directTransfer n .request true ⟨n, e⟩ v := by
        subst hv
        exact congrArg (directTransfer n .request · ⟨n, e⟩ (s.awaiting 0x33 tag)) yes
      refine ⟨_, by rw [row, starts, ends], ?_, ?_⟩
      · refine begun h (SecCtx.chosen_target ..) ?_ ?_ ?_
        · exact (origin true).trans (by subst hv; rfl)
        · subst hv; rfl
        · subst hv; exact SecCtx.chosen_feed ..
      · have ctx : (setService 0x33 tag (.formed ⟨.ok, .empty⟩) t).ctx n = _ := h.ctx
        rw [ctx]
        subst hv
        exact ⟨rfl, rfl, rfl, h.watch, h.bcu⟩
    case opens =>
      obtain ⟨m, t, ends, h⟩ := directTransfer_opens av calmv settled .request ⟨n, e⟩ (f := f) (by subst hv; exact fed)
        (by subst hv; exact lost) (by subst hv; exact free) (by subst hv; exact rest) (by subst hv; exact shut)
      have starts : startRequested n e v = directTransfer n .request false ⟨n, e⟩ v := by
        subst hv
        exact congrArg (directTransfer n .request · ⟨n, e⟩ (s.awaiting 0x33 tag)) no
      refine ⟨_, by rw [row, starts, ends], ?_, ?_⟩
      · refine begun h (SecCtx.chosen_target ..) ?_ ?_ ?_
        · exact (origin false).trans (by subst hv; rfl)
        · subst hv; rfl
        · subst hv; exact SecCtx.chosen_feed ..
      · have ctx : (setService 0x33 tag (.formed ⟨.ok, .empty⟩) t).ctx n = _ := h.ctx
        rw [ctx]
        subst hv
        exact ⟨rfl, rfl, h.bcu⟩

end Sys2Proof.Machine
end

section
/-! What an announcement makes of the load manager (R150, R152). -/

namespace Sys2Proof.Machine

variable {s t u : State} {n : Sec} {f : Feeder} {secs : List Sec} {i : IslandId}

/-- t is s after shedding alone: feeders become SHED, and only the load manager's records and the notices move. -/
structure OnlyShed (s t : State) : Prop where
  load   : LoadOnly s t
  feeder : ∀ f, t.feeder f = s.feeder f ∨ t.feeder f = { s.feeder f with shed := true }
  anns   : t.lmg.anns = s.lmg.anns

namespace OnlyShed

theorem refl (s : State) : OnlyShed s s := ⟨.refl s, fun _ => .inl rfl, rfl⟩

theorem trans (h : OnlyShed s t) (k : OnlyShed t u) : OnlyShed s u := by
  refine ⟨h.load.trans k.load, fun f => ?_, k.anns.trans h.anns⟩
  rcases h.feeder f with e | e <;> rcases k.feeder f with e' | e'
  · exact .inl (e'.trans e)
  · exact .inr (by rw [e', e])
  · exact .inr (e'.trans e)
  · exact .inr (by rw [e', e])

theorem of_feeders (load : LoadOnly s t) (feeders : t.lmg.feeders = s.lmg.feeders) (anns : t.lmg.anns = s.lmg.anns) :
    OnlyShed s t := ⟨load, fun f => .inl (by unfold State.feeder; rw [feeders]), anns⟩

theorem modIsland (i : IslandId) (g : IslandRec → IslandRec) (s : State) : OnlyShed s (modIsland i g s) :=
  .of_feeders (LoadOnly.refl s |>.modIsland i g) rfl rfl

theorem post (m : Note) (s : State) : OnlyShed s (post m s) :=
  .of_feeders (LoadOnly.refl s |>.post m) (by rw [post_lmg]) (by rw [post_lmg])

theorem classOne (h : OnlyShed s t) : t.classOne = s.classOne :=
  classOne_congr h.load.plan_eq fun f => by rcases h.feeder f with e | e <;> rw [e]

theorem carried (h : OnlyShed s t) (c : t.carried f = true) : s.carried f = true := by
  unfold State.carried at *
  rw [h.load.plan_eq] at c
  rcases h.feeder f with e | e
  · rwa [e] at c
  · rw [e] at c
    simp at c

theorem sheddable (h : OnlyShed s t) (no : s.sheddable f = false) : t.sheddable f = false := by
  refine Bool.eq_false_iff.mpr fun yes => Bool.eq_false_iff.mp no ?_
  unfold State.sheddable at *
  have demand : (t.feeder f).demand = (s.feeder f).demand := by rcases h.feeder f with e | e <;> rw [e]
  rw [h.load.cls_eq, demand] at yes
  simp only [Bool.and_eq_true] at *
  exact ⟨⟨⟨h.carried yes.1.1.1, yes.1.1.2⟩, yes.1.2⟩, yes.2⟩

theorem sumOf_le (h : OnlyShed s t) (secs : List Sec) : t.sumOf secs ≤ s.sumOf secs := by
  have demand : (fun f => (t.feeder f).demand) = fun f => (s.feeder f).demand :=
    funext fun f => by rcases h.feeder f with e | e <;> rw [e]
  unfold State.sumOf
  rw [demand]
  refine List.Sublist.sum_le_sum (List.Sublist.map _ (List.monotone_filter_right _ fun f mem => ?_)) fun _ _ => Nat.zero_le _
  simp only [Bool.and_eq_true] at *
  exact ⟨mem.1, h.carried mem.2⟩

/-- A sum within its budget, or with nothing sheddable left, stays so. -/
theorem within (h : OnlyShed s t) {budget : Nat}
    (ends : s.sumOf secs ≤ budget ∨ ∀ f, feederSec f ∈ secs → s.sheddable f = false) :
    t.sumOf secs ≤ budget ∨ ∀ f, feederSec f ∈ secs → t.sheddable f = false :=
  ends.imp (h.sumOf_le secs).trans fun no f mem => h.sheddable (no f mem)

end OnlyShed

theorem shedOne_anns (secs : List Sec) (budget : Nat) (x : Src) (occ : Occasion) (f : Feeder) (s : State) :
    (shedOne secs budget x occ f s).lmg.anns = s.lmg.anns := by
  unfold shedOne driveLine
  dsimp only
  rw [post_lmg]
  split <;> rfl

theorem shedPass_onlyShed (secs : List Sec) (budget : Nat) (x : Src) (occ : Occasion) (s : State) :
    OnlyShed s (shedPass secs budget x occ s) := by
  obtain ⟨-, off, rest, mem, -, -, -, -, feeder, -⟩ := shedPassEnds s secs budget x occ
  refine ⟨shedPass_load .., fun f => ?_, ?_⟩
  · rw [feeder]
    split
    · exact .inr rfl
    · exact .inl rfl
  · refine List.foldlRecOn (motive := fun t : State => t.lmg.anns = s.lmg.anns) _ _ rfl fun t e f _ => ?_
    split
    · exact (shedOne_anns ..).trans e
    · exact e

theorem overloadPass_onlyShed (i : IslandId) (x : Src) (s : State) : OnlyShed s (overloadPass i x s) := by
  have pass := (OnlyShed.modIsland i (fun r => { r with overloadAt := none }) s).trans
    (shedPass_onlyShed (islandSecs i) (s.plan.budget x) x .overload _)
  unfold overloadPass
  dsimp only
  split
  · split
    · split
      · exact pass
      · exact (pass.trans (.modIsland _ _ _)).trans (.post _ _)
    · exact pass
  · exact pass.trans (.modIsland _ _ _)

theorem superviseOne_onlyShed (i : IslandId) (s : State) : OnlyShed s (superviseOne i s) := by
  unfold superviseOne
  split
  · exact .refl s
  · split
    · exact .modIsland _ _ _
    · split
      · split
        · split
          · exact overloadPass_onlyShed _ _ _
          · exact .modIsland _ _ _
        · exact .refl s
      · exact .modIsland _ _ _

theorem superviseAll_onlyShed (s : State) : OnlyShed s (superviseAll s) :=
  List.foldlRecOn (motive := OnlyShed s) _ _ (.refl s) fun t h i _ => h.trans (superviseOne_onlyShed i t)

/-- The announcement that a section makes of a target (R150). -/
def State.announcement (s : State) (n : Sec) (e : SecEntry) : Announcement :=
  ⟨e, s.entrySource e, e.entry == .tie || (s.closed .bkt && (s.ctx n).role != .dependent)⟩

/-- The announcement stands, and the load is within the target's budget as far as shedding takes it (R150, R152). -/
structure Announced (n : Sec) (a : Announcement) (s t : State) : Prop where
  shed  : ∃ v, LoadOnly s v ∧ v.lmg.feeders = s.lmg.feeders ∧ OnlyShed v t
  ann   : t.lmg.anns.get n = some a
  sums  : ∀ y, a.source = some y → t.sumOf (annSecs n a) ≤ t.plan.budget y ∨
    ∀ f, feederSec f ∈ annSecs n a → t.sheddable f = false

theorem announce_announced (n : Sec) (e : SecEntry) (s : State) : Announced n (s.announcement n e) s (announce n e s) := by
  unfold announce
  extract_lets a secs m v members
  change Announced n a s _
  have load : LoadOnly s v := rfl
  have ann : v.lmg.anns.get n = some a := BySec.get_set_self _ _ _
  cases source : a.source with
  | none =>
    refine ⟨⟨v, load, rfl, .refl v⟩, ann, fun y h => ?_⟩
    rw [source] at h
    cases h
  | some y =>
    dsimp only
    obtain ⟨u, hu⟩ : ∃ u, u = shedPass secs (v.plan.budget y) y .target v := ⟨_, rfl⟩
    have shed : OnlyShed v u := hu ▸ shedPass_onlyShed ..
    rw [← hu]
    generalize hw : (if decide (u.plan.budget y < u.sumOf secs) then
      post (.overload n .target members y (u.sumOf secs) (u.plan.budget y)) u else u) = w
    have warned : OnlyShed u w := by
      rw [← hw]
      split
      · exact .post _ _
      · exact .refl _
    have all := (shed.trans warned).trans (superviseAll_onlyShed w)
    refine ⟨⟨v, load, rfl, all⟩, by rw [all.anns, ann], fun z h => ?_⟩
    obtain rfl : y = z := by simpa [source] using h
    rw [all.load.plan_eq]
    exact (warned.trans (superviseAll_onlyShed w)).within (hu ▸ shedPass_ends ..)

theorem Announced.classOne {a : Announcement} (h : Announced n a s t) : t.classOne = s.classOne := by
  obtain ⟨v, load, feeders, shed⟩ := h.shed
  exact shed.classOne.trans (classOne_of_feeders load.plan_eq feeders)

end Sys2Proof.Machine
end

section
/-! Reports taken one after another by a section in AUTO, a contact that moves with BKT open, and selection (R105, R107). -/

namespace Sys2Proof.Machine

variable {s t u v : State} {n : Sec} {x : Src} {c c' : SecCtx} {w w' : Option Watch} {b b' : ByChan ChanRec} {o o' : Option Sec}
  {m m' : LmgState} {l l' : List Report} {r : Report} {k k' : Nat}

/-! ### Taking reports -/

namespace Acted

/-- The waiting reports replaced. -/
theorem waiting (h : Acted n s c w b o m l t) (calm : s.agenda = []) (q : List Report) :
    Acted n s c w b o m q { t with agenda := q } := by
  obtain ⟨port, alarm, free, e⟩ := h.frame
  refine ⟨⟨port, alarm, free, ?_⟩, h.service, h.notes⟩
  rw [calm, e]
  rfl

section Taking

variable (h : Acted n s c w b o m (r :: l) t) (a : s.Alone n) (calm : s.agenda = [])
include h calm

theorem front : t.agenda = r :: l := by rw [h.agenda, calm, List.nil_append]

include a

/-- The front report is acted on. -/
theorem takes (k' : Acted n s c' w' b' o' m' l' (handle r { t with agenda := l })) (next : Takes k (handle r { t with agenda := l }) v) :
    Takes (k + 1) t v := .acts (h.front calm) rfl (k'.alone a).gen next

/-- The front report passes. -/
theorem skips (pass : t.passes r) (next : Takes k { t with agenda := l } v) : Takes (k + 1) t v :=
  .acts (h.front calm) (pass l) (h.alone a).gen next

end Taking

/-- Every waiting report passes. -/
theorem takes_all (h : Acted n s c w b o m l t) (a : s.Alone n) (calm : s.agenda = []) (pass : ∀ r ∈ l, t.passes r) :
    Takes l.length t { t with agenda := [] } := by
  have front : t.agenda = l ++ [] := by rw [h.agenda, calm, List.nil_append, List.append_nil]
  exact .passing l front (h.alone a).gen pass (.done rfl)

end Acted

/-! ### The tie that is open and free -/

theorem modSeq_same {f : SecCtx → SecCtx} (same : f (s.ctx n) = s.ctx n) : modSeq n f s = s := by
  unfold modSeq
  rw [show f (s.seqs.get n) = s.seqs.get n from same, BySec.set_get]

theorem setRoles_still (roles : ∀ q, (s.ctx q).role = .sole) : setRoles .sole .sole s = s := by
  have own (q : Sec) : modSeq q (fun c => { c with role := .sole }) s = s := modSeq_same (by rw [← roles q])
  unfold setRoles
  rw [own, own]

theorem tieFromBoard_still (opened : s.closed .bkt = false) (owner : s.owner = none) (roles : ∀ q, (s.ctx q).role = .sole) :
    tieFromBoard s = s := by
  rw [tieFromBoard_open opened, setRoles_still roles]
  unfold setOwner
  rw [if_pos owner]

/-! ### A contact that moves with BKT open -/

theorem formIslands_load (s : State) : LoadOnly s (formIslands s) := rfl

/-- The demands of the feeders, and so their sums, are as they were but for feeders shed. -/
structure LoadKept (s : State) (m : LmgState) : Prop where
  anns    : m.anns = s.lmg.anns
  demands : ∀ f, (m.feeders.get f).demand = (s.feeder f).demand

section Contact

variable {ch : Chan} {level : Bool}

/-- What a new AUX level of an incomer's channel makes of the board, with BKT open and free (R84 to R89). -/
theorem auxFollowed_acted (tie : s.TieOpen) (ne : ch ≠ .bkt) (n : Sec) : ∃ m, LoadKept s m ∧
    Acted n s (s.ctx n) (s.ccu.watches.get n) (s.bcu.set ch ((s.bcu.get ch).auxChanged level s.now)) s.owner m
      (availReports s ch ((s.bcu.get ch).auxChanged level s.now)) (auxFollowed ch level s) := by
  obtain ⟨opened, free, roles⟩ := tie
  obtain ⟨v, hv⟩ : ∃ v, v = modChan ch (fun r => r.auxChanged level s.now) s := ⟨_, rfl⟩
  have moved : Acted n s (s.ctx n) (s.ccu.watches.get n) (s.bcu.set ch ((s.bcu.get ch).auxChanged level s.now)) s.owner s.lmg
      (availReports s ch ((s.bcu.get ch).auxChanged level s.now)) v := by
    subst hv
    exact (Acted.refl n s).modChan ch fun r => r.auxChanged level s.now
  have openV : v.closed .bkt = false := by
    rw [moved.closed, ByChan.get_set_other _ _ ne]
    exact opened
  have still : tieFromBoard v = v := by
    refine tieFromBoard_still openV (moved.owner.trans free) fun q => ?_
    subst hv
    have same : (modChan ch (fun r => r.auxChanged level s.now) s).seqs = s.seqs := by simp
    unfold State.ctx
    rw [same]
    exact roles q
  obtain ⟨u, hu⟩ : ∃ u, u = if ((s.bcu.get ch).contactKind level).external then
      post (.breakerExternal ch ((s.bcu.get ch).contactKind level) (s.bcu.get ch).position.held?) v else v := ⟨_, rfl⟩
  have posted : Acted n s (s.ctx n) (s.ccu.watches.get n) (s.bcu.set ch ((s.bcu.get ch).auxChanged level s.now)) s.owner s.lmg
      (availReports s ch ((s.bcu.get ch).auxChanged level s.now)) u := by
    rw [hu]
    split
    · exact moved.post _
    · exact moved
  have whole : auxFollowed ch level s = superviseAll (formIslands u) := by
    unfold auxFollowed reformIslands
    rw [← hv, still, hu]
  have formed := posted.load (formIslands_load u) (.of_spt rfl rfl)
  have shed := superviseAll_onlyShed (formIslands u)
  rw [whole]
  refine ⟨_, ⟨?_, fun f => ?_⟩, formed.superviseAll⟩
  · rw [shed.anns]
    exact (congrArg LmgState.anns posted.lmg :)
  · have same : (formIslands u).feeder f = s.feeder f := (congrArg (fun q : LmgState => q.feeders.get f) posted.lmg :)
    show ((superviseAll (formIslands u)).feeder f).demand = _
    rcases shed.feeder f with e | e <;> rw [e, same]

theorem chanOf_other {n : Sec} (own : chanOf ch n = true) (ne : ch ≠ .bkt) : chanOf ch n.other = false := by
  cases n <;> cases ch <;> simp_all [chanOf, chanSrc, srcSec, Sec.other]

/-- The reports of such a contact: the section it belongs to is told, and then the operation it confirms. -/
theorem auxAccept_acted (tie : s.TieOpen) (ne : ch ≠ .bkt) (mine : chanOf ch n = true) (adopted : s.adopted = true)
    (new : (s.bcu.get ch).aux.accepted = !level) : ∃ m, LoadKept s m ∧
    Acted n s (s.ctx n) (s.ccu.watches.get n) (s.bcu.set ch ((s.bcu.get ch).auxChanged level s.now)) s.owner m
      (availReports s ch ((s.bcu.get ch).auxChanged level s.now) ++
        (.contact n ch ((s.bcu.get ch).contactKind level) (s.bcu.get ch).op ::
          operationReports ch ((s.bcu.get ch).contactKind level) (s.bcu.get ch).op ((s.bcu.get ch).measured s.now)))
      (auxAccept ch level s) := by
  obtain ⟨m, load, followed⟩ := auxFollowed_acted (level := level) tie ne n
  have openF : (auxFollowed ch level s).closed .bkt = false := by
    rw [followed.closed, ByChan.get_set_other _ _ ne]
    exact tie.1
  have told : (auxFollowed ch level s).told ch n = true := by unfold State.told; rw [mine]; rfl
  have untold : (auxFollowed ch level s).told ch n.other = false := by
    unfold State.told
    rw [chanOf_other mine ne, openF]
    rfl
  have reports (kind : ContactKind) (op : Option Operation) (k : Nat) : contactReports (auxFollowed ch level s) ch kind op k =
      .contact n ch kind op :: operationReports ch kind op k := by
    unfold contactReports
    cases n with
    | sec1 =>
      have untold : (auxFollowed ch level s).told ch .sec2 = false := untold
      rw [told, untold]
      rfl
    | sec2 =>
      have untold : (auxFollowed ch level s).told ch .sec1 = false := untold
      rw [told, untold]
      rfl
  refine ⟨m, load, ?_⟩
  rw [auxAccept_eq new adopted, reports]
  obtain ⟨port, alarm, free, e⟩ := followed.frame
  refine ⟨⟨port, alarm, free, ?_⟩, followed.service, followed.notes⟩
  rw [e]
  simp only [List.append_assoc]

end Contact

end Sys2Proof.Machine
end

section
/-! Selection over a section's own list with BKT open (R105), and a section at rest that reconsiders (R108, R110, R134). -/

namespace Sys2Proof.Machine

variable {s t u v : State} {n : Sec} {x y : Src} {e g : Entry} {c c' : SecCtx} {w w' : Option Watch} {b b' : ByChan ChanRec}
  {o o' : Option Sec} {m m' : LmgState} {l l' : List Report} {r : Report} {k k' : Nat}

/-! ### Sources, entries and paths -/

theorem srcSec_of_own (own : ownSource n e = some x) : srcSec x = n := by
  cases n <;> cases e <;> simp [ownSource] at own <;> subst own <;> rfl

theorem own_ne_tie (own : ownSource n e = some x) : e ≠ .tie := by
  rintro rfl
  cases own

theorem own_inj (own : ownSource n e = some x) (own' : ownSource n g = some x) : g = e := by
  cases n <;> cases e <;> cases g <;> cases x <;> simp_all [ownSource]

theorem own_srcEntry (mine : srcSec x = n) : ownSource n (srcEntry x) = some x := by
  subst mine
  cases x <;> rfl

theorem srcEntry_of_own (own : ownSource n e = some x) : srcEntry x = e := by
  cases n <;> cases e <;> simp [ownSource] at own <;> subst own <;> rfl

theorem entryChan_of_own (own : ownSource n e = some x) : entryChan ⟨n, e⟩ = srcChan x := by
  unfold entryChan
  rw [own]

theorem entrySource_of_own (own : ownSource n e = some x) : s.entrySource ⟨n, e⟩ = some x := by
  unfold State.entrySource
  cases e
  case tie => cases own
  all_goals exact own

theorem srcChan_inj (same : srcChan x = srcChan y) : x = y := by
  cases x <;> cases y <;> simp_all [srcChan]

theorem srcChan_ne_bkt (x : Src) : srcChan x ≠ .bkt := by cases x <;> decide

theorem chanOf_srcChan (mine : srcSec x = n) : chanOf (srcChan x) n = true := by
  subst mine
  cases x <;> rfl

theorem srcSec_ne (mine : srcSec x = n) (theirs : srcSec y = n.other) : y ≠ x := by
  rintro rfl
  rw [mine] at theirs
  cases n <;> simp [Sec.other] at theirs

theorem mem_paths (shut : s.closed .bkt = false) : x ∈ s.paths n ↔ srcSec x = n ∧ s.closed (srcChan x) = true := by
  unfold State.paths State.islandOf State.closedPaths
  rw [shut]
  simp only [Bool.false_eq_true, if_false, List.mem_filter, Bool.and_eq_true, List.contains_eq_mem, List.mem_singleton,
    decide_eq_true_eq]
  exact ⟨fun h => h.2, fun h => ⟨by cases x <;> decide, h⟩⟩

theorem paths_none (shut : s.closed .bkt = false) (none : ∀ x, srcSec x = n → s.closed (srcChan x) = false) : s.paths n = [] :=
  List.eq_nil_iff_forall_not_mem.mpr fun x mem => by
    obtain ⟨mine, closed⟩ := (mem_paths shut).mp mem
    rw [none x mine] at closed
    cases closed

theorem paths_nodup (s : State) (n : Sec) : (s.paths n).Nodup := by
  unfold State.paths State.closedPaths
  exact List.Nodup.filter _ (by decide)

theorem paths_single (shut : s.closed .bkt = false) (mine : srcSec y = n) (closed : s.closed (srcChan y) = true)
    (only : ∀ x, srcSec x = n → x ≠ y → s.closed (srcChan x) = false) : s.paths n = [y] := by
  have mem : ∀ x, x ∈ s.paths n ↔ x = y := fun x => by
    rw [mem_paths shut]
    refine ⟨fun ⟨m, c⟩ => ?_, fun e => e ▸ ⟨mine, closed⟩⟩
    by_contra ne
    rw [only x m ne] at c
    cases c
  have perm : (s.paths n).Perm [y] := (List.perm_ext_iff_of_nodup (paths_nodup s n) (by simp)).mpr (by simpa using mem)
  exact List.perm_singleton.mp perm

/-! ### States that differ in one source of a section -/

/-- t is s but for the section's own context, one of its sources and that source's channel. -/
structure SameBut (n : Sec) (x : Src) (s t : State) : Prop where
  plan    : t.plan = s.plan
  owner   : t.owner = s.owner
  other   : t.ctx n.other = s.ctx n.other
  one     : t.classOne = s.classOne
  blocked : t.blocked = s.blocked
  settle  : t.mdc.settle = s.mdc.settle
  chan    : ∀ ch, ch ≠ srcChan x → t.bcu.get ch = s.bcu.get ch
  src     : ∀ y, y ≠ x → t.srcState y = s.srcState y

namespace SameBut

theorem trans (h : SameBut n x s t) (k : SameBut n x t u) : SameBut n x s u where
  plan := k.plan.trans h.plan
  owner := k.owner.trans h.owner
  other := k.other.trans h.other
  one := k.one.trans h.one
  blocked := k.blocked.trans h.blocked
  settle := k.settle.trans h.settle
  chan ch ne := (k.chan ch ne).trans (h.chan ch ne)
  src y ne := (k.src y ne).trans (h.src y ne)

section Tests

variable (h : SameBut n x s t) (mine : srcSec x = n) (shut : s.closed .bkt = false)
include h

theorem closed (ch : Chan) (ne : ch ≠ srcChan x) : t.closed ch = s.closed ch := by
  unfold State.closed
  rw [h.chan ch ne]

theorem bkt : t.closed .bkt = s.closed .bkt := h.closed .bkt (Ne.symm (srcChan_ne_bkt x))

theorem held (shut : s.closed .bkt = false) : t.held n = s.held n := by
  have none {q : State} (shut : q.closed .bkt = false) : q.serving = none := by
    unfold State.serving
    rw [shut]
    rfl
  unfold State.held State.heldBy
  rw [h.blocked, h.settle, h.other, none shut, none (h.bkt.trans shut)]

include mine

theorem healthy_other {z : Src} (theirs : srcSec z = n.other) : t.healthy z = s.healthy z := by
  unfold State.healthy
  rw [h.src z (srcSec_ne mine theirs)]

theorem claimTest : t.claimTest n = s.claimTest n := by
  unfold State.claimTest State.avail
  rw [h.owner, h.other, h.chan .bkt (Ne.symm (srcChan_ne_bkt x)), h.plan, h.one]
  dsimp only
  cases feed : (s.ctx n.other).feed.bind (ownSource n.other) with
  | none => rfl
  | some z =>
    obtain ⟨f, -, own⟩ := Option.bind_eq_some_iff.mp feed
    dsimp only
    rw [h.healthy_other mine (srcSec_of_own own)]

include shut

theorem islandSource_other : t.islandSource n.other = s.islandSource n.other := by
  have paths : t.paths n.other = s.paths n.other := by
    unfold State.paths State.islandOf State.closedPaths
    rw [h.bkt, shut]
    refine List.filter_congr fun z _ => ?_
    simp only [Bool.false_eq_true, if_false, List.contains_eq_mem, List.mem_singleton]
    by_cases theirs : srcSec z = n.other
    · rw [h.closed _ fun same => srcSec_ne mine theirs (srcChan_inj same)]
    · simp [theirs]
  unfold State.islandSource
  rw [paths]

theorem entrySource (g : Entry) : t.entrySource ⟨n, g⟩ = s.entrySource ⟨n, g⟩ := by
  unfold State.entrySource
  cases g
  case tie => exact h.islandSource_other mine shut
  all_goals rfl

theorem targetFits (ne : ownSource n g ≠ some x) : t.targetFits n ⟨n, g⟩ = s.targetFits n ⟨n, g⟩ := by
  have source := h.entrySource mine shut g
  have sick : t.healthy? (t.entrySource ⟨n, g⟩) = s.healthy? (s.entrySource ⟨n, g⟩) := by
    rw [source]
    cases hz : s.entrySource ⟨n, g⟩ with
    | none => rfl
    | some z =>
      refine congrArg (· == SrcState.healthy) (h.src z ?_)
      rintro rfl
      cases g
      case tie =>
        have mem : z ∈ s.paths n.other := by
          have hz : s.islandSource n.other = some z := hz
          unfold State.islandSource feedOfPaths at hz
          split at hz
          · rename_i e
            cases hz
            rw [e]
            exact List.mem_singleton.mpr rfl
          · cases hz
        exact srcSec_ne mine ((mem_paths shut).mp mem).1 rfl
      all_goals exact ne hz
  have chan : t.avail (entryChan ⟨n, g⟩) = s.avail (entryChan ⟨n, g⟩) := by
    unfold State.avail
    rw [h.chan]
    intro same
    unfold entryChan at same
    dsimp only at same
    split at same
    · rename_i z own
      exact ne (own.trans (congrArg some (srcChan_inj same)))
    · exact srcChan_ne_bkt x same.symm
  unfold State.targetFits
  rw [sick, chan, h.bkt, h.claimTest mine]

end Tests

end SameBut

theorem Acted.sameBut (h : Acted n s c w b s.owner m l t) (one : t.classOne = s.classOne)
    (chan : ∀ ch, ch ≠ srcChan x → b.get ch = s.bcu.get ch) : SameBut n x s t where
  plan := h.plan
  owner := h.owner
  other := h.other
  one := one
  blocked := h.blocked
  settle := h.settles
  chan ch ne := by rw [h.bcu]; exact chan ch ne
  src y _ := h.srcState y

/-! ### The choice -/

theorem serving_none (shut : s.closed .bkt = false) : s.serving = none := by
  unfold State.serving
  rw [shut]
  rfl

theorem choose_own (role : (s.ctx n).role = .sole) (shut : s.closed .bkt = false) :
    s.choose n = ((s.plan.prefs n).find? fun g => s.eligible n ⟨n, g⟩).map (⟨n, ·⟩) := by
  unfold State.choose State.selEntries
  rw [role, serving_none shut]
  show List.find? (s.eligible n) ((s.plan.prefs n).map fun e => ⟨n, e⟩) = _
  rw [List.find?_map]
  rfl

/-- The choice after the loss of an own entry: the first entry of the list, the lost one aside, that fits (R104, R105). -/
theorem SameBut.choose_lost (h : SameBut n x s t) (own : ownSource n e = some x) (shut : s.closed .bkt = false)
    (role : (t.ctx n).role = .sole) (lost : (t.ctx n).lost = some ⟨e, true⟩) :
    t.choose n = ((s.plan.prefs n).find? fun g => g != e && s.targetFits n ⟨n, g⟩).map (⟨n, ·⟩) := by
  rw [choose_own role (h.bkt.trans shut), h.plan]
  congr 2
  funext g
  unfold State.eligible State.excluded
  rw [lost]
  by_cases same : g = e
  · subst same
    simp
  · rw [h.targetFits (srcSec_of_own own) shut fun o => same (own_inj own o)]
    have ne : ((⟨n, g⟩ : SecEntry) == ⟨n, e⟩) = false := beq_eq_false_iff_ne.mpr fun eq => same (congrArg SecEntry.entry eq)
    simp [ne, same]

theorem select_waits {cause : StartCause} (no : s.held n = true ∨ s.choose n = none) :
    select n cause s = enter n .waitSource s := by
  unfold select
  split
  · rfl
  · rename_i held
    rw [no.resolve_left held]
    rfl

theorem select_takes {cause : StartCause} {g : SecEntry} (held : s.held n = false) (first : s.choose n = some g)
    (st : (s.ctx n).state ≠ .decay) : select n cause s = openTransition n (beginTransfer n cause false g s) := by
  unfold select
  rw [if_neg (by simp [held]), first]
  unfold takeChoice
  dsimp only
  rw [if_neg st]

/-- A section's context as the loss of its feed leaves it (R107). -/
def SecCtx.losing (c : SecCtx) (e : Entry) (openMs : Nat) : SecCtx :=
  { c with lost := some ⟨e, true⟩, openMs := openMs, feed := none }

theorem Acted.loses (h : Acted n s c w b o m l t) (feed : c.feed = some e) (cause : StartCause) (opened : Bool) :
    ∃ u, loseFeed n cause opened t = select n cause u ∧
      Acted n s (c.losing e (if opened then s.now else c.openMs)) w b o m (l ++ [.seqFeed n]) u := by
  have made := (h.modSeq fun c => { c with
    lost := c.feed.map fun e => ⟨e, true⟩, openMs := if opened then t.now else c.openMs }).setFeed none
  rw [if_neg (show ¬(c.feed = none) by simp [feed])] at made
  simp only [feed, Option.map_some] at made
  rw [← h.now]
  exact ⟨_, rfl, made⟩

theorem Acted.waits (h : Acted n s (c.into .waitSource) none b o { m with anns := m.anns.set n none } l t)
    (feed : c.feed = none) : t.Waits n := by
  unfold State.Waits
  dsimp only
  rw [h.ctx, h.watch, h.lmg]
  exact ⟨rfl, feed, rfl, rfl, rfl, rfl, BySec.get_set_self _ _ _⟩

theorem Acted.decayBegun (h : Acted n s (c.decayed s.plan n s.now) (decayWatch s.plan n c.target) b o m l t) {g : SecEntry}
    (target : c.target = some g) (feed : c.feed = none) : t.DecayBegun n g := by
  unfold State.DecayBegun
  dsimp only
  rw [h.ctx, h.watch, h.plan, h.now]
  refine ⟨rfl, target, feed, rfl, rfl, rfl, rfl, ?_⟩
  unfold decayWatch
  rw [target]
  rfl

/-! ### Reports that pass -/

theorem passes_decayTest (no : s.closeCondition n false = none) (passed : List SecEntry) : s.passes (.decayTest n passed) := by
  intro q
  show testDecay n false passed ({ s with agenda := q } : State) = _
  have no : ({ s with agenda := q } : State).closeCondition n false = none := no
  unfold testDecay
  rw [no]
  exact ite_self _

/-- A section in DECAY whose timers run, on a bus that is not DEAD or under a method that does not close on it (R116). -/
theorem closeCondition_none (live : ¬s.ResidualNow n) (early : (s.ctx n).deadOver = false) (early' : (s.ctx n).decayOver = false) :
    s.closeCondition n false = none := by
  unfold State.closeCondition
  dsimp only
  rw [if_neg (by simp), if_neg, if_neg (by simp [early]), if_neg (by simp [early'])]
  rintro ⟨dead, method⟩
  exact live ⟨dead, by omega⟩

theorem passes_fedEntry_away (away : (s.ctx n).state ≠ .fed) (cause : StartCause) : s.passes (.fedEntry n cause) := by
  intro q
  show fedTests n cause ({ s with agenda := q } : State) = _
  unfold fedTests
  rw [if_neg]
  intro h
  exact away (eq_of_beq (Bool.and_eq_true_iff.mp h).2)

theorem passes_timerOver {k : SeqTimer} (idle : (s.ctx n).timer k = none) : s.passes (.timerOver n k) := by
  intro q
  show timerOver n k ({ s with agenda := q } : State) = _
  unfold timerOver
  rw [show (({ s with agenda := q } : State).ctx n).timer k = none from idle]

end Sys2Proof.Machine
end

section
/-! A section at rest reconsiders, is told of a contact or of its source's DOWN, and loses its feed (R104 to R111). -/

namespace Sys2Proof.Machine

variable {s t u v : State} {n : Sec} {x y : Src} {e g : Entry} {c c' : SecCtx} {w w' : Option Watch} {b b' : ByChan ChanRec}
  {o o' : Option Sec} {m m' : LmgState} {l l' : List Report} {r : Report} {k k' : Nat}

/-! ### A section in FED, RETURN_WAIT or SYNC that reconsiders -/

/-- FED, RETURN_WAIT and SYNC: the states in which a section is fed and no operation of it is in flight. -/
def SeqState.fedRest (st : SeqState) : Prop := st = .fed ∨ st = .returnWait ∨ st = .sync

/-- A section that is fed stays fed: what reconsidering changes is none of these. -/
structure SecCtx.StaysFed (c c' : SecCtx) : Prop where
  state : c'.state.fedRest
  feed  : c'.feed = c.feed
  role  : c'.role = c.role

/-- The reports that such a section makes of its own change. -/
def Report.ofRest (n : Sec) (r : Report) : Prop := r = .seqState n ∨ r = .fedEntry n .loss ∨ r = .timerOver n .tReturn

/-- What reconsidering leaves of a fed section. -/
structure Reconsidered (n : Sec) (s : State) (c : SecCtx) (b : ByChan ChanRec) (o : Option Sec) (m : LmgState)
    (l : List Report) (t : State) : Prop where
  acted : ∃ c' w' m' l', Acted n s c' w' b o m' (l ++ l') t ∧ c.StaysFed c' ∧
    (m' = m ∨ m' = { m with anns := m.anns.set n none }) ∧ (∀ r ∈ l', r.ofRest n) ∧ l'.length ≤ 3

theorem Acted.stays (h : Acted n s c w b o m l t) (rest : c.state.fedRest) : Reconsidered n s c b o m l t :=
  ⟨c, w, m, [], by rwa [List.append_nil], ⟨rest, rfl, rfl⟩, .inl rfl, nofun, by simp⟩

theorem Acted.entersFed (h : Acted n s c w b o m l t) (away : c.state ≠ .fed) :
    Reconsidered n s c b o m l (Machine.enterFed n .loss t) :=
  ⟨_, _, _, _, h.enterFed .loss away, ⟨.inl rfl, rfl, rfl⟩, .inr rfl, fun r mem => by
    simp only [List.mem_cons, List.not_mem_nil, or_false] at mem
    exact mem.elim .inl fun e => .inr (.inl e), by simp⟩

theorem Acted.evalReturn (h : Acted n s c w b o m l t) (st : c.state = .fed) :
    Reconsidered n s c b o m l (evalReturn n t) := by
  unfold Machine.evalReturn
  split
  · have entered := h.enter_resting (st := .returnWait) rfl (by rw [st]; decide)
    have timed := entered.modSeq fun c => { c with tReturn := some (t.now + t.plan.sec n .tReturn * 1000) }
    dsimp only
    split
    · have reported := timed.report (.timerOver n .tReturn)
      rw [List.append_assoc] at reported
      exact ⟨_, _, _, _, reported, ⟨.inr (.inl rfl), rfl, rfl⟩, .inr rfl, fun r mem => by
        simp only [List.cons_append, List.nil_append, List.mem_cons, List.not_mem_nil, or_false] at mem
        exact mem.elim .inl fun e => .inr (.inr e), by simp⟩
    · exact ⟨_, _, _, _, timed, ⟨.inr (.inl rfl), rfl, rfl⟩, .inr rfl, fun r mem => .inl (List.mem_singleton.mp mem), by simp⟩
  · exact h.stays (.inl st)

/-- A report of an availability reaches a fed section in AUTO. -/
theorem Acted.reconsiders (h : Acted n s c w b o m l t) (auto : s.mode n = .auto) (rest : c.state.fedRest) :
    Reconsidered n s c b o m l (reconsider n true t) := by
  unfold reconsider
  rw [if_pos (show t.auto n = true by unfold State.auto; rw [h.mode, auto]; rfl), h.ctx]
  rcases rest with st | st | st
  · rw [st]
    exact h.evalReturn st
  · rw [st]
    dsimp only
    unfold checkReturn
    split
    · split
      · exact h.stays (.inr (.inl st))
      · exact h.entersFed (by rw [st]; decide)
    · exact h.entersFed (by rw [st]; decide)
  · rw [st]
    dsimp only
    unfold syncClaim
    split
    · split
      · exact h.entersFed (by rw [st]; decide)
      · exact h.stays (.inr (.inr st))
    · exact h.stays (.inr (.inr st))

/-- The report of a channel's availability, where there is one, reaches a fed section first. -/
theorem Acted.takes_avail {ch : Chan} {rec_ : ChanRec} (h : Acted n s c w b o m (availReports s ch rec_ ++ l) t)
    (a : s.Alone n) (calm : s.agenda = []) (rest : c.state.fedRest) :
    ∃ u j, Reconsidered n s c b o m l u ∧ j ≤ 1 ∧ ∀ k v, Takes k u v → Takes (k + j) t v := by
  obtain ⟨only, few⟩ := availReports_few s ch rec_
  cases made : availReports s ch rec_ with
  | nil =>
    rw [made, List.nil_append] at h
    exact ⟨t, 0, h.stays rest, by omega, fun k v taken => taken⟩
  | cons q rest_ =>
    have none : rest_ = [] := by
      rw [made] at few
      exact List.eq_nil_of_length_eq_zero (by simpa using few)
    obtain rfl := only q (by rw [made]; exact List.mem_cons_self)
    rw [made, none] at h
    have alone := h.alone a
    have waiting := h.waiting calm l
    have told := waiting.reconsiders a.auto rest
    have one : handle (.availability ch) { t with agenda := l } = reconsider n true { t with agenda := l } := by
      have still (q : State) (manual : q.mode n.other = .manual) : reconsider n.other true q = q := reconsider_manual manual true
      obtain ⟨_, _, _, _, acted, -⟩ := told.acted
      exact forSecs_one (f := fun q => reconsider q true) n (still _ alone.other) (still _ (acted.alone a).other)
    refine ⟨_, 1, told, by omega, fun k v taken => ?_⟩
    obtain ⟨_, _, _, _, acted, -⟩ := told.acted
    rw [← one] at acted taken
    exact h.takes a calm acted taken

/-! ### A contact is told to a section in AUTO -/

theorem contactSeen_opens {ch : Chan} {kind : ContactKind} {op : Option Operation} (auto : s.mode n = .auto)
    (st : (s.ctx n).state ≠ .halted) (opens : kind = .confirmOpen ∨ kind = .externalOpen ∨ kind = .protectionOpen) :
    contactSeen n ch kind op s = openSeen n ch kind s := by
  unfold contactSeen State.auto
  rw [auto, if_neg (by decide), if_neg st]
  rcases opens with e | e | e <;> rw [e]

theorem contactSeen_closes {ch : Chan} {kind : ContactKind} {op : Option Operation} (auto : s.mode n = .auto)
    (st : (s.ctx n).state ≠ .halted) (closes : kind = .confirmClose ∨ kind = .inOperation ∨ kind = .externalClose) :
    contactSeen n ch kind op s = closeSeen n ch kind op s := by
  unfold contactSeen State.auto
  rw [auto, if_neg (by decide), if_neg st]
  rcases closes with e | e | e <;> rw [e]

theorem openSeen_feed {ch : Chan} {kind : ContactKind} (rest : (s.ctx n).state.fedRest)
    (feed : feedChan n (s.ctx n).feed = some ch) : openSeen n ch kind s = feedOpened n ch kind s := by
  unfold openSeen
  dsimp only
  rcases rest with e | e | e <;> rw [e] <;> exact if_pos feed

/-! ### A source's DOWN is told to a section in AUTO -/

theorem seqSource_manual {new : SrcState} (manual : s.mode n = .manual) : seqSource n x new s = s := by
  unfold seqSource State.auto
  rw [manual]
  rfl

/-- Of a source that is no longer HEALTHY the section in AUTO is told alone. -/
theorem srcReported_one {new : SrcState} (a : s.Alone n) (sick : new ≠ .healthy) : srcReported x new s = seqSource n x new s := by
  unfold srcReported
  rw [if_neg sick]
  have kept : (seqSource n x new s).mode n.other = s.mode n.other :=
    congrArg (·.get n.other) (seqSource_moves n x new (.refl : Moves s _)).modes_eq
  exact forBoth_one (f := fun q => seqSource q x new) n (fun t => seqSource_manual) a.other kept

theorem seqSource_down (auto : s.mode n = .auto) (rest : (s.ctx n).state.fedRest) (feeds : s.feedSource n = some x)
    (own : (s.ctx n).feed ≠ some .tie) : seqSource n x .down s = loseFeed n .loss false s := by
  unfold seqSource State.auto
  rw [auto, if_pos (by decide)]
  dsimp only
  rcases rest with e | e | e <;> rw [e] <;> exact if_pos ⟨⟨rfl, feeds⟩, own⟩

/-- The state after a source has changed, written out. -/
theorem sourceAt_frame (s : State) (x : Src) (d : Nat) (st : SrcState) (cause : Cause) : ∃ port,
    s.sourceAt x d st cause = { s with
      now := max s.now d, squ := { s.squ with srcs := s.squ.srcs.set x ⟨st, cause, none, max s.now d⟩ }, spt := port } :=
  ⟨_, post_eq _ _⟩

theorem sourceAt_notes (s : State) (x : Src) (d : Nat) (st : SrcState) (cause : Cause) :
    NotesGrow s (s.sourceAt x d st cause) := (NotesGrow.of_spt rfl rfl).trans (.post _ _)

/-- What a change of a source at a deadline leaves as it was. -/
structure SourceMoved (s : State) (x : Src) (d : Nat) (v : State) : Prop where
  now     : v.now = max s.now d
  calm    : v.agenda = s.agenda
  seqs    : v.seqs = s.seqs
  ccu     : v.ccu = s.ccu
  bcu     : v.bcu = s.bcu
  owner   : v.owner = s.owner
  lmg     : v.lmg = s.lmg
  mdc     : ∃ runs, v.mdc = { s.mdc with runs := runs }
  hlc     : v.hlc = s.hlc
  pst     : v.pst = s.pst
  buses   : v.squ.buses = s.squ.buses
  adopted : v.adopted = s.adopted
  src     : ∀ y, y ≠ x → v.srcState y = s.srcState y

theorem sourceAt_moved (s : State) (x : Src) (d : Nat) (st : SrcState) (cause : Cause) :
    SourceMoved s x d (s.sourceAt x d st cause) ∧ (s.sourceAt x d st cause).srcState x = st := by
  obtain ⟨port, e⟩ := sourceAt_frame s x d st cause
  rw [e]
  refine ⟨⟨rfl, rfl, rfl, rfl, rfl, rfl, rfl, ⟨_, rfl⟩, rfl, rfl, rfl, rfl, fun y ne => ?_⟩, ?_⟩
  · exact congrArg QualRec.state (BySrc.get_set_other _ _ (Ne.symm ne))
  · exact congrArg QualRec.state (BySrc.get_set_self _ _ _)

namespace SourceMoved

variable {d : Nat} (h : SourceMoved s x d v)
include h

theorem plan : v.plan = s.plan := by unfold State.plan; rw [h.pst]

theorem modes : v.mdc.modes = s.mdc.modes := by
  obtain ⟨_, e⟩ := h.mdc
  rw [e]

theorem settles : v.mdc.settle = s.mdc.settle := by
  obtain ⟨_, e⟩ := h.mdc
  rw [e]

theorem blocked : v.blocked = s.blocked := by
  obtain ⟨_, e⟩ := h.mdc
  unfold State.blocked
  rw [e]

theorem restKept (n : Sec) : s.RestKept n v := ⟨by unfold State.ctx; rw [h.seqs], h.owner, h.hlc, h.pst, h.modes⟩

theorem alone (a : s.Alone n) : v.Alone n where
  auto := by unfold State.mode; rw [h.modes]; exact a.auto
  other := by unfold State.mode; rw [h.modes]; exact a.other
  gen y := by rw [h.plan]; exact a.gen y
  pending := by rw [h.pst]; exact a.pending

theorem ctx (q : Sec) : v.ctx q = s.ctx q := by unfold State.ctx; rw [h.seqs]

theorem sameBut (n : Sec) : SameBut n x s v where
  plan := h.plan
  owner := h.owner
  other := h.ctx _
  one := classOne_of_feeders h.plan (by rw [h.lmg])
  blocked := h.blocked
  settle := h.settles
  chan ch _ := by rw [h.bcu]
  src := h.src

end SourceMoved

/-- An event in which one source changes, as the section in AUTO takes it. -/
theorem settle_sourceAt {st : SrcState} {cause : Cause} {d : Nat} {prev : SrcState} (a : s.Alone n) (calm : s.agenda = [])
    (handled : srcReported x st (s.sourceAt x d st cause) = u) (gen : u.NoGenerator) (taken : Takes k u t) (few : k ≤ 4095) :
    settle (report (.srcChanged x prev st cause) (s.sourceAt x d st cause)) = t := by
  obtain ⟨moved, -⟩ := sourceAt_moved s x d st cause
  have none : (s.sourceAt x d st cause).agenda = [] := moved.calm.trans calm
  have front : (report (.srcChanged x prev st cause) (s.sourceAt x d st cause)).agenda =
      .srcChanged x prev st cause :: [] := by
    rw [report_agenda, none]
    rfl
  have whole : ({ report (.srcChanged x prev st cause) (s.sourceAt x d st cause) with agenda := [] } : State) =
      s.sourceAt x d st cause := by
    rw [← none]
    rfl
  have acts : Takes (k + 1) (report (.srcChanged x prev st cause) (s.sourceAt x d st cause)) t :=
    .acts front (by rw [whole]; exact handled) gen taken
  exact acts.settled (moved.alone a).gen (by omega)

end Sys2Proof.Machine
end

section
/-! A section in AUTO loses its feed (R103 to R107, R110, R111, R150, R152). -/

namespace Sys2Proof.Machine

variable {s t u v : State} {n : Sec} {x y : Src} {e g : Entry} {c c' : SecCtx} {w w' : Option Watch} {b b' : ByChan ChanRec}
  {o o' : Option Sec} {m m' : LmgState} {l l' : List Report} {r : Report} {k k' : Nat} {cause : StartCause}

/-! ### Contexts and reports -/

/-- The context of a transfer that begins anew (R106). -/
theorem SecCtx.chosen_fresh (c : SecCtx) (n : Sec) (g : SecEntry) (fresh : cause ≠ .retarget) (closed : Bool) (now : Nat) :
    c.chosen n g cause closed now = { c with
      target := some g, origin := c.start? n, startMs := now, closedTrans := closed, method := .none, closeRec := ⟨none, 0⟩ } := by
  unfold chosen SecCtx.begin
  rw [if_neg fresh]
  rfl

/-- A report of a fed section's own change passes once it is fed no more. -/
theorem State.Alone.passes_ofRest (a : s.Alone n) (away : (s.ctx n).state ≠ .fed) (idle : (s.ctx n).tReturn = none)
    (h : r.ofRest n) : s.passes r := by
  rcases h with rfl | rfl | rfl
  · exact a.passes_seqState
  · exact passes_fedEntry_away away .loss
  · exact passes_timerOver (k := .tReturn) idle

/-- The entry into FED from whatever state (R123). -/
theorem Acted.restOn (h : Acted n s c w b o m l t) (f : Entry) (ann : m.anns.get n = none) :
    ∃ m' l', Acted n s (SecCtx.into { c with feed := some f } .fed) none b o m' (l ++ l') (restOn n f t) ∧
      m'.anns.get n = none ∧ (∀ r ∈ l', r = .seqFeed n ∨ r.ofRest n) ∧ l'.length ≤ 3 := by
  have made := ((h.setFeed (some f)).enter .fed).report (.fedEntry n .loss)
  rw [List.append_assoc, List.append_assoc] at made
  refine ⟨_, _, made, ?_, fun r mem => ?_, ?_⟩
  · dsimp only
    unfold annsIn
    split
    · exact BySec.get_set_self _ _ _
    · exact ann
  · simp only [List.mem_append, List.mem_singleton] at mem
    rcases mem with mem | mem | mem
    · split at mem
      · cases mem
      · exact .inl (List.mem_singleton.mp mem)
    · split at mem
      · cases mem
      · exact .inr (.inl (List.mem_singleton.mp mem))
    · exact .inr (.inr (.inl mem))
  · simp only [List.length_append]
    split <;> split <;> simp

theorem Acted.fedOn_of (h : Acted n s (c.into .fed) none b o m l t) (ann : m.anns.get n = none) : t.FedOn n c.feed := by
  unfold State.FedOn
  dsimp only
  rw [h.ctx, h.watch, h.lmg]
  exact ⟨rfl, rfl, rfl, rfl, rfl, rfl, rfl, rfl, rfl, rfl, rfl, ann⟩

theorem operationReports_external (ch : Chan) {kind : ContactKind} (ext : kind.external = true) (op : Option Operation) (j : Nat) :
    operationReports ch kind op j = [] := by
  cases kind <;> simp [ContactKind.external] at ext <;> rfl

/-! ### The choice after a loss -/

/-- The entry that selection takes after the loss of an entry (R103 to R105). -/
def State.afterLoss (s : State) (n : Sec) (e : Entry) : Option Entry :=
  if s.held n then none else (s.plan.prefs n).find? fun g => g != e && s.targetFits n ⟨n, g⟩

/-- A section has lost its feed: it waits, or has begun a transfer to the entry selected (R104 to R107, R150, R152). -/
structure State.LostBy (s : State) (n : Sec) (e : Entry) (next : Option Entry) (cause : StartCause) (t : State) : Prop where
  kept  : s.RestKept n t
  feed  : (t.ctx n).feed = none
  lost  : (t.ctx n).lost = some ⟨e, true⟩
  waits : next = none → t.Waits n
  moves : ∀ g, next = some g →
    (t.ctx n).target = some ⟨n, g⟩ ∧ (t.ctx n).origin = some ⟨n, e⟩ ∧ (t.ctx n).startMs = t.now ∧
    (t.ctx n).closedTrans = false ∧ (t.ctx n).method = .none ∧
    t.lmg.anns.get n = some ⟨⟨n, g⟩, s.entrySource ⟨n, g⟩, g == .tie⟩ ∧
    (∀ y, s.entrySource ⟨n, g⟩ = some y →
      let secs := if g = .tie then allSecs else [n]
      t.sumOf secs ≤ s.plan.budget y ∨ ∀ f, feederSec f ∈ secs → t.sheddable f = false) ∧
    t.Noted (.transferBegin n (some ⟨n, e⟩) (some ⟨n, g⟩) false cause)

theorem SameBut.modSeq (h : SameBut n x s t) (f : SecCtx → SecCtx) : SameBut n x s (modSeq n f t) where
  plan := h.plan
  owner := h.owner
  other := (BySec.get_set_other _ _ (by cases n <;> decide) : _).trans h.other
  one := h.one
  blocked := h.blocked
  settle := h.settle
  chan := h.chan
  src := h.src

/-- What the announcement of the entry selected leaves the load manager with. -/
theorem SameBut.announced (same : SameBut n x s t) (mine : srcSec x = n) (shut : s.closed .bkt = false) (g : Entry)
    (h : Acted n u c w b o (announce n ⟨n, g⟩ t).lmg l v) (plan : v.plan = s.plan) :
    v.lmg.anns.get n = some ⟨⟨n, g⟩, s.entrySource ⟨n, g⟩, g == .tie⟩ ∧
    ∀ y, s.entrySource ⟨n, g⟩ = some y →
      let secs := if g = .tie then allSecs else [n]
      v.sumOf secs ≤ s.plan.budget y ∨ ∀ f, feederSec f ∈ secs → v.sheddable f = false := by
  have told := announce_announced n ⟨n, g⟩ t
  have ann : t.announcement n ⟨n, g⟩ = ⟨⟨n, g⟩, s.entrySource ⟨n, g⟩, g == .tie⟩ := by
    unfold State.announcement
    rw [same.entrySource mine shut, same.bkt, shut]
    simp
  rw [ann] at told
  have planA : (announce n ⟨n, g⟩ t).plan = s.plan := (announce_load n ⟨n, g⟩ t).plan_eq.trans same.plan
  refine ⟨by rw [h.lmg]; exact told.ann, fun y source => ?_⟩
  have sums := told.sums y source
  have secs : annSecs n ⟨⟨n, g⟩, s.entrySource ⟨n, g⟩, g == .tie⟩ = if g = .tie then allSecs else [n] := by
    unfold annSecs
    by_cases tie : g = .tie <;> simp [tie]
  rw [secs, planA] at sums
  have feeders : v.lmg.feeders = (announce n ⟨n, g⟩ t).lmg.feeders := by rw [h.lmg]
  have sheds (f : Feeder) : v.sheddable f = (announce n ⟨n, g⟩ t).sheddable f := by
    unfold State.sheddable State.carried State.cls State.feeder
    rw [feeders, plan, planA]
  dsimp only
  rw [sumOf_congr (plan.trans planA.symm) feeders]
  exact sums.imp id fun none f mem => (sheds f).trans (none f mem)

/-- A section that has just lost its feed, before selection. -/
structure JustLost (n : Sec) (x : Src) (e : Entry) (s base : State) (c : SecCtx) (b : ByChan ChanRec) (m : LmgState)
    (l : List Report) (t : State) : Prop where
  own    : ownSource n e = some x
  shut   : s.closed .bkt = false
  same   : SameBut n x s t
  acted  : ∃ w, Acted n base c w b base.owner m l t
  rest   : c.state.fedRest
  role   : c.role = .sole
  feed   : c.feed = none
  lost   : c.lost = some ⟨e, true⟩
  kept   : s.RestKept n base
  plan   : base.plan = s.plan

namespace JustLost

variable {base : State} (h : JustLost n x e s base c b m l t)
include h

theorem held : t.held n = s.held n := h.same.held h.shut

theorem choose : t.choose n = ((s.plan.prefs n).find? fun g => g != e && s.targetFits n ⟨n, g⟩).map (⟨n, ·⟩) := by
  obtain ⟨w, acted⟩ := h.acted
  exact h.same.choose_lost h.own h.shut (by rw [acted.ctx]; exact h.role) (by rw [acted.ctx]; exact h.lost)

theorem away {st : SeqState} (not : ¬st.fedRest) : c.state ≠ st := fun e => not (e ▸ h.rest)

theorem restKept {c' w' b' m' l' u} (acted : Acted n base c' w' b' base.owner m' l' u) : s.RestKept n u := by
  obtain ⟨other, owner, hlc, pst, modes⟩ := h.kept
  exact ⟨acted.other.trans other, acted.owner.trans owner, acted.hlc.trans hlc, acted.pst.trans pst, acted.modes.trans modes⟩

/-- With no entry to take, or held, the section waits (R105). -/
theorem waits (nothing : s.afterLoss n e = none) : select n cause t = enter n .waitSource t ∧
    Acted n base (c.into .waitSource) none b base.owner { m with anns := m.anns.set n none } (l ++ [.seqState n])
      (enter n .waitSource t) ∧
    ∀ l' v, Acted n base (c.into .waitSource) none b base.owner { m with anns := m.anns.set n none } l' v →
      s.LostBy n e (s.afterLoss n e) cause v := by
  obtain ⟨w, acted⟩ := h.acted
  have made := acted.enter_resting (st := .waitSource) rfl (h.away (by simp [SeqState.fedRest]))
  have no : t.held n = true ∨ t.choose n = none := by
    rw [h.held, h.choose]
    unfold State.afterLoss at nothing
    split at nothing
    · rename_i held
      exact .inl held
    · rw [nothing]
      exact .inr rfl
  refine ⟨select_waits no, made, fun l' v made => ?_⟩
  refine ⟨h.restKept made, by rw [made.ctx]; exact h.feed, by rw [made.ctx]; exact h.lost, fun _ => made.waits h.feed,
    fun g first => ?_⟩
  rw [nothing] at first
  cases first

/-- With an entry to take a transfer begins (R105, R106, R150). -/
theorem begins (fresh : cause ≠ .retarget) (first : s.afterLoss n e = some g) : ∃ w m' u,
    select n cause t = openTransition n u ∧ s.held n = false ∧
    Acted n base { c with
      target := some ⟨n, g⟩, origin := some ⟨n, e⟩, startMs := base.now, closedTrans := false, method := .none,
      closeRec := ⟨none, 0⟩ } w b base.owner m' l u ∧
    (∀ c' w' b' l' v, Acted n base c' w' b' base.owner m' l' v → NotesGrow u v → c'.feed = none → c'.lost = some ⟨e, true⟩ →
      c'.target = some ⟨n, g⟩ → c'.origin = some ⟨n, e⟩ → c'.startMs = base.now → c'.closedTrans = false → c'.method = .none →
      s.LostBy n e (s.afterLoss n e) cause v) := by
  obtain ⟨w, acted⟩ := h.acted
  obtain ⟨held, found⟩ : s.held n = false ∧ ((s.plan.prefs n).find? fun g => g != e && s.targetFits n ⟨n, g⟩) = some g := by
    unfold State.afterLoss at first
    split at first
    · cases first
    · rename_i held
      exact ⟨by simpa using held, first⟩
  have begun := acted.beginTransfer cause false ⟨n, g⟩
  have noted := acted.beginTransfer_noted cause false ⟨n, g⟩
  have origin : c.start? n = some ⟨n, e⟩ := by
    unfold SecCtx.start?
    rw [h.lost]
  rw [SecCtx.chosen_fresh _ _ _ fresh, origin] at begun noted
  refine ⟨_, _, _, select_takes (h.held.trans held) (by rw [h.choose, found]; rfl) (by rw [acted.ctx]; exact h.away (by simp [SeqState.fedRest])),
    held, begun, fun c' w' b' l' v made notes feed lost target origin start closed method => ?_⟩
  have facts := (h.same.modSeq fun c => { c with target := some ⟨n, g⟩ }).announced (srcSec_of_own h.own) h.shut g made
    (made.plan.trans h.plan)
  refine ⟨h.restKept made, by rw [made.ctx, feed], by rw [made.ctx, lost], fun nothing => ?_, fun g' found => ?_⟩
  · rw [first] at nothing
    cases nothing
  rw [first] at found
  cases found
  rw [made.ctx, made.now]
  exact ⟨target, origin, start, closed, method, facts.1, facts.2, notes.noted noted⟩

end JustLost

end Sys2Proof.Machine
end

section
/-! The rows by which a section in AUTO loses its feed (R103 to R107, R110, R111, R123). -/

namespace Sys2Proof.Machine

variable {s t u v : State} {n : Sec} {x y : Src} {e g : Entry} {c c' : SecCtx} {w w' : Option Watch} {b b' : ByChan ChanRec}
  {o o' : Option Sec} {m m' : LmgState} {l l' : List Report} {r : Report} {k k' : Nat} {cause : StartCause}

/-! ### The feed's source goes DOWN -/

section SourceDown

variable {d : Nat} (alone : s.AutoAlone n) (tie : s.TieOpen) (feed : (s.ctx n).feed = some e) (own : ownSource n e = some x)
  (rest : (s.ctx n).state.fedRest)
include alone tie feed own rest

theorem sourceDown_loses (cause : Cause) : ∃ t, srcReported x .down (s.sourceAt x d .down cause) = select n .loss t ∧
    JustLost n x e s (s.sourceAt x d .down cause) ((s.ctx n).losing e (s.ctx n).openMs) s.bcu s.lmg [.seqFeed n] t := by
  obtain ⟨moved, -⟩ := sourceAt_moved s x d .down cause
  generalize s.sourceAt x d .down cause = v at *
  have a := moved.alone alone.alone
  have start := Acted.refl n v
  have source : v.feedSource n = some x := by
    unfold State.feedSource
    rw [moved.ctx, feed]
    exact entrySource_of_own own
  obtain ⟨t, select, made⟩ := start.loses (by rw [moved.ctx]; exact feed) .loss false
  rw [moved.ctx, moved.bcu, moved.lmg] at made
  refine ⟨t, ?_, ⟨own, tie.1, ?_, ⟨_, made⟩, rest, tie.2.2 n, rfl, rfl, ?_, moved.plan⟩⟩
  · rw [srcReported_one a (by decide), seqSource_down a.auto (by rw [moved.ctx]; exact rest) source (by
      rw [moved.ctx, feed]
      exact fun same => own_ne_tie own (Option.some.inj same)), select]
  · refine (moved.sameBut n).trans ?_
    rw [← moved.bcu] at made
    exact made.sameBut (made.classOne (by rw [moved.lmg])) (fun _ _ => rfl)
  · exact moved.restKept n

/-- The feed's source is DOWN: with an entry to take the incomer is tripped, and with none it stays closed. -/
theorem sourceDown_row (timer : (s.squ.srcs.get x).timer = some (.drop, d) ∨ (s.squ.srcs.get x).timer = some (.fast, d))
    (closed : (s.bcu.get (entryChan ⟨n, e⟩)).position = .isClosed) (shut : s.closed (entryChan ⟨n, e⟩) = true) :
    ∃ t, exec (.dropFastExpiry x) s = .next t ∧ s.LostBy n e (s.afterLoss n e) .loss t ∧ t.now = max s.now d ∧
      (s.afterLoss n e = none → t.bcu = s.bcu) ∧
      (s.afterLoss n e ≠ none → (t.ctx n).state = .opening ∧
        t.bcu = s.bcu.set (entryChan ⟨n, e⟩) (s.tripBegun (entryChan ⟨n, e⟩) (.seq n) t.now)) := by
  obtain ⟨t, handled, lost⟩ := sourceDown_loses (d := d) alone tie feed own rest (s.squ.srcs.get x).cause
  obtain ⟨moved, -⟩ := sourceAt_moved s x d .down (s.squ.srcs.get x).cause
  have a := moved.alone alone.alone
  have calm := moved.calm.trans alone.1.2
  have row {u z : State} {j : Nat} (sel : select n .loss t = u) (gen : u.NoGenerator) (taken : Takes j u z) (few : j ≤ 4095) :
      exec (.dropFastExpiry x) s = .next z := by
    rw [exec_event rfl alone.1.1, dropExpired_of timer, changeSrc_reached rfl]
    exact congrArg _ (settle_sourceAt alone.alone alone.1.2 (handled.trans sel) gen taken few)
  cases first : s.afterLoss n e with
  | none =>
    obtain ⟨sel, made, out⟩ := lost.waits (cause := .loss) first
    have alone' := made.alone a
    have taken := made.takes_all a calm (by
      simp only [List.cons_append, List.nil_append, List.mem_cons, List.not_mem_nil, or_false]
      rintro r (rfl | rfl)
      · exact alone'.passes_seqFeed
      · exact alone'.passes_seqState)
    have cleared := made.cleared calm
    rw [first] at out
    exact ⟨_, row sel alone'.gen taken (by simp), out _ _ cleared, cleared.now.trans moved.now, fun _ => cleared.bcu,
      fun no => absurd rfl no⟩
  | some g =>
    obtain ⟨w, m', u, sel, held, begun, out⟩ := lost.begins (cause := .loss) (by decide) first
    have free : s.blocked = false := by
      unfold State.held State.heldBy at held
      simp only [Bool.or_eq_false_iff] at held
      exact held.1.1.1
    have old : u.oldChan n = some (entryChan ⟨n, e⟩) := by
      unfold State.oldChan
      rw [begun.ctx]
      rfl
    have freeV : (s.sourceAt x d .down (s.squ.srcs.get x).cause).blocked = false := (moved.sameBut n).blocked.trans free
    have made := begun.openTransition_trip old shut closed freeV (lost.away (by simp [SeqState.fedRest]))
    have grown := ((Acted.refl n u).openTransition_trip old (by rw [begun.bcu]; exact shut) (by rw [begun.bcu]; exact closed)
      (begun.blocked.trans freeV) (by rw [begun.ctx]; exact lost.away (by simp [SeqState.fedRest]))).notes
    have alone' := made.alone a
    have taken := made.takes_all a calm (by
      simp only [List.cons_append, List.nil_append, List.mem_cons, List.not_mem_nil, or_false]
      rintro r (rfl | rfl)
      · exact alone'.passes_seqFeed
      · exact alone'.passes_seqState)
    have cleared := made.cleared calm
    rw [first] at out
    refine ⟨_, row sel alone'.gen taken (by simp), out _ _ _ _ _ cleared (grown.trans (.of_spt rfl rfl)) rfl rfl rfl rfl rfl rfl rfl,
      cleared.now.trans moved.now, nofun, fun _ => ⟨?_, ?_⟩⟩
    · rw [cleared.ctx]
      rfl
    · rw [cleared.bcu, cleared.now, tripBegun_eq (.seq n) _ (.inl closed), moved.plan]

end SourceDown

/-! ### The feed's incomer opens -/

theorem Acted.classOne_kept (h : Acted n s c w b o m l t) (kept : ∀ f, (m.feeders.get f).demand = (s.feeder f).demand) :
    t.classOne = s.classOne :=
  classOne_congr h.plan fun f => by
    unfold State.feeder
    rw [h.lmg]
    exact kept f

/-- What stays of the section's source paths, once the feed's incomer has opened. -/
theorem feedOpened_closed (tie : s.closed .bkt = false) (acted : Acted n s c w (s.bcu.set (srcChan x)
      ((s.bcu.get (srcChan x)).auxChanged false s.now)) o m l u) :
    u.closed (srcChan x) = false ∧ u.closed .bkt = false ∧ ∀ y, y ≠ x → u.closed (srcChan y) = s.closed (srcChan y) := by
  refine ⟨?_, ?_, fun y ne => ?_⟩
  · rw [acted.closed, ByChan.get_set_self, (auxChanged_rest _ _ _).1]
  · rw [acted.closed, ByChan.get_set_other _ _ (srcChan_ne_bkt x)]
    exact tie
  · rw [acted.closed, ByChan.get_set_other _ _ fun same => ne (srcChan_inj same.symm)]
    rfl

/-- The state in which the section is told that its feed's incomer has opened, after a report of the channel's
availability. -/
structure OpenTold (n : Sec) (x : Src) (s : State) (c : SecCtx) (w : Option Watch) (m : LmgState) (l : List Report)
    (u : State) : Prop where
  acted   : Acted n s c w (s.bcu.set (srcChan x) ((s.bcu.get (srcChan x)).auxChanged false s.now)) s.owner m l u
  stays   : (s.ctx n).StaysFed c
  demands : ∀ f, (m.feeders.get f).demand = (s.feeder f).demand
  ann     : s.lmg.anns.get n = none → m.anns.get n = none
  ofRest  : ∀ r ∈ l, r.ofRest n
  short   : l.length ≤ 3
  settles : ∀ k z c' w' b' o' m' l',
    Acted n s c' w' b' o' m' l' (feedOpened n (srcChan x) ((s.bcu.get (srcChan x)).contactKind false) u) →
    Takes k (feedOpened n (srcChan x) ((s.bcu.get (srcChan x)).contactKind false) u) z → k ≤ 4090 →
    exec (.auxAccepted (srcChan x) false) s = .next z

/-- The opening of the feed's incomer is told to a section that is fed. -/
theorem feedContact_seen (a : s.Alone n) (feed : (s.ctx n).feed = some e) (own : ownSource n e = some x)
    (h : Acted n s c w b o m l t) (stays : (s.ctx n).StaysFed c) {kind : ContactKind} (op : Option Operation)
    (opens : kind = .confirmOpen ∨ kind = .externalOpen ∨ kind = .protectionOpen) :
    handle (.contact n (srcChan x) kind op) t = feedOpened n (srcChan x) kind t := by
  show contactSeen n _ _ _ _ = _
  rw [contactSeen_opens (h.alone a).auto _ opens, openSeen_feed]
  · rw [h.ctx]; exact stays.state
  · rw [h.ctx, stays.feed, feed]
    exact congrArg some (entryChan_of_own own)
  · rw [h.ctx]
    exact fun st => absurd stays.state (by rw [st]; simp [SeqState.fedRest])

theorem srcSec_two {z : Src} (same : srcSec x = srcSec y) (ne : y ≠ x) (mine : srcSec z = srcSec x) (other : z ≠ y) : z = x := by
  cases x <;> cases y <;> cases z <;> simp_all [srcSec]

section Opens

variable (alone : s.AutoAlone n) (tie : s.TieOpen) (feed : (s.ctx n).feed = some e) (own : ownSource n e = some x)
  (rest : (s.ctx n).state.fedRest) (shut : s.closed (srcChan x) = true)
include alone tie feed own rest shut

/-- An external opening of the feed's incomer is told to the fed section. -/
theorem feedOpens_told (ext : ((s.bcu.get (srcChan x)).contactKind false).external = true)
    (opens : (s.bcu.get (srcChan x)).contactKind false = .externalOpen ∨
      (s.bcu.get (srcChan x)).contactKind false = .protectionOpen) : ∃ c w m l u, OpenTold n x s c w m l u := by
  have a := alone.alone
  have calm := alone.1.2
  obtain ⟨m, load, made⟩ := auxAccept_acted (level := false) tie (srcChan_ne_bkt x) (chanOf_srcChan (srcSec_of_own own))
    alone.2.2.2.1 shut
  rw [operationReports_external _ ext] at made
  obtain ⟨u, j, reconsidered, few, lift⟩ := made.takes_avail a calm rest
  obtain ⟨c, w, m1, l, acted, stays, anns, ofRest, short⟩ := reconsidered.acted
  have told := acted.waiting calm l
  refine ⟨c, w, m1, l, _, told, stays, fun f => ?_, fun ann => ?_, ofRest, short, fun k z c' w' b' o' m' l' done taken bound => ?_⟩
  · rcases anns with e | e <;> rw [e] <;> exact load.demands f
  · rcases anns with e | e <;> rw [e]
    · rw [load.anns]
      exact ann
    · exact BySec.get_set_self _ _ _
  · rw [← feedContact_seen alone.alone feed own told stays _ (.inr opens)] at done taken
    have whole := lift _ _ (acted.takes a calm done taken)
    rw [exec_event rfl alone.1.1]
    exact congrArg _ (whole.settled (made.alone a).gen (by omega))

/-- The feed's one incomer opens by itself: the feed is lost (R107). -/
theorem feedOpens_loses (closed : (s.bcu.get (srcChan x)).position = .isClosed) (one : s.paths n = [x])
    (live : (s.squ.buses.get n).state ≠ .dead) :
    ∃ t, exec (.auxAccepted (srcChan x) false) s = .next t ∧ s.LostBy n e (s.afterLoss n e) .externalOpen t ∧
      (t.ctx n).openMs = s.now ∧ (∀ g, s.afterLoss n e = some g → t.DecayBegun n ⟨n, g⟩) ∧
      t.bcu = s.bcu.set (srcChan x) ((s.bcu.get (srcChan x)).auxChanged false s.now) := by
  have a := alone.alone
  have calm := alone.1.2
  have kind := (contactKind_followed (level := false) (.inr closed)).1
  obtain ⟨c, w, m, l, u, told⟩ := feedOpens_told alone tie feed own rest shut (external_followed (.inr closed)) (.inl kind)
  obtain ⟨openX, openT, others⟩ := feedOpened_closed tie.1 told.acted
  have dead : u.paths n = [] := paths_none openT fun z mine => by
    by_cases e : z = x
    · rw [e]; exact openX
    · rw [others z e]
      by_contra yes
      have mem := (mem_paths tie.1).mpr ⟨mine, by simpa using yes⟩
      rw [one] at mem
      exact e (List.mem_singleton.mp mem)
  obtain ⟨t, sel, made⟩ := told.acted.loses (told.stays.feed.trans feed) .externalOpen true
  have handled : feedOpened n (srcChan x) ((s.bcu.get (srcChan x)).contactKind false) u = select n .externalOpen t := by
    rw [kind]
    unfold feedOpened
    rw [if_neg (by decide)]
    unfold judgeLeft
    rw [dead]
    exact sel
  have settles := told.settles
  rw [handled] at settles
  have lost : JustLost n x e s s (c.losing e s.now) (s.bcu.set (srcChan x) ((s.bcu.get (srcChan x)).auxChanged false s.now))
      m (l ++ [.seqFeed n]) t :=
    ⟨own, tie.1, made.sameBut (made.classOne_kept told.demands) (fun ch ne => ByChan.get_set_other _ _ (Ne.symm ne)), ⟨_, made⟩,
      told.stays.state, told.stays.role.trans (tie.2.2 n), rfl, rfl, ⟨rfl, rfl, rfl, rfl, rfl⟩, rfl⟩
  have short := told.short
  cases first : s.afterLoss n e with
  | none =>
    obtain ⟨sel, made, out⟩ := lost.waits (cause := .externalOpen) first
    have alone' := made.alone a
    have away : ((enter n .waitSource t).ctx n).state ≠ .fed := by rw [made.ctx]; simp [SecCtx.into]
    have idle : ((enter n .waitSource t).ctx n).tReturn = none := by rw [made.ctx]; rfl
    have taken := made.takes_all a calm (by
      simp only [List.append_assoc, List.mem_append, List.mem_singleton]
      rintro r (mem | rfl | rfl)
      · exact alone'.passes_ofRest away idle (told.ofRest r mem)
      · exact alone'.passes_seqFeed
      · exact alone'.passes_seqState)
    have cleared := made.cleared calm
    rw [sel] at settles
    rw [first] at out
    refine ⟨_, settles _ _ _ _ _ _ _ _ made taken ?_, out _ _ cleared, ?_, nofun, cleared.bcu⟩
    · simp only [List.length_append, List.length_singleton]
      omega
    · rw [cleared.ctx]
      rfl
  | some g =>
    obtain ⟨w, m', q, sel, held, begun, out⟩ := lost.begins (cause := .externalOpen) (by decide) first
    have old : ∀ z, q.oldChan n = some z → q.closed z = false := by
      intro z is
      unfold State.oldChan at is
      rw [begun.ctx] at is
      obtain rfl : entryChan ⟨n, e⟩ = z := Option.some.inj is
      rw [entryChan_of_own own, begun.closed, ByChan.get_set_self, (auxChanged_rest _ _ _).1]
    have away : (c.losing e s.now).state ≠ .decay := lost.away (by simp [SeqState.fedRest])
    have made := begun.enterDecay away
    have grown := ((Acted.refl n q).enterDecay (by rw [begun.ctx]; exact away)).notes
    rw [Acted.openTransition_open old] at sel
    have alone' := made.alone a
    have awayF : ((enterDecay n q).ctx n).state ≠ .fed := by rw [made.ctx]; simp [SecCtx.decayed, SecCtx.into]
    have idle : ((enterDecay n q).ctx n).tReturn = none := by rw [made.ctx]; rfl
    have no : (enterDecay n q).closeCondition n false = none := closeCondition_none
      (fun now => live (by rw [← made.squ]; exact now.1)) (by rw [made.ctx]; rfl) (by rw [made.ctx]; rfl)
    have taken := made.takes_all a calm (by
      simp only [List.append_assoc, List.mem_append, List.mem_cons, List.not_mem_nil, or_false]
      rintro r (mem | rfl | rfl | rfl)
      · exact alone'.passes_ofRest awayF idle (told.ofRest r mem)
      · exact alone'.passes_seqFeed
      · exact alone'.passes_seqState
      · exact passes_decayTest no [])
    have cleared := made.cleared calm
    rw [sel] at settles
    rw [first] at out
    refine ⟨_, settles _ _ _ _ _ _ _ _ made taken ?_,
      out _ _ _ _ _ cleared (grown.trans (.of_spt rfl rfl)) rfl rfl rfl rfl rfl rfl rfl, ?_, fun g' found => ?_, cleared.bcu⟩
    · simp only [List.length_append, List.length_cons, List.length_nil]
      omega
    · rw [cleared.ctx]
      rfl
    · obtain rfl : g = g' := Option.some.inj found
      exact cleared.decayBegun rfl rfl

/-- The feed's incomer opens by itself beside the section's other incomer: the section is fed by that one (log entry 44). -/
theorem feedOpens_leaves (closed : (s.bcu.get (srcChan x)).position = .isClosed) (mine : srcSec y = n) (ne : y ≠ x)
    (stays : s.closed (srcChan y) = true) (up : s.srcState y ≠ .down) (no : s.plan.sec n .autoReturn = 0)
    (ann : s.lmg.anns.get n = none) :
    ∃ t, exec (.auxAccepted (srcChan x) false) s = .next t ∧ s.RestKept n t ∧ t.FedOn n (some (srcEntry y)) ∧
      t.bcu = s.bcu.set (srcChan x) ((s.bcu.get (srcChan x)).auxChanged false s.now) := by
  have a := alone.alone
  have calm := alone.1.2
  have kind := (contactKind_followed (level := false) (.inr closed)).1
  obtain ⟨c, w, m, l, u, told⟩ := feedOpens_told alone tie feed own rest shut (external_followed (.inr closed)) (.inl kind)
  obtain ⟨openX, openT, others⟩ := feedOpened_closed tie.1 told.acted
  have mineX := srcSec_of_own own
  have left : u.paths n = [y] := paths_single openT mine ((others y ne).trans stays) fun z mineZ neZ => by
    obtain rfl := srcSec_two (mineX.trans mine.symm) ne (mineZ.trans mineX.symm) neZ
    exact openX
  have handled : feedOpened n (srcChan x) ((s.bcu.get (srcChan x)).contactKind false) u = restOn n (srcEntry y) u := by
    rw [kind]
    unfold feedOpened
    rw [if_neg (by decide)]
    unfold judgeLeft
    rw [left]
    dsimp only
    rw [show pathEntry n y = srcEntry y from if_pos mine]
  have settles := told.settles
  rw [handled] at settles
  obtain ⟨m', l', made, ann', ofRest, short'⟩ := told.acted.restOn (srcEntry y) (told.ann ann)
  have alone' := made.alone a
  have fed : ((restOn n (srcEntry y) u).ctx n).feed = some (srcEntry y) := by rw [made.ctx]; rfl
  have own' := own_srcEntry mine
  have passes : ∀ r, r.ofRest n → (restOn n (srcEntry y) u).passes r := by
    rintro r (rfl | rfl | rfl)
    · exact alone'.passes_seqState
    · refine passes_fedEntry (fun z is => ?_) (returnDue_of_auto (by rw [made.plan]; exact no)) .loss
      rw [fed] at is
      obtain rfl : y = z := Option.some.inj (own'.symm.trans is)
      rw [made.srcState]
      exact up
    · exact passes_timerOver (k := .tReturn) (by rw [made.ctx]; rfl)
  have taken := made.takes_all a calm fun r mem => by
    rcases List.mem_append.mp mem with mem | mem
    · exact passes r (told.ofRest r mem)
    · rcases ofRest r mem with rfl | rest
      · exact alone'.passes_seqFeed
      · exact passes r rest
  have cleared := made.cleared calm
  have short := told.short
  refine ⟨_, settles _ _ _ _ _ _ _ _ made taken ?_, cleared.restKept rfl, cleared.fedOn_of ann', cleared.bcu⟩
  rw [List.length_append]
  omega

/-- The feed's incomer, locked with PRT asserted, opens: the section halts (R107). -/
theorem feedOpens_halts (locked : (s.bcu.get (srcChan x)).position = .locked) (prot : (s.bcu.get (srcChan x)).prot.accepted = true) :
    ∃ t, exec (.auxAccepted (srcChan x) false) s = .next t ∧ s.RestKept n t ∧
      t.HaltedWith n (s.ctx n).state .busFault (some (srcChan x)) ∧
      t.bcu = s.bcu.set (srcChan x) ((s.bcu.get (srcChan x)).auxChanged false s.now) := by
  have a := alone.alone
  have calm := alone.1.2
  have kind := (contactKind_held (level := false) (.inr locked)).1
  rw [if_neg (by decide), if_pos ⟨locked, prot⟩] at kind
  have changed := auxChanged_held (level := false) (now := s.now) (.inr locked)
  obtain ⟨m, load, made⟩ := auxAccept_acted (level := false) tie (srcChan_ne_bkt x) (chanOf_srcChan (srcSec_of_own own))
    alone.2.2.2.1 shut
  have silent : availReports s (srcChan x) ((s.bcu.get (srcChan x)).auxChanged false s.now) = [] :=
    availReports_unavailable (by rw [locked]; decide) (by rw [changed]; simp [locked])
  rw [silent, kind, operationReports_external _ rfl, List.nil_append] at made
  have waiting := made.waiting calm []
  have seen := feedContact_seen a feed own waiting ⟨rest, rfl, rfl⟩ (s.bcu.get (srcChan x)).op (.inr (.inr rfl))
  have unfed := waiting.setFeed none
  have halted := unfed.halt_haltedWith .busFault (some (srcChan x))
  obtain ⟨o', anns, l, retests, owner, stopped⟩ := unfed.halt .busFault (some (srcChan x))
  have free : s.owner = none := tie.2.1
  have handled := seen.trans (show feedOpened n (srcChan x) .protectionOpen { auxAccept (srcChan x) false s with agenda := [] } =
    halt n .busFault (some (srcChan x)) (setFeed n none { auxAccept (srcChan x) false s with agenda := [] }) from if_pos rfl)
  have alone' := stopped.alone a
  have passes : (halt n .busFault (some (srcChan x)) (setFeed n none { auxAccept (srcChan x) false s with agenda := [] })).Retested n :=
    .of_transfer (by rw [stopped.ctx]; simp [SecCtx.haltedBy, SecCtx.into])
  have whole := (Retests.feedMade (n := n) ((s.ctx n).feed = none)).append retests
  have taken := stopped.takes_all a calm fun r mem => alone'.passes passes (whole.each r mem)
  have cleared := stopped.cleared calm
  refine ⟨_, ?_, cleared.restKept (owner (by rw [free]; exact nofun)),
    (halted.later rfl rfl rfl rfl rfl rfl (.of_spt rfl rfl)), cleared.bcu⟩
  rw [exec_event rfl alone.1.1]
  have few := whole.few
  exact congrArg _ ((Takes.acts (made.front calm) handled alone'.gen taken).settled (made.alone a).gen
    (Nat.le_trans (Nat.succ_le_succ few) (by decide)))

end Opens

/-! ### The rows -/

/-- Settles O44. -/
theorem feedLostInAuto : Obligations.FeedLostInAuto := by
  unfold Obligations.FeedLostInAuto
  intro s n e x alone tie feed own rest
  dsimp only
  have sameChan := entryChan_of_own (n := n) own
  refine ⟨fun d timer closed aux => ?_, fun closed one live => ?_, fun y closed aux mine ne stays up no ann => ?_,
    fun locked prot aux => ?_⟩
  · obtain ⟨t, run, lost, now, waits, moves⟩ := sourceDown_row alone tie feed own rest timer closed aux
    exact ⟨t, run, ⟨lost.kept, lost.feed, lost.lost, lost.waits, lost.moves⟩, now, waits, moves⟩
  · rw [sameChan] at *
    have shut : s.closed (srcChan x) = true := ((mem_paths tie.1).mp (by rw [one]; exact List.mem_singleton.mpr rfl)).2
    obtain ⟨t, run, lost, open_, begun, bcu⟩ := feedOpens_loses alone tie feed own rest shut closed one live
    rw [auxChanged_followed (.inr closed)] at bcu
    exact ⟨t, run, ⟨lost.kept, lost.feed, lost.lost, lost.waits, lost.moves⟩, open_, begun, bcu⟩
  · rw [sameChan] at *
    obtain ⟨t, run, kept, fed, bcu⟩ := feedOpens_leaves alone tie feed own rest aux closed mine ne stays up no ann
    rw [auxChanged_followed (.inr closed)] at bcu
    exact ⟨t, run, kept, fed, bcu⟩
  · rw [sameChan] at *
    obtain ⟨t, run, kept, halted, bcu⟩ := feedOpens_halts alone tie feed own rest aux locked prot
    rw [auxChanged_held (.inr locked)] at bcu
    exact ⟨t, run, kept, halted, bcu⟩

end Sys2Proof.Machine
end

section
/-! The rows of a channel's operation as the one section in AUTO is told of them (R84, R85, R90). -/

namespace Sys2Proof.Machine

variable {s t u v base : State} {n : Sec} {x y : Src} {e g : Entry} {c c' : SecCtx} {w w' : Option Watch} {b b' : ByChan ChanRec}
  {o' : Option Sec} {m m' : LmgState} {l l' : List Report} {r : Report} {k k' : Nat} {row : Instr} {act : State → State}

/-! ### An event that comes to one report -/

/-- Taking so many reports of s comes to t. -/
def Reaches (j : Nat) (s t : State) : Prop := ∀ k, drain (k + j) s = drain k t

namespace Reaches

theorem refl (s : State) : Reaches 0 s s := fun _ => rfl

theorem acts {rest : List Report} {j : Nat} (front : s.agenda = r :: rest) (handled : handle r { s with agenda := rest } = u)
    (g : u.NoGenerator) (next : Reaches j u t) : Reaches (j + 1) s t := fun k => by
  rw [← Nat.add_assoc, drain_cons _ front, handled, runAll_noGenerator g]
  exact next k

theorem passing (l : List Report) {rest : List Report} {j : Nat} (front : s.agenda = l ++ rest) (g : s.NoGenerator)
    (pass : ∀ r ∈ l, s.passes r) (next : Reaches j { s with agenda := rest } t) : Reaches (l.length + j) s t := by
  induction l generalizing s with
  | nil =>
    rw [List.length_nil, Nat.zero_add, show s = { s with agenda := rest } from by rw [show rest = s.agenda from front.symm]]
    exact next
  | cons r l ih =>
    rw [List.length_cons, Nat.add_right_comm]
    exact acts front (pass r List.mem_cons_self _) g
      (ih (s := { s with agenda := l ++ rest }) rfl g (fun q mem => pass q (List.mem_cons_of_mem _ mem)) next)

theorem settled {j : Nat} (h : Reaches j s t) (g : s.NoGenerator) (few : j ≤ 6) : ∃ k, 4090 ≤ k ∧ settle s = drain k t := by
  refine ⟨4096 - j, by omega, ?_⟩
  unfold settle
  rw [runAll_noGenerator g, ← h, Nat.sub_add_cancel (by omega)]

end Reaches

/-- The row's event comes to a report on which the section acts; what it makes of the state v then is the event's end. -/
structure Told (row : Instr) (n : Sec) (s base : State) (b : ByChan ChanRec) (m : LmgState) (l : List Report)
    (act : State → State) (v : State) : Prop where
  acted : Acted n base (s.ctx n) (s.ccu.watches.get n) b s.owner m l v
  alone : base.Alone n
  calm  : base.agenda = []
  kept  : s.RestKept n base
  runs  : (act v).NoGenerator → ∃ k, 4090 ≤ k ∧ exec row s = .next (drain k (act v))

theorem Told.ends (h : Told row n s base b m l act v) (gen : (act v).NoGenerator) (taken : Takes k (act v) t) (few : k ≤ 4090) :
    exec row s = .next t := by
  obtain ⟨j, bound, run⟩ := h.runs gen
  rw [run, ← Nat.add_sub_cancel' (few.trans bound), taken.drained]

theorem Told.rests (h : Told row n s base b m l act v) (made : Acted n base c w b' o' m' l' (act v))
    (pass : ∀ r ∈ l', (act v).passes r) (few : l'.length ≤ 4090) : exec row s = .next { act v with agenda := [] } :=
  h.ends (made.alone h.alone).gen (made.takes_all h.alone h.calm pass) few

/-- An event whose one report is for the section. -/
theorem Told.of_report (kept : s.RestKept n base) (acted : Acted n base (s.ctx n) (s.ccu.watches.get n) b s.owner m (r :: l) t) (alone : base.Alone n)
    (calm : base.agenda = []) (run : exec row s = .next (settle t))
    (seen : handle r { t with agenda := l } = act { t with agenda := l }) : Told row n s base b m l act { t with agenda := l } :=
  ⟨acted.waiting calm l, alone, calm, kept, fun gen => by
    rw [run]
    obtain ⟨k, bound, ends⟩ := (Reaches.acts (acted.front calm) seen gen (.refl _)).settled (acted.alone alone).gen (by omega)
    exact ⟨k, bound, congrArg _ ends⟩⟩

/-- Of two sections told, one in MANUAL, the other acts. -/
theorem forSecs_alone {f : Sec → State → State} (still : ∀ t : State, t.auto n.other = false → f n.other t = t)
    (a : s.Alone n) (moves : Moves s (f n s)) : forSecs f s = f n s := by
  refine forSecs_one n (still s a.not_auto) (still _ ?_)
  have kept : (f n s).mode n.other = s.mode n.other := congrArg (·.get n.other) moves.modes_eq
  have manual := a.not_auto
  unfold State.auto at *
  rwa [kept]

theorem tripConfirmed_seen (a : s.Alone n) (ch : Chan) : handle (.tripConfirmed ch) s = tripConfirmed ch n s :=
  forSecs_alone (fun t manual => by unfold tripConfirmed; rw [manual]; rfl) a (tripConfirmed_moves ch n .refl)

theorem tripFailed_seen (a : s.Alone n) (ch : Chan) : handle (.tripFailed ch) s = tripFailed ch n s :=
  forSecs_alone (fun t manual => by unfold tripFailed; rw [manual]; rfl) a (tripFailed_moves ch n .refl)

theorem lockoutEnded_seen (a : s.Alone n) (ch : Chan) (o : Operation) : handle (.lockoutEnded ch o) s = lockoutEnded ch n s :=
  forSecs_alone (fun t manual => by unfold lockoutEnded; rw [manual]; rfl) a (lockoutEnded_moves ch n .refl)

theorem passes_channelLocked (a : s.Alone n) (ch : Chan) (st : (s.ctx n).state = .halted) : s.passes (.channelLocked ch) := by
  intro q
  have still (m : Sec) (no : ({ s with agenda := q } : State).auto m = false ∨ (({ s with agenda := q } : State).ctx m).state = .halted) :
      channelLocked ch m { s with agenda := q } = { s with agenda := q } := by
    unfold channelLocked
    split
    · rename_i yes
      rcases no with no | no
      · rw [no] at yes
        simp at yes
      · rw [no]
    · rfl
  have own := still n (.inr st)
  have other := still n.other (.inl (a.agenda q).not_auto)
  exact forSecs_one (f := channelLocked ch) n other (by rw [own]; exact other) |>.trans own

/-- A section in a transfer does not act on a channel's availability (R117, R134). -/
theorem passes_availability (a : t.Alone n) (st : (t.ctx n).state = .opening ∨ (t.ctx n).state = .overlap) (ch : Chan) :
    t.passes (.availability ch) := by
  have calm : t.Retested n := .of_transfer (st.elim .inl fun h => .inr (.inr (.inl h)))
  exact a.passes calm (.inr (.inr (.inr ⟨ch, rfl⟩)))

/-- The closing of the channel that its own close confirms is no contact change for a section (R88, R118). -/
theorem contact_confirmed (auto : t.mode n = .auto) (st : (t.ctx n).state = .closing) {ch : Chan} (target : t.targetChan n = some ch)
    (op : Option Operation) : handle (.contact n ch .confirmClose op) t = t := by
  show contactSeen n ch .confirmClose op t = t
  rw [contactSeen_closes auto (by rw [st]; decide) (.inl rfl)]
  unfold closeSeen
  rw [if_pos]
  refine ⟨rfl, ?_⟩
  unfold State.closingOn
  rw [st, target]
  simp

/-- Nor is the opening that a trip it waits for confirms (R114, R121). -/
theorem contact_awaited (auto : t.mode n = .auto) {ch : Chan}
    (st : (t.ctx n).state = .opening ∨ (t.ctx n).state = .overlap ∧ t.stayChan n ≠ some ch) (op : Option Operation) :
    handle (.contact n ch .confirmOpen op) t = t := by
  show contactSeen n ch .confirmOpen op t = t
  rw [contactSeen_opens auto (by rcases st with st | ⟨st, -⟩ <;> rw [st] <;> decide) (.inl rfl)]
  unfold openSeen
  dsimp only
  rcases st with st | ⟨st, stay⟩
  · rw [st]
  · rw [st]
    dsimp only
    rw [if_neg (by simp), if_neg (by simp), if_neg stay]

theorem Told.restKept (h : Told row n s base b m l act v) (made : Acted n base c w b' s.owner m' l' t) : s.RestKept n t := by
  obtain ⟨other, owner, hlc, pst, modes⟩ := h.kept
  exact ⟨made.other.trans other, made.owner, made.hlc.trans hlc, made.pst.trans pst, made.modes.trans modes⟩

/-- The section halts at the report (R124). -/
theorem Told.halts (h : Told row n s base b m l act v) (free : s.owner ≠ some n) {cause : HaltCause} {ch : Option Chan}
    (made : Acted n base c w b' s.owner m' l u) (acts : act v = halt n cause ch u)
    (pass : ∀ t : State, t.Alone n → (t.ctx n).state = .halted → ∀ r ∈ l, t.passes r) (few : l.length ≤ 4000) :
    ∃ t, exec row s = .next t ∧ s.RestKept n t ∧ t.HaltedWith n c.state cause ch ∧ t.bcu = b' ∧ t.now = base.now := by
  have halted := made.halt_haltedWith cause ch
  obtain ⟨o', anns, a, retests, owner, stopped⟩ := made.halt cause ch
  rw [owner free] at stopped
  rw [← acts] at stopped halted
  have alone := stopped.alone h.alone
  have st : ((act v).ctx n).state = .halted := by rw [stopped.ctx]; rfl
  have few' := retests.few
  have run := h.rests stopped (fun r mem => by
    rcases List.mem_append.mp mem with mem | mem
    · exact pass _ alone st r mem
    · exact alone.passes (.of_transfer (.inr (.inr (.inr st)))) (retests.each r mem)) (by
    rw [List.length_append]
    omega)
  have cleared := stopped.cleared h.calm
  exact ⟨_, run, h.restKept cleared, halted.later rfl rfl rfl rfl rfl rfl (.of_spt rfl rfl), cleared.bcu, cleared.now⟩

section Rows

variable (alone : s.AutoAlone n) {o : Operation} (op : (s.bcu.get (srcChan y)).op = some o)
include alone op

/-- A close's confirm deadline is told to the section that requested it (R84). -/
theorem closeDeadline_told (close : o.kind = .close) (req : o.requester = .seq n) (moving : (s.bcu.get (srcChan y)).position ≠ .isOpen) :
    ∃ v, Told (.closeConfirmDeadline (srcChan y)) n s (reach o.deadline s)
      (s.bcu.set (srcChan y) ((s.bcu.get (srcChan y)).failed .failToClose)) s.lmg [] (closeFailed (srcChan y) n) v := by
  have failed : Acted n (reach o.deadline s) (s.ctx n) (s.ccu.watches.get n) (s.bcu.set (srcChan y)
      ((s.bcu.get (srcChan y)).failed .failToClose)) s.owner s.lmg
      (availReports (reach o.deadline s) (srcChan y) ((s.bcu.get (srcChan y)).failed .failToClose))
      (modChan (srcChan y) (·.failed .failToClose) (reach o.deadline s)) :=
    (Acted.refl n (reach o.deadline s)).modChan (srcChan y) (·.failed .failToClose)
  rw [availReports_unavailable (s := reach o.deadline s) moving (by simp [ChanRec.failed])] at failed
  have made := ((failed.post (.breakerFault (srcChan y) .failToClose o.requester)).triggerAlarm).report (.closeFailed (srcChan y) o.requester)
  refine ⟨_, Told.of_report ⟨rfl, rfl, rfl, rfl, rfl⟩ made (reach_alone alone.alone _) alone.1.2 ?_ (by rw [req]; rfl)⟩
  rw [exec_event (f := closeDeadline (srcChan y)) rfl alone.1.1]
  unfold closeDeadline releaseTieFor
  rw [op]
  dsimp only
  rw [if_pos close, if_neg (srcChan_ne_bkt y)]
  rfl

/-- A trip that fails at its deadline is told (R85). -/
theorem tripDeadline_told_failed (trip : o.kind = .trip) (shut : s.closed (srcChan y) = true)
    (moving : (s.bcu.get (srcChan y)).position ≠ .isOpen) :
    ∃ v, Told (.tripConfirmDeadline (srcChan y)) n s (reach o.deadline s)
      (s.bcu.set (srcChan y) ((s.bcu.get (srcChan y)).failed .failToOpen)) s.lmg [] (tripFailed (srcChan y) n) v := by
  have failed : Acted n (reach o.deadline s) (s.ctx n) (s.ccu.watches.get n) (s.bcu.set (srcChan y)
      ((s.bcu.get (srcChan y)).failed .failToOpen)) s.owner s.lmg
      (availReports (reach o.deadline s) (srcChan y) ((s.bcu.get (srcChan y)).failed .failToOpen))
      (modChan (srcChan y) (·.failed .failToOpen) (reach o.deadline s)) :=
    (Acted.refl n (reach o.deadline s)).modChan (srcChan y) (·.failed .failToOpen)
  rw [availReports_unavailable (s := reach o.deadline s) moving (by simp [ChanRec.failed])] at failed
  have made := ((failed.post (.breakerFault (srcChan y) .failToOpen o.requester)).triggerAlarm).report (.tripFailed (srcChan y))
  refine ⟨_, Told.of_report ⟨rfl, rfl, rfl, rfl, rfl⟩ made (reach_alone alone.alone _) alone.1.2 ?_
    (tripFailed_seen ((made.alone (reach_alone alone.alone _)).agenda []) _)⟩
  rw [exec_event (f := tripDeadline (srcChan y)) rfl alone.1.1]
  unfold tripDeadline
  rw [op]
  dsimp only
  rw [if_pos trip, if_pos (show (reach o.deadline s).closed (srcChan y) = true from shut)]
  rfl

/-- PRT asserted on a channel with an operation: its end by lockout is told (R90). -/
theorem prtAccept_told (clear : (s.bcu.get (srcChan y)).prot.accepted = false) (free : (s.bcu.get (srcChan y)).position ≠ .locked)
    (moving : (s.bcu.get (srcChan y)).position ≠ .isOpen) :
    ∃ v, Told (.prtAccepted (srcChan y) true) n s s (s.bcu.set (srcChan y) (s.bcu.get (srcChan y)).lockedOut) s.lmg
      [.channelLocked (srcChan y)] (lockoutEnded (srcChan y) n) v := by
  have locked := (Acted.refl n s).modChan (srcChan y) ChanRec.lockedOut
  rw [availReports_unavailable moving (by simp [ChanRec.lockedOut])] at locked
  have made := (((locked.report (.lockoutEnded (srcChan y) o)).report (.channelLocked (srcChan y))).post
    (.lockout (srcChan y) (s.bcu.get (srcChan y)).position (s.bcu.get (srcChan y)).aux.accepted)).triggerAlarm
  refine ⟨_, Told.of_report ⟨rfl, rfl, rfl, rfl, rfl⟩ made alone.alone alone.1.2 ?_ (lockoutEnded_seen ((made.alone alone.alone).agenda _) _ o)⟩
  rw [exec_event (f := prtAccept (srcChan y) true) rfl alone.1.1]
  unfold prtAccept releaseTieFor
  dsimp only
  rw [if_neg (by simp [clear, free]), if_pos alone.2.2.2.1, op]
  dsimp only
  rw [if_neg (srcChan_ne_bkt y), ite_self]

/-- A trip confirmed at its deadline is told (R85). -/
theorem tripDeadline_told_confirmed (trip : o.kind = .trip) (opened : s.closed (srcChan y) = false)
    (st : (s.ctx n).state = .opening ∨ (s.ctx n).state = .overlap) :
    ∃ v, Told (.tripConfirmDeadline (srcChan y)) n s (reach o.deadline s)
      (s.bcu.set (srcChan y) (s.bcu.get (srcChan y)).opened) s.lmg [] (tripConfirmed (srcChan y) n) v := by
  have a := reach_alone alone.alone o.deadline
  have calm : (reach o.deadline s).agenda = [] := alone.1.2
  have moved : Acted n (reach o.deadline s) (s.ctx n) (s.ccu.watches.get n) (s.bcu.set (srcChan y)
      (s.bcu.get (srcChan y)).opened) s.owner s.lmg
      (availReports (reach o.deadline s) (srcChan y) (s.bcu.get (srcChan y)).opened)
      (modChan (srcChan y) ChanRec.opened (reach o.deadline s)) :=
    (Acted.refl n (reach o.deadline s)).modChan (srcChan y) ChanRec.opened
  have made := moved.report (.tripConfirmed (srcChan y))
  have last := made.waiting calm [.tripConfirmed (srcChan y)]
  have asked := last.waiting calm []
  refine ⟨_, asked, a, calm, ⟨rfl, rfl, rfl, rfl, rfl⟩, fun gen => ?_⟩
  have second := Reaches.acts (last.front calm) (tripConfirmed_seen (asked.alone a) (srcChan y)) gen (.refl _)
  have front : (report (.tripConfirmed (srcChan y)) (modChan (srcChan y) ChanRec.opened (reach o.deadline s))).agenda =
      availReports (reach o.deadline s) (srcChan y) (s.bcu.get (srcChan y)).opened ++ [.tripConfirmed (srcChan y)] := by
    rw [made.agenda, calm, List.nil_append]
  obtain ⟨only, short⟩ := availReports_few (reach o.deadline s) (srcChan y) (s.bcu.get (srcChan y)).opened
  have whole := Reaches.passing _ front (made.alone a).gen (fun r mem => by
    rw [only r mem]
    exact passes_availability (made.alone a) (by rw [made.ctx]; exact st) _) second
  rw [exec_event (f := tripDeadline (srcChan y)) rfl alone.1.1]
  unfold tripDeadline
  rw [op]
  dsimp only
  rw [if_pos trip, if_neg (show ¬(reach o.deadline s).closed (srcChan y) = true by
    rw [show (reach o.deadline s).closed (srcChan y) = false from opened]; decide)]
  obtain ⟨k, bound, ends⟩ := whole.settled (made.alone a).gen (by omega)
  exact ⟨k, bound, congrArg _ ends⟩

variable (tie : s.TieOpen) (mine : srcSec y = n)
include tie mine

/-- A close confirmed by AUX is told to the section that requested it (R84, R118). -/
theorem closeConfirm_told (req : o.requester = .seq n) (closing : (s.bcu.get (srcChan y)).position = .closing)
    (opened : (s.bcu.get (srcChan y)).aux.accepted = false) (st : (s.ctx n).state = .closing)
    (target : s.targetChan n = some (srcChan y)) :
    ∃ m v, LoadKept s m ∧ Told (.auxAccepted (srcChan y) true) n s s
      (s.bcu.set (srcChan y) ((s.bcu.get (srcChan y)).auxChanged true s.now)) m []
      (closeConfirmed (srcChan y) n (s.now - o.trigAt)) v := by
  have a := alone.alone
  have calm := alone.1.2
  obtain ⟨m, load, made⟩ := auxAccept_acted (level := true) tie (srcChan_ne_bkt y) (chanOf_srcChan mine) alone.2.2.2.1 opened
  have kind : (s.bcu.get (srcChan y)).contactKind true = .confirmClose := by simp [ChanRec.contactKind, closing]
  have measured : (s.bcu.get (srcChan y)).measured s.now = s.now - o.trigAt := by simp [ChanRec.measured, op]
  have reports : operationReports (srcChan y) .confirmClose (some o) (s.now - o.trigAt) =
      [.closeConfirmed (srcChan y) (.seq n) (s.now - o.trigAt)] := by rw [← req]; rfl
  rw [availReports_unavailable (by rw [closing]; decide) (by rw [(auxChanged_confirmed closing op).1]; decide), kind, op,
    measured, reports, List.nil_append] at made
  have waiting := made.waiting calm [.closeConfirmed (srcChan y) (.seq n) (s.now - o.trigAt)]
  have passes := contact_confirmed (waiting.alone a).auto (by rw [waiting.ctx]; exact st)
    (by unfold State.targetChan at *; rw [waiting.ctx]; exact target) (some o)
  have asked := waiting.waiting calm []
  refine ⟨m, _, load, asked, a, calm, ⟨rfl, rfl, rfl, rfl, rfl⟩, fun gen => ?_⟩
  have second := Reaches.acts (waiting.front calm) (rfl : handle (.closeConfirmed (srcChan y) (.seq n) (s.now - o.trigAt)) _ = _) gen (.refl _)
  rw [exec_event (f := auxAccept (srcChan y) true) rfl alone.1.1]
  obtain ⟨k, bound, ends⟩ := (Reaches.acts (made.front calm) passes (waiting.alone a).gen second).settled (made.alone a).gen
    (by omega)
  exact ⟨k, bound, congrArg _ ends⟩

/-- A trip confirmed by AUX is told to a section that waits for it (R85, R114, R121). -/
theorem tripConfirm_told (opening : (s.bcu.get (srcChan y)).position = .opening) (shut : s.closed (srcChan y) = true)
    (st : (s.ctx n).state = .opening ∨ (s.ctx n).state = .overlap ∧ s.stayChan n ≠ some (srcChan y)) :
    ∃ m v, LoadKept s m ∧ Told (.auxAccepted (srcChan y) false) n s s
      (s.bcu.set (srcChan y) ((s.bcu.get (srcChan y)).auxChanged false s.now)) m [] (tripConfirmed (srcChan y) n) v := by
  have a := alone.alone
  have calm := alone.1.2
  obtain ⟨m, load, made⟩ := auxAccept_acted (level := false) tie (srcChan_ne_bkt y) (chanOf_srcChan mine) alone.2.2.2.1 shut
  have kind : (s.bcu.get (srcChan y)).contactKind false = .confirmOpen := by simp [ChanRec.contactKind, opening]
  rw [kind, op] at made
  have reports : operationReports (srcChan y) .confirmOpen (some o) ((s.bcu.get (srcChan y)).measured s.now) =
      [.tripConfirmed (srcChan y)] := rfl
  rw [reports] at made
  have waiting := made.waiting calm [.contact n (srcChan y) .confirmOpen (some o), .tripConfirmed (srcChan y)]
  have last := made.waiting calm [.tripConfirmed (srcChan y)]
  have passes := contact_awaited (last.alone a).auto (ch := srcChan y) (by
    unfold State.stayChan State.targetChan at *
    rw [last.ctx]
    exact st) (some o)
  have asked := last.waiting calm []
  refine ⟨m, _, load, asked, a, calm, ⟨rfl, rfl, rfl, rfl, rfl⟩, fun gen => ?_⟩
  have third := Reaches.acts (last.front calm) (tripConfirmed_seen (asked.alone a) (srcChan y)) gen (.refl _)
  have second := Reaches.acts (waiting.front calm) passes (last.alone a).gen third
  have front : (auxAccept (srcChan y) false s).agenda = availReports s (srcChan y) ((s.bcu.get (srcChan y)).auxChanged false s.now) ++
      [.contact n (srcChan y) .confirmOpen (some o), .tripConfirmed (srcChan y)] := by
    rw [made.agenda, calm, List.nil_append]
  obtain ⟨only, short⟩ := availReports_few s (srcChan y) ((s.bcu.get (srcChan y)).auxChanged false s.now)
  have whole := Reaches.passing _ front (made.alone a).gen (fun r mem => by
    rw [only r mem]
    exact passes_availability (made.alone a) (by rw [made.ctx]; exact st.imp id And.left) _) second
  rw [exec_event (f := auxAccept (srcChan y) false) rfl alone.1.1]
  obtain ⟨k, bound, ends⟩ := whole.settled (made.alone a).gen (by omega)
  exact ⟨k, bound, congrArg _ ends⟩

end Rows

end Sys2Proof.Machine
end

section
/-! The closed transition of a section in AUTO (R111, R120 to R122, R126). -/

namespace Sys2Proof.Machine

variable {s t u v base : State} {n : Sec} {x y : Src} {e : SecEntry} {f g : Entry} {c c' : SecCtx} {w w' : Option Watch}
  {b b' : ByChan ChanRec} {o o' : Option Sec} {m m' : LmgState} {l l' : List Report} {r : Report} {k k' : Nat}

/-! ### The acts of the end of a transfer -/

theorem feedChan_own (own : ownSource n f = some x) : feedChan n (some f) = some (srcChan x) :=
  congrArg some (entryChan_of_own own)

theorem islandFed_load (n : Sec) (s : State) : LoadOnly s (islandFed n s) := rfl

theorem islandFed_notes (n : Sec) (s : State) : NotesGrow s (islandFed n s) := .of_spt rfl rfl

/-- An island that has been fed restores its feeders from the step on (R155). -/
theorem islandFed_restores (n : Sec) (s : State) {i : IslandRec}
    (island : (islandFed n s).island ((islandFed n s).islandIdOf n) = some i) (fed : i.cond = .fed) :
    i.restoreAt = some (s.now + s.stepMs) := by
  have due : (clearAnn n s).now + (clearAnn n s).stepMs = s.now + s.stepMs := rfl
  have steps (q : IslandRec)
      (is : (if q.cond = .fed then { q with restoreAt := some ((clearAnn n s).now + (clearAnn n s).stepMs) } else q) = i) :
      i.restoreAt = some (s.now + s.stepMs) := by
    rw [due] at is
    subst is
    split at fed
    · rename_i yes
      rw [if_pos yes]
    · contradiction
  unfold islandFed modIsland State.island State.islandIdOf at island
  dsimp only at island
  have islands : (clearAnn n s).lmg.islands = s.lmg.islands := rfl
  rw [islands] at island
  cases h : s.lmg.islands with
  | notFormed => cases n <;> simp [h] at island
  | apart p q =>
    cases n <;> rw [h] at island
    · exact steps p (Option.some.inj island)
    · exact steps q (Option.some.inj island)
  | joined j =>
    cases n <;> rw [h] at island <;> exact steps j (Option.some.inj island)

namespace Acted

/-- A transfer is done (R126, R155). -/
theorem transferDone (h : Acted n s c w b o m l t) (given : (if e.sec = n then e.entry else .tie) = f) (from_ : c.state ≠ .fed)
    (dead k : Nat) (cause : StartCause) :
    ∃ m', m'.anns.get n = none ∧ m'.feeders = m.feeders ∧ Acted n s (SecCtx.into { c with feed := some f } .fed) none b o m'
      (l ++ (if c.feed = some f then [] else [.seqFeed n]) ++ [.seqState n, .fedEntry n cause])
      (transferDone n e dead k cause t) ∧
    (transferDone n e dead k cause t).Noted
      (.transferDone n c.origin (some e) c.method dead c.closeRec.angleSlip (some k)) ∧
    ∀ i, (transferDone n e dead k cause t).island ((transferDone n e dead k cause t).islandIdOf n) = some i → i.cond = .fed →
      i.restoreAt = some (s.now + s.stepMs) := by
  have fed := (h.setFeed (some f)).enterFed cause from_
  have posted := fed.post (.transferDone n c.origin (some e) c.method dead c.closeRec.angleSlip (some k))
  have noted := noted_post (.transferDone n c.origin (some e) c.method dead c.closeRec.angleSlip (some k))
    (Machine.enterFed n cause (Machine.setFeed n (some f) t))
  have plain : Machine.transferDone n e dead k cause t = islandFed n (Machine.post
      (.transferDone n c.origin (some e) c.method dead c.closeRec.angleSlip (some k))
      (Machine.enterFed n cause (Machine.setFeed n (some f) t))) := by
    unfold Machine.transferDone
    dsimp only
    rw [given, h.ctx]
  rw [plain]
  generalize Machine.post _ _ = q at posted noted ⊢
  have told := posted.load (islandFed_load n q) (islandFed_notes n q)
  have feeders : (islandFed n q).lmg.feeders = q.lmg.feeders := rfl
  rw [posted.lmg] at feeders
  refine ⟨_, BySec.get_set_self _ _ _, feeders, told, (islandFed_notes n q).noted noted, fun i is fed => ?_⟩
  rw [islandFed_restores n q is fed]
  unfold State.stepMs
  rw [posted.now, posted.plan]

/-- The overlap begins: its outgoing incomer, a closed one, is tripped (R120). -/
theorem enterOverlap (h : Acted n s c w b o m l t) (own : ownSource n f = some x) (free : s.blocked = false)
    (closed : (b.get (srcChan x)).position = .isClosed) (from_ : c.state = .closing) :
    Acted n s (SecCtx.into { c with outgoing := some f, tOverlap := some (s.now + s.plan.sec n .tOverlap) } .overlap) none
      (b.set (srcChan x) ((b.get (srcChan x)).trip (.seq n) s.now (s.plan.chan (srcChan x) .tripWidth)
        (s.plan.chan (srcChan x) .tripConfirm))) o m (l ++ [.seqState n]) (enterOverlap n (some f) t) := by
  have made := ((h.startTrip (srcChan x) (.seq n) (by rw [closed]; decide) (by rw [closed]; decide)).modSeq
    fun c => { c with outgoing := some f, tOverlap := some (t.now + t.plan.sec n .tOverlap) }).enter_moving
      (st := .overlap) rfl (by rw [from_]; decide)
  rw [h.now, h.plan] at made
  unfold Machine.enterOverlap
  rw [feedChan_own own]
  dsimp only
  rw [tripTrigger_free _ _ (h.blocked.trans free), h.now, h.plan]
  exact made

/-- A section that rests in FED again (R107, R108). -/
theorem passes_enterFed (h : Acted n s (SecCtx.into c .fed) w b o m l t) (a : s.Alone n) (no : s.plan.sec n .autoReturn = 0)
    (up : ∀ z, c.feed.bind (ownSource n) = some z → s.srcState z ≠ .down) (cause : StartCause) :
    ∀ r ∈ [Report.seqFeed n, .seqState n, .fedEntry n cause], t.passes r := by
  have alone := h.alone a
  simp only [List.mem_cons, List.not_mem_nil, or_false]
  rintro r (rfl | rfl | rfl)
  · exact alone.passes_seqFeed
  · exact alone.passes_seqState
  · refine passes_fedEntry (fun z is => ?_) (returnDue_of_auto (by rw [h.plan]; exact no)) cause
    rw [h.ctx] at is
    rw [h.srcState]
    exact up z is

end Acted

/-! ### The close of the transition (R111, R120) -/

/-- A channel's trip has just begun. -/
def State.Tripping (t : State) (n : Sec) (ch : Chan) (it : Items) : Prop :=
  (t.bcu.get ch).position = .opening ∧ (t.bcu.get ch).cmdClosed = false ∧
  (t.bcu.get ch).tripEnd = some (t.now + it.chan ch .tripWidth) ∧
  (t.bcu.get ch).op = some ⟨.trip, .seq n, t.now, t.now + it.chan ch .tripConfirm, false⟩

theorem tripping_of {it : Items} {q : ChanRec} {ch : Chan} (bcu : t.bcu.get ch = q.trip (.seq n) t.now (it.chan ch .tripWidth)
    (it.chan ch .tripConfirm)) (closed : q.position = .isClosed) : t.Tripping n ch it := by
  unfold State.Tripping
  rw [bcu, trip_eq, closed]
  exact ⟨rfl, rfl, rfl, rfl⟩

/-- A section in a closed transition from one of its own entries to the other. -/
structure ClosedMove (s : State) (n : Sec) (e : SecEntry) (f : Entry) (y z : Src) : Prop where
  alone  : s.AutoAlone n
  tie    : s.TieOpen
  target : (s.ctx n).target = some e
  mine   : e.sec = n
  new    : ownSource n e.entry = some y
  feed   : (s.ctx n).feed = some f
  old    : ownSource n f = some z
  closed : (s.ctx n).closedTrans = true
  free   : s.blocked = false
  rests  : s.plan.sec n .autoReturn = 0
  upOld  : s.srcState z ≠ .down
  upNew  : s.srcState y ≠ .down
  ne     : f ≠ e.entry

namespace ClosedMove

variable {z : Src} (h : ClosedMove s n e f y z)
include h

theorem newChan : entryChan e = srcChan y := by
  obtain ⟨q, g⟩ := e
  obtain rfl : q = n := h.mine
  exact entryChan_of_own h.new

theorem oldChan : entryChan ⟨n, f⟩ = srcChan z := entryChan_of_own h.old

theorem chans : srcChan z ≠ srcChan y := fun same => h.ne (own_inj h.new (srcChan_inj same ▸ h.old))

theorem targetChan : s.targetChan n = some (srcChan y) := by
  unfold State.targetChan
  rw [h.target]
  exact congrArg some h.newChan

theorem upFeed (is : (some f).bind (ownSource n) = some x) : s.srcState x ≠ .down := by
  obtain rfl : z = x := Option.some.inj (h.old.symm.trans is)
  exact h.upOld

theorem upTarget (is : (some e.entry).bind (ownSource n) = some x) : s.srcState x ≠ .down := by
  obtain rfl : y = x := Option.some.inj (h.new.symm.trans is)
  exact h.upNew

section Close

variable {p : Operation} (st : (s.ctx n).state = .closing) (closing : (s.bcu.get (srcChan y)).position = .closing)
  (op : (s.bcu.get (srcChan y)).op = some p) (req : p.requester = .seq n)
include st closing op req

/-- The close is confirmed: the overlap begins, in which the old incomer is tripped, or the target whose close was stopped. -/
theorem overlaps (opened : (s.bcu.get (srcChan y)).aux.accepted = false) (shut : (s.bcu.get (srcChan z)).position = .isClosed) :
    ∃ t, exec (.auxAccepted (srcChan y) true) s = .next t ∧ s.RestKept n t ∧ (t.ctx n).state = .overlap ∧
      (t.ctx n).target = some e ∧ (t.ctx n).feed = some f ∧ (t.ctx n).tOverlap = some (s.now + s.plan.sec n .tOverlap) ∧
      (t.ctx n).outgoing = (if (s.ctx n).closeStop then some e.entry else some f) ∧
      t.Tripping n (if (s.ctx n).closeStop then srcChan y else srcChan z) s.plan ∧
      (t.bcu.get (srcChan y)).aux.accepted = true ∧
      ((s.ctx n).closeStop = false → (t.bcu.get (srcChan y)).position = .isClosed) := by
  obtain ⟨m, v, load, told⟩ := closeConfirm_told h.alone op h.tie (srcSec_of_own h.new) req closing opened st h.targetChan
  have confirmed := auxChanged_confirmed (now := s.now) closing op
  have aux := (auxChanged_rest (s.bcu.get (srcChan y)) true s.now).1
  have acts : closeConfirmed (srcChan y) n (s.now - p.trigAt) v =
      enterOverlap n (if (s.ctx n).closeStop then some e.entry else some f) v := by
    unfold closeConfirmed State.closingOn State.targetChan State.auto
    rw [(told.acted.alone told.alone).auto, told.acted.ctx, st, h.target, if_pos (by simp [h.newChan])]
    dsimp only
    rw [if_pos h.closed, h.feed]
  cases stop : (s.ctx n).closeStop with
  | true =>
    have made := told.acted.enterOverlap h.new h.free (by rw [ByChan.get_set_self]; exact confirmed.1) st
    rw [stop, if_pos rfl] at acts
    rw [← acts] at made
    have run := told.rests made (by
      rintro r mem
      obtain rfl := List.mem_singleton.mp mem
      exact (made.alone told.alone).passes_seqState) (by simp)
    have cleared := made.cleared told.calm
    refine ⟨_, run, told.restKept cleared, ?_⟩
    rw [cleared.ctx]
    refine ⟨rfl, h.target, h.feed, rfl, rfl, tripping_of (q := (s.bcu.get (srcChan y)).auxChanged true s.now) ?_ confirmed.1, ?_, nofun⟩
    · rw [cleared.bcu, cleared.now, if_pos rfl, ByChan.get_set_self, ByChan.get_set_self]
    · rw [cleared.bcu, ByChan.get_set_self, ByChan.get_set_self, trip_eq]
      exact congrArg InputPin.accepted aux
  | false =>
    have apart := ByChan.get_set_other s.bcu ((s.bcu.get (srcChan y)).auxChanged true s.now) h.chans.symm
    have made := told.acted.enterOverlap h.old h.free (by rw [apart]; exact shut) st
    rw [stop, if_neg (by decide)] at acts
    rw [← acts] at made
    have run := told.rests made (by
      rintro r mem
      obtain rfl := List.mem_singleton.mp mem
      exact (made.alone told.alone).passes_seqState) (by simp)
    have cleared := made.cleared told.calm
    have same : ({ closeConfirmed (srcChan y) n (s.now - p.trigAt) v with agenda := [] } : State).bcu.get (srcChan y) =
        (s.bcu.get (srcChan y)).auxChanged true s.now := by
      rw [cleared.bcu, ByChan.get_set_other _ _ h.chans, ByChan.get_set_self]
    refine ⟨_, run, told.restKept cleared, ?_⟩
    rw [cleared.ctx, same]
    refine ⟨rfl, h.target, h.feed, rfl, rfl, tripping_of (q := s.bcu.get (srcChan z)) ?_ shut, congrArg InputPin.accepted aux,
      fun _ => confirmed.1⟩
    rw [cleared.bcu, cleared.now, if_neg (by decide), ByChan.get_set_self, apart]

/-- The close fails: the old incomer feeds the section still. -/
theorem closeFails (close : p.kind = .close) :
    ∃ t, exec (.closeConfirmDeadline (srcChan y)) s = .next t ∧ s.RestKept n t ∧ t.FedOn n (some f) ∧
      (t.bcu.get (srcChan y)).position = .faulted ∧
      t.Noted (.closeFail n (srcChan y) (if (s.ctx n).closeStop then .targetDown else .failToClose)) := by
  obtain ⟨v, told⟩ := closeDeadline_told h.alone op close req (by rw [closing]; decide)
  have acts : closeFailed (srcChan y) n v = enterFed n .loss (post (.closeFail n (srcChan y)
      (if (s.ctx n).closeStop then .targetDown else .failToClose)) v) := by
    unfold closeFailed State.closingOn State.targetChan State.auto
    rw [(told.acted.alone told.alone).auto, told.acted.ctx, st, h.target, if_pos (by simp [h.newChan])]
    dsimp only
    rw [if_pos h.closed]
  have made := (told.acted.post (.closeFail n (srcChan y) (if (s.ctx n).closeStop then .targetDown else .failToClose))).enterFed
    .loss (by rw [st]; decide)
  rw [← acts] at made
  have pass := made.passes_enterFed told.alone h.rests (fun x is => h.upFeed (h.feed ▸ is)) .loss
  have run := told.rests made (fun r mem => pass r (List.mem_cons_of_mem _ mem)) (by simp)
  have cleared := made.cleared told.calm
  refine ⟨_, run, told.restKept cleared, h.feed ▸ cleared.fedOn, ?_, ?_⟩
  · rw [cleared.bcu, ByChan.get_set_self]
    rfl
  · have noted := noted_post (.closeFail n (srcChan y) (if (s.ctx n).closeStop then .targetDown else .failToClose)) v
    rw [acts]
    exact (enterFed_moves n .loss .refl).notesGrow.noted noted

end Close

/-! ### The overlap (R121, R122) -/

theorem outIsTarget {out : Entry} (is : (s.ctx n).outgoing = some out) : (s.ctx n).outIsTarget = (e.entry == out) := by
  unfold SecCtx.outIsTarget
  rw [is, h.target]
  rfl

section OutOld

variable {p : Operation} (st : (s.ctx n).state = .overlap) (out : (s.ctx n).outgoing = some f)
  (opening : (s.bcu.get (srcChan z)).position = .opening) (op : (s.bcu.get (srcChan z)).op = some p)
  (shut : s.closed (srcChan z) = true)
include st out opening op shut

/-- The old incomer is open: the transfer is done, with no dead time. -/
theorem overlapEnds : ∃ t, exec (.auxAccepted (srcChan z) false) s = .next t ∧ s.RestKept n t ∧ t.FedOn n (some e.entry) ∧
    t.Noted (.transferDone n (s.ctx n).origin (some e) (s.ctx n).method 0 (s.ctx n).closeRec.angleSlip
      (some ((s.bcu.get (srcChan y)).lastM.getD 0))) := by
  have other : (s.ctx n).outIsTarget = false := by
    rw [h.outIsTarget out]
    exact beq_eq_false_iff_ne.mpr (Ne.symm h.ne)
  have stay : s.stayChan n ≠ some (srcChan z) := by
    unfold State.stayChan
    rw [other, if_neg (by decide), h.targetChan]
    exact fun same => h.chans (Option.some.inj same).symm
  obtain ⟨m, v, load, told⟩ := tripConfirm_told h.alone op h.tie (srcSec_of_own h.old) opening shut (.inr ⟨st, stay⟩)
  have acts : tripConfirmed (srcChan z) n v = transferDone n e 0 ((s.bcu.get (srcChan y)).lastM.getD 0) .loss v := by
    unfold tripConfirmed State.auto
    rw [(told.acted.alone told.alone).auto, told.acted.ctx, st, if_pos (by decide)]
    dsimp only
    unfold State.outChan overlapEnd
    rw [told.acted.ctx, out, if_pos (feedChan_own h.old), h.target]
    dsimp only
    rw [if_neg (by simp [other]), h.newChan, told.acted.bcu, ByChan.get_set_other _ _ h.chans]
  obtain ⟨m', ann, -, made, noted, -⟩ := told.acted.transferDone (if_pos h.mine) (by rw [st]; decide) 0 ((s.bcu.get (srcChan y)).lastM.getD 0) .loss
  rw [← acts] at made noted
  have pass := made.passes_enterFed told.alone h.rests (fun x is => h.upTarget is) .loss
  have run := told.rests made (fun r mem => pass r (by
    rcases List.mem_append.mp mem with mem | mem
    · split at mem
      · cases mem
      · exact List.mem_cons.mpr (.inl (List.mem_singleton.mp mem))
    · exact List.mem_cons_of_mem _ mem)) (by
      rw [List.length_append, List.nil_append]
      split <;> simp)
  have cleared := made.cleared told.calm
  exact ⟨_, run, told.restKept cleared, cleared.fedOn_of ann, noted⟩

/-- The old incomer does not open: the section halts, and the target is tripped. -/
theorem overlapFails (trip : p.kind = .trip) (shutNew : (s.bcu.get (srcChan y)).position = .isClosed) :
    ∃ t, exec (.tripConfirmDeadline (srcChan z)) s = .next t ∧ s.RestKept n t ∧
      t.HaltedWith n .overlap .failToOpen (some (srcChan z)) ∧ (t.bcu.get (srcChan z)).position = .faulted ∧
      t.Tripping n (srcChan y) s.plan := by
  have other : (s.ctx n).outIsTarget = false := by
    rw [h.outIsTarget out]
    exact beq_eq_false_iff_ne.mpr (Ne.symm h.ne)
  obtain ⟨v, told⟩ := tripDeadline_told_failed h.alone op trip shut (by rw [opening]; decide)
  have apart := ByChan.get_set_other s.bcu ((s.bcu.get (srcChan z)).failed .failToOpen) h.chans
  have made := told.acted.startTrip (srcChan y) (.seq n) (by rw [apart, shutNew]; decide) (by rw [apart, shutNew]; decide)
  have acts : tripFailed (srcChan z) n v = halt n .failToOpen (some (srcChan z)) (startTrip (srcChan y) (.seq n) v) := by
    unfold tripFailed State.auto
    rw [(told.acted.alone told.alone).auto, told.acted.ctx, st, if_pos (by decide)]
    dsimp only
    unfold State.outChan overlapFail State.targetChan
    rw [told.acted.ctx, out, if_pos (feedChan_own h.old), if_neg (by simp [other]), h.target]
    dsimp only [Option.map_some]
    rw [h.newChan, tripTrigger_free _ _ (told.acted.blocked.trans h.free)]
  obtain ⟨t, run, kept, halted, bcu, now⟩ := told.halts (by simp [h.tie.2.1]) made acts (fun _ _ _ => List.forall_mem_nil _) (by simp)
  rw [st] at halted
  refine ⟨t, run, kept, halted, ?_, tripping_of (q := s.bcu.get (srcChan y)) ?_ shutNew⟩
  · rw [bcu, ByChan.get_set_other _ _ h.chans.symm, ByChan.get_set_self]
    rfl
  · rw [bcu, ByChan.get_set_self, now, apart]
    rfl

end OutOld

section OutNew

variable {p : Operation} (st : (s.ctx n).state = .overlap) (out : (s.ctx n).outgoing = some e.entry)
  (opening : (s.bcu.get (srcChan y)).position = .opening) (op : (s.bcu.get (srcChan y)).op = some p)
  (shut : s.closed (srcChan y) = true)
include st out opening op shut

/-- The target is open, whose close was stopped: the old incomer feeds the section still. -/
theorem overlapReturns : ∃ t, exec (.auxAccepted (srcChan y) false) s = .next t ∧ s.RestKept n t ∧ t.FedOn n (some f) ∧
    t.Noted (.closeFail n (srcChan y) .targetDown) := by
  have same : (s.ctx n).outIsTarget = true := by
    rw [h.outIsTarget out]
    exact beq_self_eq_true _
  have stay : s.stayChan n ≠ some (srcChan y) := by
    unfold State.stayChan
    rw [same, if_pos rfl, h.feed, feedChan_own h.old]
    exact fun eq => h.chans (Option.some.inj eq)
  obtain ⟨m, v, load, told⟩ := tripConfirm_told h.alone op h.tie (srcSec_of_own h.new) opening shut (.inr ⟨st, stay⟩)
  have acts : tripConfirmed (srcChan y) n v = enterFed n .loss (post (.closeFail n (srcChan y) .targetDown) v) := by
    unfold tripConfirmed State.auto
    rw [(told.acted.alone told.alone).auto, told.acted.ctx, st, if_pos (by decide)]
    dsimp only
    unfold State.outChan overlapEnd
    rw [told.acted.ctx, out, if_pos (feedChan_own h.new), h.target]
    dsimp only
    rw [if_pos same, if_neg (by rw [h.tie.2.2 n]; simp), h.newChan]
  have made := (told.acted.post (.closeFail n (srcChan y) .targetDown)).enterFed .loss (by rw [st]; decide)
  rw [← acts] at made
  have pass := made.passes_enterFed told.alone h.rests (fun x is => h.upFeed (h.feed ▸ is)) .loss
  have run := told.rests made (fun r mem => pass r (List.mem_cons_of_mem _ mem)) (by simp)
  have cleared := made.cleared told.calm
  refine ⟨_, run, told.restKept cleared, h.feed ▸ cleared.fedOn, ?_⟩
  have noted := noted_post (.closeFail n (srcChan y) .targetDown) v
  rw [acts]
  exact (enterFed_moves n .loss .refl).notesGrow.noted noted

/-- The target does not open: the section halts. -/
theorem overlapFails_new (trip : p.kind = .trip) :
    ∃ t, exec (.tripConfirmDeadline (srcChan y)) s = .next t ∧ s.RestKept n t ∧
      t.HaltedWith n .overlap .failToOpen (some (srcChan y)) ∧ (t.bcu.get (srcChan y)).position = .faulted := by
  have same : (s.ctx n).outIsTarget = true := by
    rw [h.outIsTarget out]
    exact beq_self_eq_true _
  obtain ⟨v, told⟩ := tripDeadline_told_failed h.alone op trip shut (by rw [opening]; decide)
  have acts : tripFailed (srcChan y) n v = halt n .failToOpen (some (srcChan y)) v := by
    unfold tripFailed State.auto
    rw [(told.acted.alone told.alone).auto, told.acted.ctx, st, if_pos (by decide)]
    dsimp only
    unfold State.outChan overlapFail
    rw [told.acted.ctx, out, if_pos (feedChan_own h.new), if_pos same]
  obtain ⟨t, run, kept, halted, bcu, now⟩ := told.halts (by simp [h.tie.2.1]) told.acted acts (fun _ _ _ => List.forall_mem_nil _) (by simp)
  rw [st] at halted
  refine ⟨t, run, kept, halted, ?_⟩
  rw [bcu, ByChan.get_set_self]
  rfl

end OutNew

end ClosedMove

end Sys2Proof.Machine
end

section
/-! A head that is LOST under the one section in AUTO (R30, R53, R65), and the closed transition's rows. -/

namespace Sys2Proof.Machine

variable {s t u v base : State} {n : Sec} {x y : Src} {e : SecEntry} {f g : Entry} {c c' : SecCtx} {w w' : Option Watch}
  {b b' : ByChan ChanRec} {o o' : Option Sec} {m m' : LmgState} {l l' : List Report} {r : Report} {k k' : Nat}

/-! ### The computations for watches -/

theorem computeWatch_none {p : Point} {nd : Word} (idle : s.ccu.watches.get n = none) : computeWatch p nd n s = s := by
  unfold computeWatch
  rw [idle]

/-- A computation for a section in MANUAL is kept, and nothing acts on it (R65, R72). -/
theorem computeWatch_off {p : Point} {nd : Word} (manual : s.auto n = false) :
    ∃ q, computeWatch p nd n s = { s with ccu := q } ∧ q.watches = s.ccu.watches := by
  unfold computeWatch
  split
  · split
    · rename_i w _ _
      have off (t : State) (no : t.auto n = false) (q : PairResult) : handResult n q t = t := by
        unfold handResult
        rw [no]
        rfl
      dsimp only
      cases e : w.pair with
      | incomer x => exact ⟨_, off (keep (.incomer x) _ s) manual _, rfl⟩
      | tieTo b => exact ⟨_, off (keep (.tieTo b) _ s) manual _, rfl⟩
    · exact ⟨s.ccu, rfl, rfl⟩
  · exact ⟨s.ccu, rfl, rfl⟩

theorem ccuPoint_idle {p : Point} {nd : Word} (a : s.Alone n) (idle : s.ccu.watches.get n = none) :
    ∃ q, handle (.ccuPoint p nd) s = { s with ccu := q } ∧ q.watches = s.ccu.watches := by
  obtain ⟨q, made, watches⟩ := computeWatch_off (p := p) (nd := nd) a.not_auto
  refine ⟨q, ?_, watches⟩
  show forSecs (computeWatch p nd) s = _
  unfold forSecs
  cases n with
  | sec1 =>
    rw [computeWatch_none idle]
    exact made
  | sec2 =>
    rw [show computeWatch p nd .sec1 s = _ from made]
    exact computeWatch_none (by rw [show ({ s with ccu := q } : State).ccu.watches = _ from watches]; exact idle)

theorem Acted.kept_result (h : Acted n s c none b o m l t) {q : CcuState} (idle : q.watches.get n = none) :
    Acted n { s with ccu := q } c none b o m l { t with ccu := q } := by
  obtain ⟨port, alarm, free, e⟩ := h.frame
  refine ⟨⟨port, alarm, free, ?_⟩, h.service, h.notes⟩
  have same : q.watches.set n none = q.watches := by rw [← idle, BySec.set_get]
  rw [e]
  simp only [same]

/-! ### A source whose head is LOST -/

/-- The state as it stands when the section is told that a source is UNKNOWN (R53). -/
structure SourceGone (n : Sec) (x : Src) (s t : State) : Prop where
  seqs  : t.seqs = s.seqs
  watch : t.ccu.watches = s.ccu.watches
  bcu   : t.bcu = s.bcu
  owner : t.owner = s.owner
  lmg   : t.lmg = s.lmg
  mdc   : t.mdc = s.mdc
  pst   : t.pst = s.pst
  gone  : t.srcState x = .unknown
  src   : ∀ z, z ≠ x → t.srcState z = s.srcState z

namespace SourceGone

variable (h : SourceGone n x s t)
include h

theorem plan : t.plan = s.plan := by unfold State.plan; rw [h.pst]

theorem ctx (q : Sec) : t.ctx q = s.ctx q := by unfold State.ctx; rw [h.seqs]

theorem alone (a : s.Alone n) : t.Alone n where
  auto := by unfold State.mode; rw [h.mdc]; exact a.auto
  other := by unfold State.mode; rw [h.mdc]; exact a.other
  gen z := by rw [h.plan]; exact a.gen z
  pending := by rw [h.pst]; exact a.pending

theorem up {z : Src} (up : s.srcState z ≠ .down) : t.srcState z ≠ .down := by
  by_cases same : z = x
  · rw [same, h.gone]
    decide
  · rw [h.src z same]
    exact up

end SourceGone

/-- A section that is told of a source's loss goes back to FED, and its tests there find nothing (R107, R108, R110, R111). -/
theorem headLost_feds (alone : s.AutoAlone n) (valid : s.pointValid (.src x) = true) (healthy : s.srcState x = .healthy)
    (away : (s.ctx n).state ≠ .fed) (acts : ∀ t, SourceGone n x s t → seqSource n x .unknown t = enterFed n .loss t)
    (up : ∀ z, (s.ctx n).feed.bind (ownSource n) = some z → s.srcState z ≠ .down)
    (due : ∀ t : State, t.plan = s.plan → t.srcState x = .unknown → t.returnDue n = false) :
    ∃ t, exec (.headLost (.src x)) s = .next t ∧ t.FedOn n (s.ctx n).feed ∧ t.ctx n.other = s.ctx n.other ∧ t.bcu = s.bcu := by
  have calm := alone.1.2
  unfold State.pointValid PointRec.valid at valid
  simp only [Bool.and_eq_true, beq_iff_eq] at valid
  obtain ⟨⟨bound, present⟩, fresh⟩ := valid
  obtain ⟨h, bound⟩ := Option.isSome_iff_exists.mp bound
  obtain ⟨v, hv⟩ : ∃ v, v = post (.headLost (.src x) h) (modPoint (.src x) (fun r => { r with status := .lost, loss := 32 }) s) :=
    ⟨_, rfl⟩
  have frame : v = { modPoint (.src x) (fun r => { r with status := .lost, loss := 32 }) s with spt := v.spt } := by
    rw [hv]
    exact post_eq _ _
  have row : headLost (.src x) s = report (.pointInvalid (.src x) s.lastFrame) v := by
    rw [headLost_of bound present, ← hv]
    unfold reportInvalid State.pointValid PointRec.valid
    rw [if_pos]
    rw [frame]
    simp [bound, present, fresh, modPoint]
  obtain ⟨g, hg⟩ : ∃ g : State, g = { v with squ := { v.squ with srcs := v.squ.srcs.set x ⟨.unknown, .meas, none, v.now⟩ } } :=
    ⟨_, rfl⟩
  have gone : ∀ q, SourceGone n x s { g with agenda := q } := by
    intro q
    rw [hg, frame]
    refine ⟨rfl, rfl, rfl, rfl, rfl, rfl, rfl, congrArg QualRec.state (BySrc.get_set_self _ _ _), fun z ne => ?_⟩
    exact congrArg QualRec.state (BySrc.get_set_other _ _ (Ne.symm ne))
  have calmG : g.agenda = [] := by rw [hg, frame]; exact calm
  have a : g.Alone n := (gone g.agenda).alone alone.alone
  have invalid : handle (.pointInvalid (.src x) s.lastFrame) { report (.pointInvalid (.src x) s.lastFrame) v with agenda := [] } =
      { g with agenda := [.srcChanged x .healthy .unknown .meas, .ccuPoint (.src x) s.lastFrame] } := by
    have known : v.srcState x = .healthy := by rw [frame]; exact healthy
    have squ : squInvalid (.src x) { v with agenda := [] } = changeSrc x .unknown .meas none { v with agenda := [] } :=
      if_neg (by rw [show ({ v with agenda := [] } : State).srcState x = .healthy from known]; decide)
    show report _ (squInvalid (.src x) { v with agenda := [] }) = _
    rw [squ, hg]
    unfold changeSrc
    rw [show ({ v with agenda := [] } : State).srcState x = .healthy from known]
    rfl
  have told : handle (.srcChanged x .healthy .unknown .meas) { g with agenda := [.ccuPoint (.src x) s.lastFrame] } =
      enterFed n .loss { g with agenda := [.ccuPoint (.src x) s.lastFrame] } := by
    show srcReported x .unknown _ = _
    rw [srcReported_one (a.agenda _) (by decide), acts _ (gone _)]
  have entered := ((Acted.refl n g).waiting calmG [.ccuPoint (.src x) s.lastFrame]).enterFed .loss
    (by rw [(gone g.agenda).ctx]; exact away)
  have waiting := entered.waiting calmG [.seqState n, .fedEntry n .loss]
  obtain ⟨q, computed, watches⟩ := ccuPoint_idle (p := .src x) (nd := s.lastFrame) (waiting.alone a) waiting.watch
  have made := waiting.kept_result (q := q) (by rw [watches]; exact waiting.watch)
  have alone' : ({ g with ccu := q } : State).Alone n := ⟨a.auto, a.other, a.gen, a.pending⟩
  have finals := made.alone alone'
  have last := made.takes_all alone' calmG (by
    simp only [List.mem_cons, List.not_mem_nil, or_false]
    rintro r (rfl | rfl)
    · exact finals.passes_seqState
    · refine passes_fedEntry (fun z is => ?_) (due _ ?_ ?_) .loss
      · rw [made.ctx] at is
        rw [made.srcState]
        refine (gone g.agenda).up (up z ?_)
        rw [← (gone g.agenda).ctx]
        exact is
      · rw [made.plan]
        exact (gone g.agenda).plan
      · rw [made.srcState]
        exact (gone g.agenda).gone)
  have third := Takes.acts (entered.front calmG) computed finals.gen last
  have second := Takes.acts (s := { g with agenda := [.srcChanged x .healthy .unknown .meas, .ccuPoint (.src x) s.lastFrame] })
    rfl told (entered.alone a).gen third
  have front : (report (.pointInvalid (.src x) s.lastFrame) v).agenda = [.pointInvalid (.src x) s.lastFrame] := by
    rw [report_agenda, frame]
    exact congrArg (· ++ _) calm
  have first := Takes.acts front invalid a.gen second
  have gen : (report (.pointInvalid (.src x) s.lastFrame) v).NoGenerator := by
    rw [frame]
    exact alone.alone.gen
  have cleared := made.cleared calmG
  refine ⟨_, ?_, ?_, cleared.other.trans ((gone g.agenda).ctx _), cleared.bcu.trans (gone g.agenda).bcu⟩
  · rw [exec_event (f := headLost (.src x)) rfl alone.1.1, row]
    exact congrArg _ (first.settled gen (by simp))
  · rw [← (gone g.agenda).ctx n]
    exact cleared.fedOn

/-! ### SYNC -/

/-- The target's source leaves HEALTHY in SYNC: the section is FED again (R111). -/
theorem ClosedMove.withdraws {z : Src} (h : ClosedMove s n e f y z) (st : (s.ctx n).state = .sync)
    (valid : s.pointValid (.src y) = true) (healthy : s.srcState y = .healthy) :
    ∃ t, exec (.headLost (.src y)) s = .next t ∧ t.FedOn n (some f) ∧ t.ctx n.other = s.ctx n.other ∧ t.bcu = s.bcu := by
  have run := headLost_feds h.alone valid healthy (by rw [st]; decide) (fun t gone => ?_)
    (fun x is => h.upFeed (h.feed ▸ is)) (fun t plan _ => returnDue_of_auto (by rw [plan]; exact h.rests))
  · rwa [h.feed] at run
  · have target : t.targetSource n = some y := by
      unfold State.targetSource
      rw [gone.ctx, h.target]
      obtain ⟨q, g⟩ := e
      obtain rfl : q = n := h.mine
      exact entrySource_of_own h.new
    unfold seqSource State.auto
    rw [(gone.alone h.alone.alone).auto, if_pos (by decide)]
    dsimp only
    rw [gone.ctx, st]
    dsimp only
    rw [if_neg (by simp), if_pos ⟨target, by decide⟩]
    rfl

theorem ownSource_some (n : Sec) (own : f ≠ .tie) : ∃ z, ownSource n f = some z := by
  cases n <;> cases f <;> simp_all [ownSource]

/-- Settles O47. -/
theorem closedTransferRuns : Obligations.ClosedTransferRuns := by
  unfold Obligations.ClosedTransferRuns
  intro s n e f y o alone tie
  dsimp only
  intro target mine new feed own ne closed free rests up
  obtain ⟨z, old⟩ := ownSource_some n own
  have h : ClosedMove s n e f y z := ⟨alone, tie, target, mine, new, feed, old, closed, free, rests, up z (.inl old), up y (.inr rfl), ne⟩
  have newChan := h.newChan
  have oldChan := h.oldChan
  rw [newChan, oldChan]
  refine ⟨fun st closing op close req opened shut => ⟨?_, ?_⟩, fun out st is which opening op trip shut => ?_, fun st valid healthy => ?_⟩
  · exact h.overlaps st closing op req opened shut
  · exact h.closeFails st closing op req close
  · rcases which with rfl | rfl
    · rw [oldChan] at opening op shut ⊢
      refine ⟨?_, fun shutNew => ?_⟩
      · obtain ⟨t, run, kept, fed, noted⟩ := h.overlapEnds st is opening op shut
        exact ⟨t, run, kept, by rw [if_pos rfl]; exact fed, fun _ => noted, fun same => absurd same ne⟩
      · obtain ⟨t, run, kept, halted, faulted, tripping⟩ := h.overlapFails st is opening op shut trip
          (shutNew.resolve_right fun same => ne same)
        exact ⟨t, run, kept, halted, faulted, fun _ => tripping⟩
    · have same : entryChan ⟨n, e.entry⟩ = srcChan y := entryChan_of_own new
      rw [same] at opening op shut ⊢
      refine ⟨?_, fun _ => ?_⟩
      · obtain ⟨t, run, kept, fed, noted⟩ := h.overlapReturns st is opening op shut
        exact ⟨t, run, kept, by rw [if_neg (Ne.symm ne)]; exact fed, fun eq => absurd eq.symm ne, fun _ => noted⟩
      · obtain ⟨t, run, kept, halted, faulted⟩ := h.overlapFails_new st is opening op shut trip
        exact ⟨t, run, kept, halted, faulted, fun eq => absurd eq.symm ne⟩
  · exact h.withdraws st valid healthy

end Sys2Proof.Machine
end

section
/-! The open transition of a section in AUTO: OPENING (R105, R114 to R117). -/

namespace Sys2Proof.Machine

variable {s t u v base : State} {n : Sec} {x y z : Src} {e : SecEntry} {f g : Entry} {c c' : SecCtx} {w w' : Option Watch}
  {b b' : ByChan ChanRec} {o o' : Option Sec} {m m' : LmgState} {l l' : List Report} {r : Report} {k k' d : Nat} {row : Instr}

theorem oldChan_own {ch : Chan} (is : s.oldChan n = some ch) (ne : ch ≠ .bkt) : ∃ x f, ownSource n f = some x ∧ ch = srcChan x := by
  have entry {g : Entry} (same : entryChan ⟨n, g⟩ = ch) : ∃ x f, ownSource n f = some x ∧ ch = srcChan x := by
    unfold entryChan at same
    dsimp only at same
    split at same
    · rename_i x own
      exact ⟨x, g, own, same.symm⟩
    · exact absurd same.symm ne
  unfold State.oldChan at is
  split at is
  · exact entry (Option.some.inj is)
  · obtain ⟨g, -, same⟩ := Option.map_eq_some_iff.mp is
    exact entry same

/-! ### A section that has left its old incomer behind -/

/-- The reports of a section that looks for a target. -/
def Report.drifts (n : Sec) (r : Report) : Prop := r.retests n ∨ ∃ passed, r = .decayTest n passed

/-- A context of a section that looks for a target: it is in DECAY, waits, or closes, is fed by nothing, and its lost incomer
is open (R113 to R117). -/
structure SecCtx.Drifts (c : SecCtx) (n : Sec) (b : ByChan ChanRec) : Prop where
  state : c.state = .decay ∨ c.state = .waitSource ∨ c.state = .closing ∨ c.state = .opening
  feed  : c.feed = none
  lost  : ∀ l, c.lost = some l → (b.get (entryChan ⟨n, l.entry⟩)).aux.accepted = false

/-- A section that looks for a target, with no time passing. -/
def State.Drifts (t : State) (n : Sec) (base : State) : Prop :=
  ∃ c w b o m l, Acted n base c w b o m l t ∧ c.Drifts n b ∧ ∀ r ∈ l, r.drifts n

namespace State.Drifts

variable (h : t.Drifts n base)
include h

theorem now : t.now = base.now := by
  obtain ⟨c, w, b, o, m, l, acted, -⟩ := h
  exact acted.now

theorem reported (drifts : r.drifts n) : (report r t).Drifts n base := by
  obtain ⟨c, w, b, o, m, l, acted, ctx, all⟩ := h
  exact ⟨_, _, _, _, _, _, acted.report r, ctx, fun q mem => by
    rcases List.mem_append.mp mem with mem | mem
    · exact all q mem
    · exact List.mem_singleton.mp mem ▸ drifts⟩

theorem posted (q : Note) : (post q t).Drifts n base := by
  obtain ⟨c, w, b, o, m, l, acted, ctx, all⟩ := h
  exact ⟨_, _, _, _, _, _, acted.post q, ctx, all⟩

theorem watched (v : Option Watch) : (setWatch n v t).Drifts n base := by
  obtain ⟨c, w, b, o, m, l, acted, ctx, all⟩ := h
  exact ⟨_, _, _, _, _, _, acted.setWatch v, ctx, all⟩

theorem changed {q : SecCtx → SecCtx} (same : ∀ c, (q c).state = c.state ∧ (q c).feed = c.feed ∧ (q c).lost = c.lost) :
    (modSeq n q t).Drifts n base := by
  obtain ⟨c, w, b, o, m, l, acted, ctx, all⟩ := h
  obtain ⟨state, feed, lost⟩ := same c
  exact ⟨_, _, _, _, _, _, acted.modSeq q, ⟨by rw [state]; exact ctx.state, feed.trans ctx.feed, by rw [lost]; exact ctx.lost⟩, all⟩

theorem entered {st : SeqState} (is : st = .decay ∨ st = .waitSource ∨ st = .closing) : (enter n st t).Drifts n base := by
  obtain ⟨c, w, b, o, m, l, acted, ctx, all⟩ := h
  refine ⟨_, _, _, _, _, _, acted.enter st, ⟨?_, ctx.feed, fun q found => ctx.lost q ?_⟩, fun r mem => ?_⟩
  · rcases is with e | e | e
    · exact .inl e
    · exact .inr (.inl e)
    · exact .inr (.inr (.inl e))
  · rwa [show (c.into st).lost = c.lost from if_neg (by rcases is with e | e | e <;> rw [e] <;> decide)] at found
  · rcases List.mem_append.mp mem with mem | mem
    · exact all r mem
    · split at mem
      · cases mem
      · exact .inl (.inl (List.mem_singleton.mp mem))

theorem owned (v : Option Sec) : (setOwner v t).Drifts n base := by
  obtain ⟨c, w, b, o, m, l, acted, ctx, all⟩ := h
  refine ⟨_, _, _, _, _, _, acted.setOwner v, ctx, fun r mem => ?_⟩
  rcases List.mem_append.mp mem with mem | mem
  · exact all r mem
  · split at mem
    · cases mem
    · exact .inl (.inr (.inr (.inl (List.mem_singleton.mp mem))))

theorem closes (ch : Chan) (q : Requester) : (startClose ch q t).Drifts n base := by
  obtain ⟨c, w, b, o, m, l, acted, ctx, all⟩ := h
  obtain ⟨a, retests, made⟩ := acted.startClose ch q
  refine ⟨_, _, _, _, _, _, made, ⟨ctx.state, ctx.feed, fun l found => ?_⟩, fun r mem => ?_⟩
  · rw [← ctx.lost l found]
    by_cases same : ch = entryChan ⟨n, l.entry⟩
    · subst same
      rw [ByChan.get_set_self]
      rfl
    · rw [ByChan.get_set_other _ _ same]
  · exact (List.mem_append.mp mem).elim (all r) fun mem => .inl (retests.each r mem)

theorem begun (cause : StartCause) (closed : Bool) (g : SecEntry) : (beginTransfer n cause closed g t).Drifts n base := by
  obtain ⟨c, w, b, o, m, l, acted, ctx, all⟩ := h
  refine ⟨_, _, _, _, _, _, acted.beginTransfer cause closed g, ⟨?_, ?_, ?_⟩, all⟩
  · rw [SecCtx.chosen_state]; exact ctx.state
  · rw [SecCtx.chosen_feed]; exact ctx.feed
  · rw [SecCtx.chosen_lost]; exact ctx.lost

/-! #### The composite acts -/

theorem decayEntered : (enterDecay n t).Drifts n base := by
  unfold enterDecay setDecayWatch
  refine (((h.entered (.inl rfl)).changed ?_).watched _).reported (.inr ⟨[], rfl⟩)
  exact fun c => ⟨rfl, rfl, rfl⟩

theorem old_open (q : Chan) (old : t.oldChan n = some q) : t.closed q = false := by
  obtain ⟨c, w, b, o, m, l, acted, ctx, -⟩ := h
  unfold State.oldChan at old
  rw [acted.ctx] at old
  rw [acted.closed]
  split at old
  · rename_i lost found
    cases old
    exact ctx.lost lost found
  · rw [ctx.feed] at old
    cases old

theorem opened : (openTransition n t).Drifts n base := by
  rw [Acted.openTransition_open h.old_open]
  exact h.decayEntered

theorem chosen (cause : StartCause) (passed : List SecEntry) (g : Option SecEntry) : (takeChoice n cause passed g t).Drifts n base := by
  cases g with
  | none => exact h.entered (.inr (.inl rfl))
  | some g =>
    have begun := h.begun cause false g
    unfold takeChoice
    dsimp only
    split
    · exact (begun.watched _).reported (.inr ⟨passed, rfl⟩)
    · exact begun.opened

theorem selected (cause : StartCause) : (select n cause t).Drifts n base := by
  unfold select
  split
  · exact h.entered (.inr (.inl rfl))
  · exact h.chosen cause [] _

theorem selectedPast (passed : List SecEntry) : (selectPast n passed t).Drifts n base := by
  unfold selectPast
  split
  · exact h.entered (.inr (.inl rfl))
  · exact h.chosen .retarget passed _

theorem triggered (ch : Chan) (q : Requester) : (closeTrigger ch q t).1.Drifts n base := by
  unfold closeTrigger
  split
  · exact h
  · exact h.closes ch q

theorem targeted (g : SecEntry) : (closeTarget n g t).1.Drifts n base := by
  unfold closeTarget
  split
  · split
    · exact h
    · have made := (h.owned (some n)).triggered .bkt (.seq n)
      split <;> rename_i e <;> rw [e] at made
      · exact made.owned none
      · exact made
  · have made := h.triggered (entryChan g) (.seq n)
    split <;> rename_i e <;> rw [e] at made <;> exact made

theorem decayClosed (method : Method) (passed : List SecEntry) : (decayClose n method passed t).Drifts n base := by
  unfold decayClose
  split
  · exact h
  · rename_i g _
    have made := h.targeted g
    split <;> rename_i e <;> rw [e] at made
    · exact (made.posted _).selectedPast _
    · refine (made.changed ?_).entered (.inr (.inr rfl))
      exact fun c => ⟨rfl, rfl, rfl⟩

theorem tested (permit : Bool) (passed : List SecEntry) : (testDecay n permit passed t).Drifts n base := by
  unfold testDecay
  split
  · split
    · exact h.decayClosed _ passed
    · exact h
  · exact h

theorem reconsidered (wake : Bool) : (reconsider n wake t).Drifts n base := by
  have old := h.old_open
  obtain ⟨c, w, b, o, m, l, acted, ctx, all⟩ := id h
  unfold reconsider
  rw [acted.ctx]
  split
  · rcases ctx.state with st | st | st | st <;> rw [st] <;> dsimp only
    · unfold retest
      split
      · split
        · exact h
        · exact h.selected _
      · exact h
    · split
      · unfold waitTest State.lostIsBack
        rw [acted.ctx]
        split
        · rename_i e back
          split at back
          · rename_i q found
            have opened : t.closed (entryChan ⟨n, q.entry⟩) = false := by rw [acted.closed]; exact ctx.lost q found
            rw [opened] at back
            simp at back
          · cases back
        · exact h.selected _
      · exact h
    · exact h
    · exact h
  · exact h

theorem alone (a : base.Alone n) : t.Alone n := by
  obtain ⟨c, w, b, o, m, l, acted, -⟩ := h
  exact acted.alone a

theorem retested (a : base.Alone n) (wake : Bool) : (forSecs (fun q => reconsider q wake) t).Drifts n base := by
  have made := h.reconsidered wake
  rw [forSecs_one (f := fun q => reconsider q wake) n (reconsider_manual (h.alone a).other wake)
    (reconsider_manual (made.alone a).other wake)]
  exact made

theorem handled (a : base.Alone n) (drifts : r.drifts n) : (handle r t).Drifts n base := by
  have alone := h.alone a
  rcases drifts with (rfl | rfl | rfl | ⟨ch, rfl⟩) | ⟨passed, rfl⟩
  · rw [show handle (.seqState n) t = t from alone.passes_seqState t.agenda]
    exact h
  · rw [show handle (.seqFeed n) t = t from alone.passes_seqFeed t.agenda]
    exact h
  · exact h.retested a false
  · exact h.retested a true
  · exact h.tested false passed

end State.Drifts

/-- No time passes while a section looks for a target. -/
theorem State.Drifts.drained (a : base.Alone n) (calm : base.agenda = []) (k : Nat) (h : t.Drifts n base) :
    (drain k t).now = base.now := by
  induction k generalizing t with
  | zero => exact h.now
  | succ k ih =>
    obtain ⟨c, w, b, o, m, l, acted, ctx, all⟩ := id h
    have agenda : t.agenda = l := by rw [acted.agenda, calm, List.nil_append]
    cases l with
    | nil =>
      rw [drain_none _ agenda]
      exact h.now
    | cons r rest =>
      have left : ({ t with agenda := rest } : State).Drifts n base :=
        ⟨c, w, b, o, m, rest, acted.waiting calm rest, ctx, fun q mem => all q (List.mem_cons_of_mem _ mem)⟩
      have made := left.handled a (all r List.mem_cons_self)
      rw [drain_cons _ agenda, runAll_noGenerator (made.alone a).gen]
      exact ih made

/-! ### The old incomer is open (R115 to R117) -/

/-- A section in the open transition towards an own entry. -/
structure OpenMove (s : State) (n : Sec) (e : SecEntry) (y : Src) : Prop where
  alone  : s.AutoAlone n
  tie    : s.TieOpen
  target : (s.ctx n).target = some e
  mine   : e.sec = n
  own    : ownSource n e.entry = some y
  closed : (s.ctx n).closedTrans = false

namespace OpenMove

variable (h : OpenMove s n e y)
include h

theorem entry : (⟨n, e.entry⟩ : SecEntry) = e := by
  have mine := h.mine
  subst mine
  rfl

theorem chan : entryChan e = srcChan y := by rw [← h.entry]; exact entryChan_of_own h.own

theorem source (t : State) : t.entrySource e = some y := by rw [← h.entry]; exact entrySource_of_own h.own

theorem not_tie : e.entry ≠ .tie := own_ne_tie h.own

end OpenMove

theorem closeCondition_residual (now : s.ResidualNow n) : s.closeCondition n false = some .residual := by
  obtain ⟨dead, method⟩ := now
  unfold State.closeCondition
  dsimp only
  rw [if_neg (by simp), if_pos ⟨dead, by omega⟩]

theorem SameBut.reached (n : Sec) (x : Src) (d : Nat) (s : State) : SameBut n x s (reach d s) :=
  ⟨rfl, rfl, rfl, rfl, rfl, rfl, fun _ _ => rfl, fun _ _ => rfl⟩

theorem SameBut.noneHealthy (h : SameBut n x s t) (mine : srcSec x = n) (shut : s.closed .bkt = false) (squ : t.squ = s.squ)
    (sick : s.NoneHealthy n) : t.NoneHealthy n := fun g => by
  rw [h.entrySource mine shut, healthy?_congr squ]
  exact sick g

theorem choose_sick (role : (s.ctx n).role = .sole) (shut : s.closed .bkt = false) (sick : s.NoneHealthy n) : s.choose n = none := by
  rw [choose_own role shut, Option.map_eq_none_iff, List.find?_eq_none]
  intro g _
  unfold State.eligible State.targetFits
  rw [sick g]
  simp

/-- What a confirmed trip of the old incomer leaves of an open transition. -/
def State.OpenedAs (s : State) (n : Sec) (e : SecEntry) (ch : Chan) (t : State) : Prop :=
  (¬s.ResidualNow n ∨ s.NoneHealthy n → s.RestKept n t ∧ (t.ctx n).openMs = t.now ∧
    (s.eligible n e = true → t.DecayBegun n e) ∧ (s.NoneHealthy n → t.Waits n) ∧
    (t.bcu.get ch).position = .isOpen ∧ (t.bcu.get ch).tripEnd = none ∧ ∀ d, d ≠ ch → t.bcu.get d = s.bcu.get d) ∧
  (s.ResidualNow n → s.eligible n e = true → s.closeRefusal (entryChan e) = none →
    s.RestKept n t ∧ (t.ctx n).openMs = t.now ∧ t.ResidualBegun n e ∧
    t.bcu.get (entryChan e) = s.closeBegun (entryChan e) (.seq n) t.now ∧
    (t.bcu.get ch).position = .isOpen ∧ (t.bcu.get ch).tripEnd = none ∧
    ∀ d, d ≠ ch → d ≠ entryChan e → t.bcu.get d = s.bcu.get d)

@[simp] theorem SecCtx.chosen_openMs (g : SecEntry) (cause : StartCause) (closed : Bool) (now : Nat) :
    (c.chosen n g cause closed now).openMs = c.openMs := by
  unfold chosen SecCtx.begin
  split <;> rfl

/-- A section whose old incomer has just opened, before it looks for its target. -/
structure JustOpened (row : Instr) (s : State) (n : Sec) (e : SecEntry) (y x : Src) (d : Nat) (q : ChanRec) (m : LmgState)
    (l : List Report) (v u : State) : Prop where
  move    : OpenMove s n e y
  mine    : srcSec x = n
  ne      : x ≠ y
  told    : Told row n s (reach d s) (s.bcu.set (srcChan x) q) m [] (tripConfirmed (srcChan x) n) v
  acts    : tripConfirmed (srcChan x) n v = if u.eligible n e then enterDecay n u else select n .retarget u
  acted   : ∃ w, Acted n (reach d s) { s.ctx n with openMs := max s.now d, feed := none } w (s.bcu.set (srcChan x) q) s.owner m l u
  st      : (s.ctx n).state = .opening
  old     : ∀ lost, (s.ctx n).lost = some lost → entryChan ⟨n, lost.entry⟩ = srcChan x
  demands : ∀ f, (m.feeders.get f).demand = (s.feeder f).demand
  pass    : ∀ r ∈ l, r = .seqFeed n
  few     : l.length ≤ 1
  isOpen  : q.position = .isOpen
  aux     : q.aux.accepted = false
  ended   : q.tripEnd = none

namespace JustOpened

variable {q : ChanRec} (h : JustOpened row s n e y x d q m l v u)
include h

theorem same : SameBut n x s u := by
  obtain ⟨w, acted⟩ := h.acted
  exact (SameBut.reached n x d s).trans (acted.sameBut (acted.classOne_kept h.demands) fun ch ne => ByChan.get_set_other _ _ (Ne.symm ne))

theorem eligible : u.eligible n e = s.eligible n e := by
  obtain ⟨w, acted⟩ := h.acted
  have fits := h.same.targetFits (g := e.entry) h.mine h.move.tie.1 (by
    rw [h.move.own]
    exact fun eq => h.ne (Option.some.inj eq).symm)
  rw [h.move.entry] at fits
  unfold State.eligible State.excluded
  rw [fits, acted.ctx]

theorem rest {c : SecCtx} (made : Acted n (reach d s) c w (s.bcu.set (srcChan x) q) s.owner m' [] t) (openMs : c.openMs = max s.now d) :
    s.RestKept n t ∧ (t.ctx n).openMs = t.now ∧ (t.bcu.get (srcChan x)).position = .isOpen ∧
    (t.bcu.get (srcChan x)).tripEnd = none ∧ ∀ d, d ≠ srcChan x → t.bcu.get d = s.bcu.get d := by
  refine ⟨h.told.restKept made, by rw [made.ctx, openMs, made.now]; rfl, ?_, ?_, fun ch ne => ?_⟩
  · rw [made.bcu, ByChan.get_set_self, h.isOpen]
  · rw [made.bcu, ByChan.get_set_self, h.ended]
  · rw [made.bcu, ByChan.get_set_other _ _ (Ne.symm ne)]

theorem alone_ : (reach d s).Alone n := h.told.alone

theorem passes (made : Acted n (reach d s) c w b o m' l' t) (r : Report) (mem : r ∈ l ++ [.seqState n]) : t.passes r := by
  rcases List.mem_append.mp mem with mem | mem
  · rw [h.pass r mem]
    exact (made.alone h.alone_).passes_seqFeed
  · rw [List.mem_singleton.mp mem]
    exact (made.alone h.alone_).passes_seqState

/-- The section is in DECAY, and its target is not to be closed at once. -/
theorem decays {g : SecEntry} {u' : State} {c1 : SecCtx} (acted : ∃ w m', Acted n (reach d s) c1 w (s.bcu.set (srcChan x) q) s.owner m' l u')
    (acts : tripConfirmed (srcChan x) n v = enterDecay n u') (from_ : c1.state ≠ .decay) (openMs : c1.openMs = max s.now d)
    (target : c1.target = some g) (feed : c1.feed = none) (live : ¬s.ResidualNow n) :
    ∃ t, exec row s = .next t ∧ t.now = max s.now d ∧ s.RestKept n t ∧ (t.ctx n).openMs = t.now ∧ t.DecayBegun n g ∧
      (t.bcu.get (srcChan x)).position = .isOpen ∧ (t.bcu.get (srcChan x)).tripEnd = none ∧
      ∀ d, d ≠ srcChan x → t.bcu.get d = s.bcu.get d := by
  obtain ⟨w, m', acted⟩ := acted
  have made := acted.enterDecay from_
  rw [← acts] at made
  have no : (tripConfirmed (srcChan x) n v).closeCondition n false = none := closeCondition_none
    (fun now => live (by
      unfold State.ResidualNow at now
      rwa [made.squ, made.plan] at now)) (by rw [made.ctx]; rfl) (by rw [made.ctx]; rfl)
  have few := h.few
  have run := h.told.rests made (fun r mem => by
    simp only [List.mem_append, List.mem_cons, List.not_mem_nil, or_false] at mem
    rcases mem with mem | rfl | rfl
    · exact h.passes made r (List.mem_append_left _ mem)
    · exact h.passes made _ (List.mem_append_right _ (List.mem_singleton.mpr rfl))
    · exact passes_decayTest no []) (by
    rw [List.length_append]
    exact Nat.le_trans (Nat.add_le_add_right few _) (by simp))
  have cleared := made.cleared h.told.calm
  obtain ⟨kept, open_, facts⟩ := h.rest cleared openMs
  exact ⟨_, run, cleared.now, kept, open_, cleared.decayBegun target feed, facts⟩

/-- The section waits: there is no entry to take. -/
theorem waits (not : u.eligible n e ≠ true) (no : u.held n = true ∨ u.choose n = none) :
    ∃ t, exec row s = .next t ∧ t.now = max s.now d ∧ s.RestKept n t ∧ (t.ctx n).openMs = t.now ∧ t.Waits n ∧
      (t.bcu.get (srcChan x)).position = .isOpen ∧ (t.bcu.get (srcChan x)).tripEnd = none ∧
      ∀ d, d ≠ srcChan x → t.bcu.get d = s.bcu.get d := by
  obtain ⟨w, acted⟩ := h.acted
  have made := acted.enter_resting (st := .waitSource) rfl (by rw [h.st]; decide)
  have acts := h.acts
  rw [if_neg not, select_waits no] at acts
  rw [← acts] at made
  have few := h.few
  have run := h.told.rests made (fun r mem => h.passes made r mem) (by
    rw [List.length_append]
    exact Nat.le_trans (Nat.add_le_add_right few _) (by simp))
  have cleared := made.cleared h.told.calm
  obtain ⟨kept, open_, facts⟩ := h.rest cleared rfl
  exact ⟨_, run, cleared.now, kept, open_, cleared.waits rfl, facts⟩

/-- On a DEAD bus, under an open method that closes on it, the target is closed at once. -/
theorem closes (fits : s.eligible n e = true) (now : s.ResidualNow n) (ok : s.closeRefusal (entryChan e) = none) :
    ∃ t, exec row s = .next t ∧ t.now = max s.now d ∧ s.RestKept n t ∧ (t.ctx n).openMs = t.now ∧ t.ResidualBegun n e ∧
      t.bcu.get (entryChan e) = s.closeBegun (entryChan e) (.seq n) t.now ∧
      (t.bcu.get (srcChan x)).position = .isOpen ∧ (t.bcu.get (srcChan x)).tripEnd = none ∧
      ∀ d, d ≠ srcChan x → d ≠ entryChan e → t.bcu.get d = s.bcu.get d := by
  obtain ⟨w, acted⟩ := h.acted
  have apart : srcChan x ≠ srcChan y := fun eq => h.ne (srcChan_inj eq)
  have decayed := acted.enterDecay (by rw [h.st]; decide)
  have acts := h.acts
  rw [if_pos (h.eligible.trans fits)] at acts
  have waiting := decayed.waiting h.told.calm []
  have holds : ({ enterDecay n u with agenda := [] } : State).closeCondition n false = some .residual := closeCondition_residual (by
    unfold State.ResidualNow
    rw [waiting.squ, waiting.plan]
    exact now)
  have tests : handle (.decayTest n []) { enterDecay n u with agenda := [] } =
      decayClose n .residual [] { enterDecay n u with agenda := [] } :=
    testDecay_holds (waiting.alone h.alone_).auto (by rw [waiting.ctx]; rfl) holds []
  have refusal : ({ enterDecay n u with agenda := [] } : State).closeRefusal (entryChan e) = none := by
    have same : ({ enterDecay n u with agenda := [] } : State).bcu.get (srcChan y) = s.bcu.get (srcChan y) := by
      rw [waiting.bcu, ByChan.get_set_other _ _ apart]
    rw [h.move.chan] at ok ⊢
    unfold State.closeRefusal State.avail at ok ⊢
    rw [waiting.blocked, same]
    exact ok
  obtain ⟨a, retests, closed⟩ := waiting.decayClose_own (e := e) h.move.target h.move.not_tie refusal .residual [] (by
    simp [SecCtx.decayed, SecCtx.into])
  obtain ⟨z, hz⟩ : ∃ z, z = decayClose n .residual [] { enterDecay n u with agenda := [] } := ⟨_, rfl⟩
  rw [← hz] at closed tests
  have alone := closed.alone h.alone_
  have last := closed.takes_all h.alone_ h.told.calm fun r mem =>
    alone.passes (.of_transfer (by rw [closed.ctx]; exact .inr (.inl rfl))) (retests.each r mem)
  have second := Takes.acts (s := { enterDecay n u with agenda := [.decayTest n []] }) rfl tests alone.gen last
  have front : (enterDecay n u).agenda = (l ++ [.seqState n]) ++ [.decayTest n []] := by
    rw [decayed.agenda, h.told.calm, List.nil_append, List.append_assoc]
    rfl
  have whole := Takes.passing _ front (decayed.alone h.alone_).gen (h.passes decayed) second
  rw [← acts] at whole
  have few := h.few
  have short := retests.few
  have run := h.told.ends (by rw [acts]; exact (decayed.alone h.alone_).gen) whole (by
    rw [List.length_append, List.length_singleton]
    exact Nat.le_trans (Nat.add_le_add (Nat.add_le_add_right few _) (Nat.succ_le_succ short)) (by simp))
  have cleared := closed.cleared h.told.calm
  have record : ({ z with agenda := [] } : State).bcu.get (srcChan x) = q := by
    rw [cleared.bcu, h.move.chan, ByChan.get_set_other _ _ apart.symm, ByChan.get_set_self]
  refine ⟨{ z with agenda := [] }, run, cleared.now, h.told.restKept cleared, by rw [cleared.ctx, cleared.now]; rfl, ?_, ?_, by rw [record, h.isOpen],
    by rw [record, h.ended], fun ch ne ne' => ?_⟩
  · unfold State.ResidualBegun
    dsimp only
    rw [cleared.ctx, cleared.now, cleared.watch]
    exact ⟨rfl, h.move.target, rfl, h.move.closed, rfl, rfl, rfl, rfl, rfl, rfl⟩
  · rw [cleared.bcu, ByChan.get_set_self, h.move.chan, ByChan.get_set_other _ _ apart, cleared.now, closeBegun_eq]
    rfl
  · rw [cleared.bcu, ByChan.get_set_other _ _ (Ne.symm ne'), ByChan.get_set_other _ _ (Ne.symm ne)]

/-- Whatever the section then looks for, no time passes. -/
theorem drifts : ∃ t, exec row s = .next t ∧ t.now = max s.now d := by
  obtain ⟨w, acted⟩ := h.acted
  have drifting : u.Drifts n (reach d s) := ⟨_, _, _, _, _, _, acted,
    ⟨.inr (.inr (.inr h.st)), rfl, fun lost found => by rw [h.old lost found, ByChan.get_set_self, h.aux]⟩,
    fun r mem => .inl (.inr (.inl (h.pass r mem)))⟩
  have after : (tripConfirmed (srcChan x) n v).Drifts n (reach d s) := by
    rw [h.acts]
    split
    · exact drifting.decayEntered
    · exact drifting.selected _
  obtain ⟨k, -, run⟩ := h.told.runs (after.alone h.alone_).gen
  exact ⟨_, run, after.drained h.alone_ h.told.calm k⟩

/-- The trip is confirmed (R115 to R117). -/
theorem ends : ∃ t, exec row s = .next t ∧ t.now = max s.now d ∧ s.OpenedAs n e (srcChan x) t := by
  have sick (fits : s.eligible n e = true) : ¬s.NoneHealthy n := fun none => by
    unfold State.eligible State.targetFits at fits
    rw [← h.move.entry, none] at fits
    simp at fits
  by_cases fits : s.eligible n e = true
  · by_cases now : s.ResidualNow n
    · by_cases ok : s.closeRefusal (entryChan e) = none
      · obtain ⟨t, run, at_, facts⟩ := h.closes fits now ok
        exact ⟨t, run, at_, fun no => absurd now (no.resolve_right (sick fits)), fun _ _ _ => facts⟩
      · obtain ⟨t, run, at_⟩ := h.drifts
        exact ⟨t, run, at_, fun no => absurd now (no.resolve_right (sick fits)), fun _ _ yes => absurd yes ok⟩
    · obtain ⟨w, acted⟩ := h.acted
      have acts := h.acts
      rw [if_pos (h.eligible.trans fits)] at acts
      obtain ⟨t, run, at_, kept, open_, begun, facts⟩ := h.decays ⟨w, m, acted⟩ acts (by rw [h.st]; decide) rfl h.move.target rfl now
      exact ⟨t, run, at_, fun _ => ⟨kept, open_, fun _ => begun, fun none => absurd none (sick fits), facts⟩,
        fun yes => absurd yes now⟩
  · have not : u.eligible n e ≠ true := by rw [h.eligible]; exact fits
    obtain ⟨w, acted⟩ := h.acted
    have role : (u.ctx n).role = .sole := by rw [acted.ctx]; exact h.move.tie.2.2 n
    have waits (no : u.held n = true ∨ u.choose n = none) :
        ∃ t, exec row s = .next t ∧ t.now = max s.now d ∧ s.OpenedAs n e (srcChan x) t := by
      obtain ⟨t, run, at_, kept, open_, rest, facts⟩ := h.waits not no
      exact ⟨t, run, at_, fun _ => ⟨kept, open_, fun yes => absurd yes fits, fun _ => rest, facts⟩, fun _ yes => absurd yes fits⟩
    by_cases none : s.NoneHealthy n
    · exact waits (.inr (choose_sick role (h.same.bkt.trans h.move.tie.1)
        (h.same.noneHealthy h.mine h.move.tie.1 acted.squ none)))
    · by_cases now : s.ResidualNow n
      · obtain ⟨t, run, at_⟩ := h.drifts
        exact ⟨t, run, at_, fun no => absurd now (no.resolve_right none), fun _ yes => absurd yes fits⟩
      · cases held : u.held n with
        | true => exact waits (.inl held)
        | false =>
          cases first : u.choose n with
          | none => exact waits (.inr first)
          | some g =>
            have acts := h.acts
            rw [if_neg not, select_takes held first (by rw [acted.ctx, h.st]; decide)] at acts
            have begun := acted.beginTransfer .retarget false g
            rw [Acted.openTransition_open (t := beginTransfer n .retarget false g u) fun ch old => by
              unfold State.oldChan at old
              rw [begun.ctx, SecCtx.chosen_lost, SecCtx.chosen_feed] at old
              rw [begun.closed]
              split at old
              · rename_i lost found
                obtain rfl : srcChan x = ch := (h.old lost found).symm.trans (Option.some.inj old)
                rw [ByChan.get_set_self, h.aux]
              · cases old] at acts
            obtain ⟨t, run, at_, kept, open_, -, facts⟩ := h.decays ⟨_, _, begun⟩ acts
              (by rw [SecCtx.chosen_state, h.st]; decide) (SecCtx.chosen_openMs _ _ _ _) (SecCtx.chosen_target _ _ _ _)
              (SecCtx.chosen_feed _ _ _ _) now
            exact ⟨t, run, at_, fun _ => ⟨kept, open_, fun yes => absurd yes fits, fun yes => absurd yes none, facts⟩,
              fun yes => absurd yes now⟩

end JustOpened

end Sys2Proof.Machine
end

section
/-! The open transition of a section in AUTO: the rows of OPENING, DECAY and CLOSING (R114 to R120, R126). -/

namespace Sys2Proof.Machine

variable {s t u v base : State} {n : Sec} {x y z : Src} {e : SecEntry} {f g : Entry} {c c' : SecCtx} {w w' : Option Watch}
  {b b' : ByChan ChanRec} {o o' : Option Sec} {m m' : LmgState} {l l' : List Report} {r : Report} {k k' d : Nat} {row : Instr}

/-! ### OPENING -/

theorem Told.rebased {act : State → State} (h : Told row n s base b m l act v) (same : u = base) : Told row n s u b m l act v := by
  subst same
  exact h

theorem reach_self (s : State) : reach s.now s = s := by
  unfold reach
  rw [max_self]

/-- A section in OPENING, whose old incomer is being tripped. -/
structure Opening (s : State) (n : Sec) (e : SecEntry) (y x : Src) (p : Operation) : Prop where
  move    : OpenMove s n e y
  mine    : srcSec x = n
  ne      : x ≠ y
  st      : (s.ctx n).state = .opening
  old     : s.oldChan n = some (srcChan x)
  op      : (s.bcu.get (srcChan x)).op = some p
  trip    : p.kind = .trip
  opening : (s.bcu.get (srcChan x)).position = .opening

namespace Opening

variable {p : Operation} {q : ChanRec} (h : Opening s n e y x p)
include h

theorem lost (l : Lost) (found : (s.ctx n).lost = some l) : entryChan ⟨n, l.entry⟩ = srcChan x := by
  have old := h.old
  unfold State.oldChan at old
  rw [found] at old
  exact Option.some.inj old

/-- The trip's end reaches the section, which its island's paths are then judged by. -/
theorem judged (told : Told row n s (reach d s) b m [] (tripConfirmed (srcChan x) n) v) :
    ∃ u, tripConfirmed (srcChan x) n v = judgeLeft n (srcChan x) u
      (if u.eligible n e then enterDecay n u else select n .retarget u) ∧
    ∃ l, Acted n (reach d s) { s.ctx n with openMs := max s.now d, feed := none } (s.ccu.watches.get n) b s.owner m l u ∧
      (∀ r ∈ l, r = .seqFeed n) ∧ l.length ≤ 1 := by
  have acted := (told.acted.modSeq fun c => { c with openMs := v.now }).setFeed none
  rw [told.acted.now, List.nil_append] at acted
  have old : v.oldChan n = some (srcChan x) := by
    have old := h.old
    unfold State.oldChan at old ⊢
    rw [told.acted.ctx]
    exact old
  refine ⟨_, ?_, _, acted, fun r mem => ?_, ?_⟩
  · unfold tripConfirmed State.auto
    rw [(told.acted.alone told.alone).auto, if_pos (by decide), told.acted.ctx, h.st]
    dsimp only
    rw [if_pos old, told.acted.now]
    have target : ((setFeed n none (modSeq n (fun c => { c with openMs := (reach d s).now }) v)).ctx n).target = some e := by
      have same := acted.ctx
      rw [same]
      exact h.move.target
    rw [target]
  · split at mem
    · cases mem
    · exact List.mem_singleton.mp mem
  · split <;> simp

/-- The old incomer is open, and no source path is left. -/
theorem confirmed (told : Told row n s (reach d s) (s.bcu.set (srcChan x) q) m [] (tripConfirmed (srcChan x) n) v)
    (demands : ∀ f, (m.feeders.get f).demand = (s.feeder f).demand) (isOpen : q.position = .isOpen) (aux : q.aux.accepted = false)
    (ended : q.tripEnd = none) (dead : ∀ z, srcSec z = n → z ≠ x → s.closed (srcChan z) = false) :
    ∃ t, exec row s = .next t ∧ t.now = max s.now d ∧ s.OpenedAs n e (srcChan x) t := by
  obtain ⟨u, acts, l, acted, pass, few⟩ := h.judged told
  have none : u.paths n = [] := paths_none (by rw [acted.closed, ByChan.get_set_other _ _ (srcChan_ne_bkt x)]; exact h.move.tie.1)
    fun z mine => by
      by_cases same : z = x
      · rw [same, acted.closed, ByChan.get_set_self, aux]
      · rw [acted.closed, ByChan.get_set_other _ _ fun eq => same (srcChan_inj eq).symm]
        exact dead z mine same
  unfold judgeLeft at acts
  rw [none] at acts
  exact JustOpened.ends ⟨h.move, h.mine, h.ne, told, acts, ⟨_, acted⟩, h.st, h.lost, demands, pass, few, isOpen, aux, ended⟩

theorem moving : (s.bcu.get (srcChan x)).position ≠ .isOpen := by rw [h.opening]; decide

/-- The trip is confirmed by AUX, and the old incomer was the one path. -/
theorem confirm (one : s.paths n = [x]) :
    ∃ t, exec (.auxAccepted (srcChan x) false) s = .next t ∧ t.now = s.now ∧ s.OpenedAs n e (srcChan x) t := by
  have shut : s.closed (srcChan x) = true := ((mem_paths h.move.tie.1).mp (by rw [one]; exact List.mem_singleton.mpr rfl)).2
  obtain ⟨m, v, load, told⟩ := tripConfirm_told h.move.alone h.op h.move.tie h.mine h.opening shut (.inl h.st)
  obtain ⟨isOpen, -, ended⟩ := auxChanged_opened (now := s.now) h.opening
  have told := told.rebased (reach_self s)
  have run := h.confirmed (d := s.now) told load.demands isOpen
    (congrArg InputPin.accepted (auxChanged_rest (s.bcu.get (srcChan x)) false s.now).1) ended fun z mine ne => by
      by_contra yes
      have mem := (mem_paths h.move.tie.1).mpr ⟨mine, by simpa using yes⟩
      rw [one] at mem
      exact ne (List.mem_singleton.mp mem)
  rwa [max_self] at run

/-- The trip is confirmed at its deadline. -/
theorem confirmLate (none : s.paths n = []) (opened : s.closed (srcChan x) = false) :
    ∃ t, exec (.tripConfirmDeadline (srcChan x)) s = .next t ∧ t.now = max s.now p.deadline ∧ s.OpenedAs n e (srcChan x) t := by
  obtain ⟨v, told⟩ := tripDeadline_told_confirmed h.move.alone h.op h.trip opened (.inl h.st)
  exact h.confirmed told (fun _ => rfl) rfl opened rfl fun z mine ne => by
    by_contra yes
    have mem := (mem_paths h.move.tie.1).mpr ⟨mine, by simpa using yes⟩
    rw [none] at mem
    cases mem

/-- The section's other incomer is closed too: it is FED by that one (log entry 44). -/
theorem leaves (shut : s.closed (srcChan x) = true) (theirs : srcSec z = n) (apart : z ≠ x) (stays : s.closed (srcChan z) = true)
    (up : s.srcState z ≠ .down) (no : s.plan.sec n .autoReturn = 0) :
    ∃ t, exec (.auxAccepted (srcChan x) false) s = .next t ∧ s.RestKept n t ∧ t.FedOn n (some (srcEntry z)) := by
  obtain ⟨m, v, load, told⟩ := tripConfirm_told h.move.alone h.op h.move.tie h.mine h.opening shut (.inl h.st)
  have told := told.rebased (reach_self s)
  obtain ⟨u, acts, l, acted, pass, few⟩ := h.judged (d := s.now) told
  have left : u.paths n = [z] := paths_single
    (by rw [acted.closed, ByChan.get_set_other _ _ (srcChan_ne_bkt x)]; exact h.move.tie.1) theirs
    (by rw [acted.closed, ByChan.get_set_other _ _ fun eq => apart (srcChan_inj eq).symm]; exact stays)
    fun y' mine' ne' => by
      obtain rfl := srcSec_two (h.mine.trans theirs.symm) apart (mine'.trans h.mine.symm) ne'
      rw [acted.closed, ByChan.get_set_self]
      exact congrArg InputPin.accepted (auxChanged_rest (s.bcu.get (srcChan y')) false s.now).1
  unfold judgeLeft at acts
  rw [left] at acts
  have entry : pathEntry n z = srcEntry z := if_pos theirs
  have made := (acted.setFeed (some (srcEntry z))).enterFed .loss (by rw [h.st]; decide)
  have acts : tripConfirmed (srcChan x) n v = enterFed n .loss (setFeed n (some (srcEntry z)) u) := by
    rw [acts]
    dsimp only
    rw [entry]
    rfl
  rw [← acts] at made
  have passes := made.passes_enterFed told.alone no (fun y' is => by
    obtain rfl : z = y' := Option.some.inj ((own_srcEntry theirs).symm.trans is)
    exact up) .loss
  have run := told.rests made (fun r mem => passes r (by
    simp only [List.mem_append, List.mem_cons, List.not_mem_nil, or_false] at mem
    rcases mem with (mem | mem) | mem | mem
    · rw [pass r mem]
      exact List.mem_cons_self
    · split at mem
      · cases mem
      · rw [List.mem_singleton.mp mem]
        exact List.mem_cons_self
    · rw [mem]
      simp
    · rw [mem]
      simp)) (by
    simp only [List.length_append]
    split <;> simp <;> omega)
  have cleared := made.cleared told.calm
  exact ⟨_, run, told.restKept cleared, cleared.fedOn⟩

/-- The trip fails: the section halts. -/
theorem fails (shut : s.closed (srcChan x) = true) :
    ∃ t, exec (.tripConfirmDeadline (srcChan x)) s = .next t ∧ s.RestKept n t ∧
      t.HaltedWith n .opening .failToOpen (some (srcChan x)) ∧ (t.bcu.get (srcChan x)).position = .faulted := by
  obtain ⟨v, told⟩ := tripDeadline_told_failed h.move.alone h.op h.trip shut h.moving
  have old : v.oldChan n = some (srcChan x) := by
    have old := h.old
    unfold State.oldChan at old ⊢
    rw [told.acted.ctx]
    exact old
  have acts : tripFailed (srcChan x) n v = halt n .failToOpen (some (srcChan x)) v := by
    unfold tripFailed State.auto
    rw [(told.acted.alone told.alone).auto, told.acted.ctx, h.st, if_pos (by decide)]
    exact if_pos old
  obtain ⟨t, run, kept, halted, bcu, -⟩ := told.halts (by simp [h.move.tie.2.1]) told.acted acts
    (fun _ _ _ => List.forall_mem_nil _) (by simp)
  rw [h.st] at halted
  refine ⟨t, run, kept, halted, ?_⟩
  rw [bcu, ByChan.get_set_self]
  rfl

/-- The old incomer is locked out: the section halts. -/
theorem locks (clear : (s.bcu.get (srcChan x)).prot.accepted = false) :
    ∃ t, exec (.prtAccepted (srcChan x) true) s = .next t ∧ s.RestKept n t ∧
      t.HaltedWith n .opening .busFault (some (srcChan x)) ∧ (t.bcu.get (srcChan x)).position = .locked ∧
      (t.bcu.get (srcChan x)).tripEnd = (s.bcu.get (srcChan x)).tripEnd := by
  obtain ⟨v, told⟩ := prtAccept_told h.move.alone h.op clear (by rw [h.opening]; decide) h.moving
  have old : v.oldChan n = some (srcChan x) := by
    have old := h.old
    unfold State.oldChan at old ⊢
    rw [told.acted.ctx]
    exact old
  have acts : lockoutEnded (srcChan x) n v = halt n .busFault (some (srcChan x)) v := by
    unfold lockoutEnded State.auto
    rw [(told.acted.alone told.alone).auto, told.acted.ctx, h.st, if_pos (by decide)]
    exact if_pos old
  obtain ⟨t, run, kept, halted, bcu, -⟩ := told.halts (by simp [h.move.tie.2.1]) told.acted acts
    (fun t a st => List.forall_mem_singleton.mpr (passes_channelLocked a (srcChan x) st)) (by simp)
  rw [h.st] at halted
  refine ⟨t, run, kept, halted, ?_⟩
  rw [bcu, ByChan.get_set_self]
  exact ⟨rfl, rfl⟩

end Opening

end Sys2Proof.Machine
end

section
/-! A source that comes back or goes DOWN under a section in AUTO, and the rows of DECAY (R104, R113, R117). -/

namespace Sys2Proof.Machine

variable {s t u v base : State} {n : Sec} {x y z : Src} {e : SecEntry} {f g : Entry} {c c' : SecCtx} {w w' : Option Watch}
  {b b' : ByChan ChanRec} {o o' : Option Sec} {m m' : LmgState} {l l' : List Report} {r : Report} {k k' d : Nat} {row : Instr}

/-! ### A source that comes back -/

theorem clearExclusion_runHealthy (x : Src) (n : Sec) (s : State) :
    clearExclusion x n (runHealthy x s) = runHealthy x (clearExclusion x n s) := by
  unfold clearExclusion
  split
  · rename_i auto
    rw [if_pos (show s.auto n = true from auto)]
    split
    · rename_i l found
      rw [show (s.ctx n).lost = some l from found]
      dsimp only
      split
      · rename_i is
        rw [if_pos (show s.entrySource ⟨n, l.entry⟩ = some x from is)]
        rfl
      · rename_i isnt
        rw [if_neg (show ¬s.entrySource ⟨n, l.entry⟩ = some x from isnt)]
    · rename_i nothing
      rw [show (s.ctx n).lost = none from nothing]
  · rename_i manual
    rw [if_neg (show ¬s.auto n = true from manual)]

theorem clearExclusion_manual (manual : s.auto n = false) : clearExclusion x n s = s := by
  unfold clearExclusion
  rw [manual]
  rfl

theorem runHealthy_alone (a : s.Alone n) (x : Src) : (runHealthy x s).Alone n := ⟨a.auto, a.other, a.gen, a.pending⟩

/-- What a source that is HEALTHY again makes of a section's lost entry (R104). -/
def SecCtx.cleared (c : SecCtx) (is : Lost → Bool) : SecCtx :=
  { c with lost := c.lost.map fun l => if is l then ⟨l.entry, false⟩ else l }

theorem Acted.clearExclusion (h : Acted n s c w b o m l t) (auto : s.mode n = .auto) (x : Src) :
    Acted n s (c.cleared fun l => t.entrySource ⟨n, l.entry⟩ == some x) w b o m l (clearExclusion x n t) := by
  unfold Machine.clearExclusion State.auto
  rw [h.mode, auto, if_pos (by decide), h.ctx]
  cases found : c.lost with
  | none =>
    rw [show c.cleared _ = c by unfold SecCtx.cleared; rw [found]; exact congrArg (fun q => { c with lost := q }) found.symm]
    exact h
  | some q =>
    dsimp only
    split
    · rename_i is
      have made := h.modSeq fun c => { c with lost := some { q with excluded := false } }
      rwa [show c.cleared _ = { c with lost := some { q with excluded := false } } by
        unfold SecCtx.cleared
        rw [found]
        simp [is]]
    · rename_i isnt
      rw [show c.cleared _ = c by
        unfold SecCtx.cleared
        rw [found]
        simp only [Option.map_some]
        rw [if_neg (by simpa using isnt)]
        exact congrArg (fun q => { c with lost := q }) found.symm]
      exact h

/-- Of a source that is HEALTHY again the section in AUTO is told alone. -/
theorem srcReported_back (a : s.Alone n) :
    srcReported x .healthy s = seqSource n x .healthy (clearExclusion x n (runHealthy x s)) := by
  have clears : clearExclusion x .sec2 (clearExclusion x .sec1 s) = clearExclusion x n s :=
    forSecs_alone (f := clearExclusion x) (fun t => clearExclusion_manual) a (clearExclusion_moves x n .refl)
  have alone := runHealthy_alone (((Acted.refl n s).clearExclusion a.auto x).alone a) x
  unfold srcReported
  rw [if_pos rfl, clears, clearExclusion_runHealthy]
  refine forSecs_alone (f := fun q => seqSource q x .healthy) (fun t manual => ?_) alone (seqSource_moves n x .healthy .refl)
  unfold seqSource
  rw [manual]
  rfl

theorem SourceMoved.ran (h : SourceMoved s x d v) : SourceMoved s x d (runHealthy x v) where
  now := h.now
  calm := h.calm
  seqs := h.seqs
  ccu := h.ccu
  bcu := h.bcu
  owner := h.owner
  lmg := h.lmg
  mdc := by
    obtain ⟨runs, e⟩ := h.mdc
    exact ⟨(runHealthy x v).mdc.runs, by
      rw [show (runHealthy x v).mdc = { v.mdc with runs := (runHealthy x v).mdc.runs } from rfl, e]⟩
  hlc := h.hlc
  pst := h.pst
  buses := h.buses
  adopted := h.adopted
  src := h.src

/-- An event in which one source changes, as the one section in AUTO is told of it. -/
theorem sourceChange_told {act : State → State} {st prev : SrcState} {cause : Cause} (alone : s.AutoAlone n) (moved : SourceMoved s x d v)
    (handled : srcReported x st (s.sourceAt x d st cause) = act v)
    (run : exec row s = .next (settle (report (.srcChanged x prev st cause) (s.sourceAt x d st cause)))) :
    Told row n s v s.bcu s.lmg [] act v := by
  obtain ⟨at_, -⟩ := sourceAt_moved s x d st cause
  have calm : (s.sourceAt x d st cause).agenda = [] := at_.calm.trans alone.1.2
  have front : (report (.srcChanged x prev st cause) (s.sourceAt x d st cause)).agenda = [.srcChanged x prev st cause] := by
    rw [report_agenda, calm]
    rfl
  have whole : ({ report (.srcChanged x prev st cause) (s.sourceAt x d st cause) with agenda := [] } : State) =
      s.sourceAt x d st cause := by
    rw [← calm]
    rfl
  refine ⟨?_, moved.alone alone.alone, moved.calm.trans alone.1.2, moved.restKept n, fun gen => ?_⟩
  · have start := Acted.refl n v
    rw [moved.ctx, moved.ccu, moved.bcu, moved.owner, moved.lmg] at start
    exact start
  · obtain ⟨k, bound, ends⟩ := (Reaches.acts front (by rw [whole]; exact handled) gen (.refl _)).settled
      (g := (at_.alone alone.alone).gen) (by omega)
    exact ⟨k, bound, run.trans (congrArg _ ends)⟩

/-- The end of a PICK timer as the one section in AUTO is told of it (R52, R55, R104). -/
theorem pickExpiry_told (alone : s.AutoAlone n) (timer : (s.squ.srcs.get x).timer = some (.pick, d)) :
    ∃ v, SourceMoved s x d v ∧ v.srcState x = .healthy ∧
      Told (.pickExpiry x) n s v s.bcu s.lmg [] (fun t => seqSource n x .healthy (clearExclusion x n t)) v := by
  obtain ⟨moved, healthy⟩ := sourceAt_moved s x d .healthy .none
  refine ⟨_, moved.ran, healthy, sourceChange_told (prev := (s.squ.srcs.get x).state) alone moved.ran (srcReported_back (moved.alone alone.alone)) ?_⟩
  rw [exec_event rfl alone.1.1, pickExpired_of timer, changeSrc_reached rfl]

/-- The end of a DROP or FAST timer as the one section in AUTO is told of it (R50, R52, R55). -/
theorem dropExpiry_told (alone : s.AutoAlone n)
    (timer : (s.squ.srcs.get x).timer = some (.drop, d) ∨ (s.squ.srcs.get x).timer = some (.fast, d)) :
    ∃ v, SourceMoved s x d v ∧ v.srcState x = .down ∧
      Told (.dropFastExpiry x) n s v s.bcu s.lmg [] (seqSource n x .down) v := by
  obtain ⟨moved, down⟩ := sourceAt_moved s x d .down (s.squ.srcs.get x).cause
  refine ⟨_, moved, down, sourceChange_told (prev := (s.squ.srcs.get x).state) alone moved (srcReported_one (moved.alone alone.alone) (by decide)) ?_⟩
  rw [exec_event rfl alone.1.1, dropExpired_of timer, changeSrc_reached rfl]

/-! ### DECAY -/

/-- An own entry fits as a target exactly where its source is HEALTHY and its channel available (R104). -/
theorem targetFits_own (own : ownSource n f = some x) :
    s.targetFits n ⟨n, f⟩ = (s.srcState x == .healthy && s.avail (srcChan x)) := by
  unfold State.targetFits
  rw [entrySource_of_own own, entryChan_of_own own]
  have not : (f != Entry.tie) = true := bne_iff_ne.mpr (own_ne_tie own)
  simp [not, State.healthy?, State.healthy]

theorem SourceMoved.noneHealthy (h : SourceMoved s x d v) (sick : v.srcState x ≠ .healthy)
    (others : ∀ g : Entry, s.healthy? (s.entrySource ⟨n, g⟩) = true → s.entrySource ⟨n, g⟩ = some x) : v.NoneHealthy n := by
  intro g
  rw [entrySource_congr h.bcu]
  cases is : s.entrySource ⟨n, g⟩ with
  | none => rfl
  | some z =>
    by_cases same : z = x
    · rw [same]
      exact beq_eq_false_iff_ne.mpr sick
    · have still : v.healthy? (some z) = s.healthy? (some z) := congrArg (· == SrcState.healthy) (h.src z same)
      rw [still, ← is]
      by_contra yes
      have eq := others g (by simpa using yes)
      rw [is] at eq
      exact same (Option.some.inj eq)

namespace OpenMove

variable (h : OpenMove s n e y) (st : (s.ctx n).state = .decay)
include h st

/-- The lost source is HEALTHY again in DECAY: it is excluded no more (R104). -/
theorem clears {q : Lost} (lost : (s.ctx n).lost = some q) (own : ownSource n q.entry = some x)
    (timer : (s.squ.srcs.get x).timer = some (.pick, d)) (fits : s.targetFits n e = true) :
    ∃ t, exec (.pickExpiry x) s = .next t ∧ s.RestKept n t ∧ t.ctx n = { s.ctx n with lost := some ⟨q.entry, false⟩ } ∧
      t.bcu = s.bcu := by
  obtain ⟨v, moved, healthy, told⟩ := pickExpiry_told h.alone timer
  have made := told.acted.clearExclusion told.alone.auto x
  have ctx : (s.ctx n).cleared (fun l => v.entrySource ⟨n, l.entry⟩ == some x) = { s.ctx n with lost := some ⟨q.entry, false⟩ } := by
    unfold SecCtx.cleared
    rw [lost]
    simp only [Option.map_some]
    rw [if_pos (beq_iff_eq.mpr (entrySource_of_own own))]
  rw [ctx] at made
  have fits' : (clearExclusion x n v).targetFits n e = true := by
    rw [← h.entry, targetFits_own h.own, Bool.and_eq_true, beq_iff_eq] at fits ⊢
    unfold State.avail at fits ⊢
    rw [made.srcState, made.bcu]
    refine ⟨?_, fits.2⟩
    by_cases same : y = x
    · rw [same]
      exact healthy
    · rw [moved.src y same]
      exact fits.1
  have acts : seqSource n x .healthy (clearExclusion x n v) = clearExclusion x n v := by
    unfold seqSource State.auto
    rw [(made.alone told.alone).auto, if_pos (by decide)]
    dsimp only
    rw [made.ctx, show ({ s.ctx n with lost := some ⟨q.entry, false⟩ } : SecCtx).state = .decay from st]
    dsimp only
    unfold retest
    rw [made.ctx, show ({ s.ctx n with lost := some ⟨q.entry, false⟩ } : SecCtx).target = some e from h.target]
    dsimp only
    rw [if_pos fits']
  have run := told.rests (by rw [acts]; exact made) (fun _ mem => absurd mem List.not_mem_nil) (by simp)
  have cleared := made.cleared told.calm
  dsimp only at run
  rw [acts] at run
  exact ⟨_, run, told.restKept cleared, cleared.ctx, cleared.bcu⟩

/-- The target's source goes DOWN in DECAY, and no other is HEALTHY: the section waits (R117). -/
theorem gives_up (timer : (s.squ.srcs.get y).timer = some (.drop, d)) (feed : (s.ctx n).feed = none)
    (others : ∀ g : Entry, s.healthy? (s.entrySource ⟨n, g⟩) = true → s.entrySource ⟨n, g⟩ = some y) :
    ∃ t, exec (.dropFastExpiry y) s = .next t ∧ s.RestKept n t ∧ t.Waits n ∧ (t.ctx n).lost = (s.ctx n).lost ∧ t.bcu = s.bcu := by
  obtain ⟨v, moved, down, told⟩ := dropExpiry_told h.alone (.inl timer)
  have sick := moved.noneHealthy (by rw [down]; decide) others
  have role : (v.ctx n).role = .sole := by rw [moved.ctx]; exact h.tie.2.2 n
  have shut : v.closed .bkt = false := by unfold State.closed; rw [moved.bcu]; exact h.tie.1
  have unfit : v.targetFits n e = false := by
    rw [← h.entry, targetFits_own h.own, down]
    rfl
  have acts : seqSource n y .down v = enter n .waitSource v := by
    unfold seqSource State.auto
    rw [told.alone.auto, if_pos (by decide), moved.ctx, st]
    dsimp only
    unfold retest
    rw [moved.ctx, h.target]
    dsimp only
    rw [unfit, if_neg (by decide), select_waits (.inr (choose_sick role shut sick))]
  have made := told.acted.enter_resting (st := .waitSource) rfl (by rw [st]; decide)
  rw [← acts] at made
  have run := told.rests made (fun r mem => by
    rw [List.nil_append] at mem
    rw [List.mem_singleton.mp mem]
    exact (made.alone told.alone).passes_seqState) (by simp)
  have cleared := made.cleared told.calm
  exact ⟨_, run, told.restKept cleared, cleared.waits feed, by rw [cleared.ctx]; rfl, cleared.bcu⟩

end OpenMove

end Sys2Proof.Machine
end

section
/-! The open transition of a section in AUTO: CLOSING, and its rows together (R118 to R120, R126). -/

namespace Sys2Proof.Machine

variable {s t u v base : State} {n : Sec} {x y z : Src} {e : SecEntry} {f g : Entry} {c c' : SecCtx} {w w' : Option Watch}
  {b b' : ByChan ChanRec} {o o' : Option Sec} {m m' : LmgState} {l l' : List Report} {r : Report} {k k' d : Nat} {row : Instr}

/-- At an entry into FED the feed's source is DOWN: the feed is lost at once (R107). -/
theorem fedTests_loses (cause : StartCause) (auto : s.mode n = .auto) (st : (s.ctx n).state = .fed)
    (feeds : (s.ctx n).feed.bind (ownSource n) = some x) (down : s.srcState x = .down) :
    fedTests n cause s = loseFeed n cause false s := by
  unfold fedTests State.auto
  rw [auto, st, if_pos (by decide), feeds]
  dsimp only
  rw [if_pos down]

/-- A section in CLOSING towards an own entry by an open transition. -/
structure Closing (s : State) (n : Sec) (e : SecEntry) (y : Src) (p : Operation) : Prop where
  move    : OpenMove s n e y
  st      : (s.ctx n).state = .closing
  closing : (s.bcu.get (srcChan y)).position = .closing
  op      : (s.bcu.get (srcChan y)).op = some p
  close   : p.kind = .close
  req     : p.requester = .seq n
  opened  : (s.bcu.get (srcChan y)).aux.accepted = false
  rests   : s.plan.sec n .autoReturn = 0

namespace Closing

variable {p : Operation} (h : Closing s n e y p)
include h

theorem targetChan : s.targetChan n = some (srcChan y) := by
  unfold State.targetChan
  rw [h.move.target]
  exact congrArg some h.move.chan

theorem moving : (s.bcu.get (srcChan y)).position ≠ .isOpen := by rw [h.closing]; decide

theorem closingOn (told : Acted n base (s.ctx n) w b o m l v) : v.closingOn n (srcChan y) = true := by
  unfold State.closingOn State.targetChan
  rw [told.ctx, h.st, h.move.target]
  simp [h.move.chan]

/-- A close that is confirmed has brought the section onto its target, but for a parallel where the close was stopped. -/
theorem confirmed (told : Told row n s s b m [] (closeConfirmed (srcChan y) n k) v)
    (one : (s.ctx n).closeStop = true → (v.paths n).length ≤ 1) :
    closeConfirmed (srcChan y) n k v =
      transferDone n e (s.now - (s.ctx n).openMs) k (if (s.ctx n).closeStop then .reselect else .loss) v := by
  unfold closeConfirmed State.auto
  rw [(told.acted.alone told.alone).auto, h.closingOn told.acted, if_pos (by decide), told.acted.ctx, h.move.target]
  dsimp only
  rw [if_neg (by simp [h.move.closed])]
  unfold openConfirmed
  dsimp only
  rw [told.acted.ctx, told.acted.now, if_neg, if_neg (by simp [h.move.mine])]
  intro both
  rw [Bool.and_eq_true, decide_eq_true_eq] at both
  have := one both.1
  omega

/-- The close is confirmed: the section is FED by its target. -/
theorem arrives (stop : (s.ctx n).closeStop = false) (up : s.srcState y ≠ .down) :
    ∃ t, exec (.auxAccepted (srcChan y) true) s = .next t ∧ s.RestKept n t ∧ t.FedOn n (some e.entry) ∧
      t.Noted (.transferDone n (s.ctx n).origin (some e) (s.ctx n).method (s.now - (s.ctx n).openMs) (s.ctx n).closeRec.angleSlip
        (some (s.now - p.trigAt))) ∧
      ∀ i, t.island (t.islandIdOf n) = some i → i.cond = .fed → i.restoreAt = some (s.now + s.plan.glob .tStep * 1000) := by
  obtain ⟨m, v, load, told⟩ := closeConfirm_told h.move.alone h.op h.move.tie (srcSec_of_own h.move.own) h.req h.closing h.opened h.st
    h.targetChan
  have acts := h.confirmed told (by simp [stop])
  obtain ⟨m', ann, -, made, noted, restores⟩ := told.acted.transferDone (if_pos h.move.mine) (by rw [h.st]; decide)
    (s.now - (s.ctx n).openMs) (s.now - p.trigAt) (if (s.ctx n).closeStop then .reselect else .loss)
  rw [← acts] at made noted restores
  have pass := made.passes_enterFed told.alone h.rests (fun z is => by
    obtain rfl : y = z := Option.some.inj (h.move.own.symm.trans is)
    exact up) (if (s.ctx n).closeStop then .reselect else .loss)
  have run := told.rests made (fun r mem => pass r (by
    rcases List.mem_append.mp mem with mem | mem
    · split at mem
      · cases mem
      · exact List.mem_cons.mpr (.inl (List.mem_singleton.mp mem))
    · exact List.mem_cons_of_mem _ mem)) (by
      rw [List.length_append, List.nil_append]
      split <;> simp)
  have cleared := made.cleared told.calm
  exact ⟨_, run, told.restKept cleared, cleared.fedOn_of ann, noted, restores⟩

/-- The close fails: the section halts. -/
theorem fails (stop : (s.ctx n).closeStop = false) :
    ∃ t, exec (.closeConfirmDeadline (srcChan y)) s = .next t ∧ s.RestKept n t ∧
      t.HaltedWith n .closing .failToClose (some (srcChan y)) ∧ (t.bcu.get (srcChan y)).position = .faulted := by
  obtain ⟨v, told⟩ := closeDeadline_told h.move.alone h.op h.close h.req h.moving
  have acts : closeFailed (srcChan y) n v = halt n .failToClose (some (srcChan y)) v := by
    unfold closeFailed State.auto
    rw [(told.acted.alone told.alone).auto, h.closingOn told.acted, if_pos (by decide)]
    dsimp only
    rw [told.acted.ctx, if_neg (by simp [h.move.closed]), if_neg (by simp [stop])]
  obtain ⟨t, run, kept, halted, bcu, -⟩ := told.halts (by simp [h.move.tie.2.1]) told.acted acts
    (fun _ _ _ => List.forall_mem_nil _) (by simp)
  rw [h.st] at halted
  refine ⟨t, run, kept, halted, ?_⟩
  rw [bcu, ByChan.get_set_self]
  rfl

/-- The target is locked out: the section halts. -/
theorem locks (clear : (s.bcu.get (srcChan y)).prot.accepted = false) :
    ∃ t, exec (.prtAccepted (srcChan y) true) s = .next t ∧ s.RestKept n t ∧
      t.HaltedWith n .closing .busFault (some (srcChan y)) ∧ (t.bcu.get (srcChan y)).position = .locked := by
  obtain ⟨v, told⟩ := prtAccept_told h.move.alone h.op clear (by rw [h.closing]; decide) h.moving
  have target : v.targetChan n = some (srcChan y) := by
    have target := h.targetChan
    unfold State.targetChan at target ⊢
    rw [told.acted.ctx]
    exact target
  have acts : lockoutEnded (srcChan y) n v = halt n .busFault (some (srcChan y)) v := by
    unfold lockoutEnded State.auto
    rw [(told.acted.alone told.alone).auto, told.acted.ctx, h.st, if_pos (by decide)]
    dsimp only
    rw [if_pos target, if_neg (by simp [h.move.closed])]
  obtain ⟨t, run, kept, halted, bcu, -⟩ := told.halts (by simp [h.move.tie.2.1]) told.acted acts
    (fun t a st => List.forall_mem_singleton.mpr (passes_channelLocked a (srcChan y) st)) (by simp)
  rw [h.st] at halted
  refine ⟨t, run, kept, halted, ?_⟩
  rw [bcu, ByChan.get_set_self]
  rfl

/-- The target's source goes DOWN: the close is stopped (R119). -/
theorem stops (timer : (s.squ.srcs.get y).timer = some (.drop, d)) :
    ∃ t, exec (.dropFastExpiry y) s = .next t ∧ s.RestKept n t ∧ t.ctx n = { s.ctx n with closeStop := true } ∧
      t.bcu = s.bcu.set (srcChan y) (s.bcu.get (srcChan y)).stop := by
  obtain ⟨v, moved, down, told⟩ := dropExpiry_told h.move.alone (.inl timer)
  have made := (told.acted.modChan (srcChan y) ChanRec.stop).modSeq fun c => { c with closeStop := true }
  rw [availReports_unavailable (by rw [told.acted.bcu]; exact h.moving)
    (by unfold ChanRec.stop; dsimp only; exact h.moving), List.append_nil] at made
  have acts : seqSource n y .down v = modSeq n (fun c => { c with closeStop := true }) (modChan (srcChan y) ChanRec.stop v) := by
    have target : v.targetSource n = some y := by
      unfold State.targetSource
      rw [told.acted.ctx, h.move.target]
      exact h.move.source v
    unfold seqSource State.auto
    rw [told.alone.auto, if_pos (by decide), told.acted.ctx, h.st]
    dsimp only
    rw [if_pos ⟨rfl, target⟩]
    unfold stopForDown State.targetChan
    rw [told.acted.ctx, h.move.target]
    dsimp only [Option.map_some]
    rw [h.move.chan]
    rfl
  rw [← acts] at made
  have run := told.rests made (fun _ mem => absurd mem List.not_mem_nil) (by simp)
  have cleared := made.cleared told.calm
  exact ⟨_, run, told.restKept cleared, cleared.ctx, cleared.bcu⟩

/-- A stopped close fails, and no source is HEALTHY: the section waits (R119). -/
theorem gives_up (stop : (s.ctx n).closeStop = true) (sick : s.NoneHealthy n) (feed : (s.ctx n).feed = none) :
    ∃ t, exec (.closeConfirmDeadline (srcChan y)) s = .next t ∧ s.RestKept n t ∧ t.Waits n ∧ (t.ctx n).closeStop = false ∧
      (t.ctx n).openMs = (s.ctx n).openMs := by
  obtain ⟨v, told⟩ := closeDeadline_told h.move.alone h.op h.close h.req h.moving
  have cleared := told.acted.modSeq fun c => { c with closeStop := false }
  obtain ⟨u, hu⟩ : ∃ u, u = modSeq n (fun c => { c with closeStop := false }) v := ⟨_, rfl⟩
  rw [← hu] at cleared
  have same : SameBut n y s u := (SameBut.reached n y p.deadline s).trans
    (cleared.sameBut (cleared.classOne rfl) fun ch ne => ByChan.get_set_other _ _ (Ne.symm ne))
  have mine := srcSec_of_own h.move.own
  have none : u.choose n = none := choose_sick (by rw [cleared.ctx]; exact h.move.tie.2.2 n) (same.bkt.trans h.move.tie.1)
    (same.noneHealthy mine h.move.tie.1 cleared.squ sick)
  have acts : closeFailed (srcChan y) n v = enter n .waitSource u := by
    unfold closeFailed State.auto
    rw [(told.acted.alone told.alone).auto, h.closingOn told.acted, if_pos (by decide)]
    dsimp only
    rw [told.acted.ctx, if_neg (by simp [h.move.closed]), if_pos stop, ← hu, select_waits (.inr none)]
  have made := cleared.enter_resting (st := .waitSource) rfl (by
    rw [show ({ s.ctx n with closeStop := false } : SecCtx).state = .closing from h.st]; decide)
  rw [← acts] at made
  have run := told.rests made (fun r mem => by
    rw [List.nil_append] at mem
    rw [List.mem_singleton.mp mem]
    exact (made.alone told.alone).passes_seqState) (by simp)
  have over_ := made.cleared told.calm
  exact ⟨_, run, told.restKept over_, over_.waits feed, by rw [over_.ctx]; rfl, by rw [over_.ctx]; rfl⟩

/-- A stopped close is confirmed all the same, with its source DOWN: the section is FED and loses its feed at once, and waits
where no source is HEALTHY (R107, R119). -/
theorem arrives_lost (stop : (s.ctx n).closeStop = true) (sick : s.NoneHealthy n) (down : s.srcState y = .down)
    (dead : s.paths n = []) :
    ∃ t, exec (.auxAccepted (srcChan y) true) s = .next t ∧ s.RestKept n t ∧ t.Waits n ∧ (t.ctx n).lost = some ⟨e.entry, true⟩ ∧
      t.Noted (.transferDone n (s.ctx n).origin (some e) (s.ctx n).method (s.now - (s.ctx n).openMs) (s.ctx n).closeRec.angleSlip
        (some (s.now - p.trigAt))) := by
  obtain ⟨m, v, load, told⟩ := closeConfirm_told h.move.alone h.op h.move.tie (srcSec_of_own h.move.own) h.req h.closing h.opened h.st
    h.targetChan
  have mine := srcSec_of_own h.move.own
  have one : v.paths n = [y] := paths_single (by rw [told.acted.closed, ByChan.get_set_other _ _ (srcChan_ne_bkt y)]; exact h.move.tie.1)
    mine (by
      rw [told.acted.closed, ByChan.get_set_self]
      exact congrArg InputPin.accepted (auxChanged_rest (s.bcu.get (srcChan y)) true s.now).1) fun z theirs ne => by
      rw [told.acted.closed, ByChan.get_set_other _ _ fun eq => ne (srcChan_inj eq).symm]
      show s.closed (srcChan z) = false
      by_contra yes
      have mem := (mem_paths h.move.tie.1).mpr ⟨theirs, by simpa using yes⟩
      rw [dead] at mem
      cases mem
  have acts := h.confirmed told (fun _ => by rw [one]; simp)
  rw [stop, if_pos rfl] at acts
  obtain ⟨m', ann, feeders, made, noted, -⟩ := told.acted.transferDone (if_pos h.move.mine) (by rw [h.st]; decide)
    (s.now - (s.ctx n).openMs) (s.now - p.trigAt) .reselect
  rw [← acts] at made noted
  obtain ⟨z, hz⟩ : ∃ z, z = closeConfirmed (srcChan y) n (s.now - p.trigAt) v := ⟨_, rfl⟩
  rw [← hz] at made noted
  have waiting := made.waiting told.calm []
  obtain ⟨u, sel, lost⟩ := waiting.loses (e := e.entry) rfl .reselect false
  have same : SameBut n y s u := lost.sameBut (lost.classOne_kept fun f => by rw [feeders]; exact load.demands f)
    fun ch ne => ByChan.get_set_other _ _ (Ne.symm ne)
  have none : u.choose n = none := choose_sick (by rw [lost.ctx]; exact h.move.tie.2.2 n) (same.bkt.trans h.move.tie.1)
    (same.noneHealthy mine h.move.tie.1 lost.squ sick)
  have fed : ({ z with agenda := [] } : State).ctx n = SecCtx.into { s.ctx n with feed := some e.entry } .fed := waiting.ctx
  have tests : handle (.fedEntry n .reselect) { z with agenda := [] } = enter n .waitSource u := by
    rw [← select_waits (cause := .reselect) (.inr none), ← sel]
    exact fedTests_loses .reselect (waiting.alone told.alone).auto (by rw [fed]; rfl) (by rw [fed]; exact h.move.own)
      ((waiting.srcState y).trans down)
  have ends := lost.enter_resting (st := .waitSource) rfl (by simp [SecCtx.losing, SecCtx.into])
  have alone := ends.alone told.alone
  have last := ends.takes_all told.alone told.calm (by
    simp only [List.nil_append, List.cons_append, List.mem_cons, List.not_mem_nil, or_false]
    rintro r (rfl | rfl)
    · exact alone.passes_seqFeed
    · exact alone.passes_seqState)
  have second := Takes.acts (s := { z with agenda := [.fedEntry n .reselect] }) rfl tests alone.gen last
  have front : z.agenda = ((if (s.ctx n).feed = some e.entry then [] else [.seqFeed n]) ++ [.seqState n]) ++ [.fedEntry n .reselect] := by
    rw [made.agenda, told.calm, List.nil_append, List.nil_append, List.append_assoc]
    rfl
  have aloneZ := made.alone told.alone
  have whole := Takes.passing _ front aloneZ.gen (fun r mem => by
    rcases List.mem_append.mp mem with mem | mem
    · split at mem
      · cases mem
      · rw [List.mem_singleton.mp mem]
        exact aloneZ.passes_seqFeed
    · rw [List.mem_singleton.mp mem]
      exact aloneZ.passes_seqState) second
  have cleared := ends.cleared told.calm
  have grown : NotesGrow z { enter n .waitSource u with agenda := [] } := by
    have moves := (loseFeed_moves n .reselect false .refl : Moves { z with agenda := [] } _).notesGrow
    rw [sel, select_waits (.inr none)] at moves
    exact moves
  rw [hz] at whole aloneZ
  refine ⟨_, told.ends aloneZ.gen whole (by
      rw [List.length_append]
      split <;> simp), told.restKept cleared, cleared.waits rfl, by rw [cleared.ctx]; rfl, grown.noted noted⟩

end Closing

/-- Settles O46. -/
theorem openTransferRuns : Obligations.OpenTransferRuns := by
  unfold Obligations.OpenTransferRuns
  intro s n e y p alone tie
  dsimp only
  intro target mine own closed
  have move : OpenMove s n e y := ⟨alone, tie, target, mine, own, closed⟩
  refine ⟨fun ch z st old ne apart op trip opening => ?_, fun st => ⟨fun q x d lost own timer fits => ?_, fun d timer feed others => ?_⟩,
    fun st closing op close req opened rests => ?_⟩
  · obtain ⟨x, f, ownX, rfl⟩ := oldChan_own old ne
    have h : Opening s n e y x p := ⟨move, srcSec_of_own ownX, fun eq => apart (by rw [eq, move.chan]), st, old, op, trip, opening⟩
    refine ⟨fun one same => ?_, fun shut theirs apart stays up no => ?_, fun none opened => ?_, h.fails, h.locks⟩
    · obtain rfl := srcChan_inj same
      exact h.confirm one
    · exact h.leaves shut theirs (fun eq => apart (by rw [eq])) stays up no
    · exact h.confirmLate none opened
  · exact move.clears st lost own timer fits
  · exact move.gives_up st timer feed others
  · rw [move.chan] at closing op opened ⊢
    have h : Closing s n e y p := ⟨move, st, closing, op, close, req, opened, rests⟩
    exact ⟨h.arrives, fun stop => ⟨h.fails stop, fun d timer => h.stops timer⟩, h.locks, fun stop sick =>
      ⟨h.gives_up stop sick, fun down dead => h.arrives_lost stop sick down dead⟩⟩

end Sys2Proof.Machine
end

section
/-! The states at rest of a section in AUTO: the closing of BKT (R123, R164) meets a section whose lost entry is TIE. -/

namespace Sys2Proof.Machine

set_option maxRecDepth 20000

/-- Section 1 in AUTO has lost TIE and waits for a source, BKT open; SRC1 is HEALTHY again, every channel is available,
and section 2, in MANUAL, stands on BK2. -/
def lostTieBoard : State :=
  let ready : ChanPins := ⟨false, true, true, false⟩
  let booted := State.boot 0 ⟨⟨ready, { ready with aux := true }, ready, ready, ready⟩, false⟩ .unwritten 0 []
  { booted with
    loaded := true
    adopted := true
    pst := { booted.pst with
      pages := booted.pst.pages.set .p1 ⟨defaultItems.put 88 0, .valid, true⟩, active := some .p1 }
    squ := { booted.squ with srcs := booted.squ.srcs.set .src1 ⟨.healthy, .none, none, 0⟩ }
    seqs := booted.seqs.set .sec1 { (booted.ctx .sec1) with state := .waitSource, lost := some ⟨.tie, false⟩ }
    mdc := { booted.mdc with modes := booted.mdc.modes.set .sec1 .auto } }

theorem lostTieBoard_alone : lostTieBoard.AutoAlone .sec1 :=
  ⟨⟨by decide, by decide⟩, fun x => by cases x <;> decide, by decide, by decide, by decide, by decide⟩

theorem lostTieBoard_tieOpen : lostTieBoard.TieOpen := ⟨by decide, by decide, fun n => by cases n <;> decide⟩

/-- The report of BKT's availability comes before the contact's: section 1 begins to transfer to OWN_A. -/
theorem lostTieBoard_opening :
    (match exec (.auxAccepted .bkt true) lostTieBoard with
      | .next t => (t.ctx .sec1).state
      | _ => .halted) = .opening := by decide

/-- Refutes O45: with lost naming TIE, the closing of BKT onto section 2's one path does not feed section 1. The closed
contact makes BKT unavailable and the lost incomer closed; that is reported first, section 1 selects OWN_A, trips BKT, and
stands in OPENING when the contact itself is told. -/
theorem not_restStatesInAuto : ¬ Obligations.RestStatesInAuto := by
  unfold Obligations.RestStatesInAuto
  intro h
  obtain ⟨-, -, -, bktCloses, -⟩ := h lostTieBoard .sec1 .src1 lostTieBoard_alone lostTieBoard_tieOpen
  obtain ⟨t, moved, ⟨fed, -⟩, -⟩ :=
    bktCloses .src2 (.inl (by decide)) (by decide) (by decide) (by decide)
  have opening := lostTieBoard_opening
  rw [moved] at opening
  exact absurd (fed.symm.trans opening) (by decide)

end Sys2Proof.Machine
end

section
/-! MODE_SET (R163, R164) and RESUME (R125). -/

namespace Sys2Proof.Machine

variable {s t u v : State} {n : Sec} {x : Src} {e : SecEntry} {c : SecCtx} {w : Option Watch} {b : ByChan ChanRec}
  {o : Option Sec} {m : LmgState} {l : List Report}

/-! ### The services of MODE_SET -/

section Serving

variable (adopted : s.adopted = true)
include adopted

theorem serveMode_auto (n : Sec) : serveMode (secCode n) 1 s =
    if s.mode n = .auto then .done s ⟨.ok, .mode (s.mode n) (s.ctx n).state⟩
    else if s.pst.active.isNone then refuse .noPlan s
    else .after (toAuto n (setMode n .auto s)) fun t => ⟨.ok, .mode (t.mode n) (t.ctx n).state⟩ := by
  unfold serveMode
  rw [withArg_of (secOf_secCode n), withArg_of (show modeOf 1 = some .auto from rfl), afterStart_on adopted]

theorem serveMode_manual (n : Sec) : serveMode (secCode n) 0 s =
    if s.mode n = .manual then .done s ⟨.ok, .mode (s.mode n) (s.ctx n).state⟩
    else if (s.ctx n).state.mayGoManual then .after (goManual n s) fun t => ⟨.ok, .mode (t.mode n) (t.ctx n).state⟩
    else refuse .busy s := by
  unfold serveMode
  rw [withArg_of (secOf_secCode n), withArg_of (show modeOf 0 = some .manual from rfl), afterStart_on adopted]

theorem serveResume_runs (n : Sec) : serveResume (secCode n) s =
    if (s.ctx n).state ≠ .halted then answerNow .empty s
    else if s.haltStands n then refuse .interlock s
    else answerOk (resumeSection n s) := by
  unfold serveResume
  rw [withArg_of (secOf_secCode n), afterStart_on adopted]

end Serving

theorem SeqState.mayGoManual_iff (st : SeqState) :
    st.mayGoManual = false ↔ st = .opening ∨ st = .closing ∨ st = .overlap := by
  cases st <;> simp [mayGoManual]

/-! ### To AUTO (R164) -/

theorem mode_setMode (n : Sec) (k : Mode) (s : State) : (setMode n k s).mode n = k := BySec.get_set_self _ _ _

theorem mode_setMode_other (n : Sec) (k : Mode) (s : State) : (setMode n k s).mode n.other = s.mode n.other :=
  BySec.get_set_other _ _ (by cases n <;> decide)

theorem State.mode_eq_of_modes (h : t.mdc.modes = s.mdc.modes) (q : Sec) : t.mode q = s.mode q := by
  unfold State.mode
  rw [h]

/-- A section that is HALTED, or on an island of two or more paths, takes the board as it stands (R143, R164). -/
theorem toAuto_rests (st : (s.ctx n).state = .halted ∨ (2 ≤ (s.paths n).length ∧
    ((s.ctx n).state = .fed ∨ (s.ctx n).state = .waitSource ∧ s.closed .bkt = true))) : toAuto n s = s := by
  unfold toAuto
  rcases st with st | ⟨two, st | ⟨st, shut⟩⟩
  · rw [st]
  · rw [st]
    exact if_pos two
  · rw [st]
    exact if_pos ⟨shut, two⟩

/-! ### To MANUAL (R163) -/

/-- A section's context as a change to MANUAL leaves it (R163). -/
def SecCtx.droppedBack (c : SecCtx) : SecCtx :=
  match c.state.dropped with
  | some st => c.into st
  | none => c

theorem Acted.toManual (h : Acted n s c w b o m l t) : ∃ w' m' l', Acted n s c.droppedBack w' b o m' (l ++ l') (toManual n t) ∧
    (∀ r ∈ l', r = .seqState n) ∧ l'.length ≤ 1 := by
  unfold Machine.toManual SecCtx.droppedBack
  rw [h.ctx]
  cases c.state.dropped with
  | none => exact ⟨w, m, [], by rwa [List.append_nil], nofun, by simp⟩
  | some st =>
    refine ⟨_, _, _, h.enter st, fun r mem => ?_, ?_⟩
    · split at mem
      · cases mem
      · exact List.mem_singleton.mp mem
    · split <;> simp

/-- The other section, in MANUAL or in a state at which a report that may change its choice is no event. -/
def State.Undisturbed (s : State) (n : Sec) : Prop := s.mode n.other = .manual ∨ s.closed .bkt = false ∧
  ((s.ctx n.other).state = .fed ∧ s.plan.sec n.other .autoReturn = 0 ∨ (s.ctx n.other).state = .opening ∨
    (s.ctx n.other).state = .closing ∨ (s.ctx n.other).state = .overlap ∨ (s.ctx n.other).state = .halted)

theorem State.Undisturbed.retested (h : s.Undisturbed n) : s.Retested n.other := by
  rcases h with manual | ⟨-, ⟨st, no⟩ | st⟩
  · exact fun wake a => reconsider_manual (s := { s with agenda := a }) manual wake
  · exact .of_fed st (returnDue_of_auto no)
  · exact .of_transfer st

/-- A section that has gone to MANUAL ends its event with the context it dropped to (R163). -/
theorem goManual_ends (gen : s.NoGenerator) (pending : s.pst.pendingPage = none) (calm : s.agenda = [])
    (others : s.Undisturbed n) :
    ∃ w m t, settle (goManual n s) = t ∧
      Acted n (setMode n .manual s) (s.ctx n).droppedBack w s.bcu s.owner m [] t := by
  obtain ⟨w, m, l, made, only, few⟩ := (Acted.refl n (setMode n .manual s)).toManual
  obtain ⟨q, hq, held⟩ : ∃ q, goManual n s = (if s.serving = some n then report (.holdEnded n.other) q else q) ∧
      q = toManual n (setMode n .manual s) := ⟨_, rfl, rfl⟩
  rw [← held] at made
  obtain ⟨l', acted, passing⟩ : ∃ l', Acted n (setMode n .manual s) (s.ctx n).droppedBack w s.bcu s.owner m l' (goManual n s) ∧
      ((∀ r ∈ l', r = .seqState n ∨ r = .holdEnded n.other ∧ s.mode n.other = .manual) ∧ l'.length ≤ 2) := by
    rw [hq]
    split
    · rename_i serves
      have manual : s.mode n.other = .manual := by
        refine others.elim id fun ⟨opened, _⟩ => ?_
        rw [serving_none opened] at serves
        cases serves
      refine ⟨_, made.report (.holdEnded n.other), fun r mem => ?_, by simp; omega⟩
      rcases List.mem_append.mp mem with mem | mem
      · exact .inl (only r mem)
      · exact .inr ⟨List.mem_singleton.mp mem, manual⟩
    · exact ⟨_, made, fun r mem => .inl (only r mem), by simp; omega⟩
  obtain ⟨only, few⟩ := passing
  have plan : (goManual n s).plan = s.plan := acted.plan
  have other : (goManual n s).ctx n.other = s.ctx n.other := acted.other
  have mode : (goManual n s).mode n.other = s.mode n.other := (acted.mode _).trans (mode_setMode_other ..)
  have calm' : (goManual n s).agenda = l' := by
    rw [acted.agenda, show (setMode n .manual s).agenda = [] from calm, List.nil_append]
  have others' : (goManual n s).Undisturbed n := by
    unfold State.Undisturbed
    rw [other, plan, mode, acted.closed]
    exact others
  refine ⟨w, m, _, settle_passing (fun x => by rw [plan]; exact gen x) (fun r mem => ?_) ?_, acted.cleared calm⟩
  · rw [calm'] at mem
    rcases only r mem with rfl | ⟨rfl, manual⟩
    · intro a
      refine (congrArg (reconsider n.other true) (testPending_calm (s := { goManual n s with agenda := a }) ?_)).trans
        (others'.retested true a)
      exact (congrArg PstState.pendingPage acted.pst).trans pending
    · intro a
      show holdEnded n.other { goManual n s with agenda := a } = _
      unfold holdEnded State.auto
      rw [show ({ goManual n s with agenda := a } : State).mode n.other = .manual from mode.trans manual]
      rfl
  · rw [calm']
    omega

/-! ### RESUME (R125) -/

/-- A section's context as an accepted RESUME clears it (R125). -/
def SecCtx.resumed (c : SecCtx) : SecCtx := { c with haltCause := .none, haltChan := none, lost := none }

/-- The halt's cause and the lost entry are cleared. -/
def haltCleared (n : Sec) (s : State) : State := modSeq n SecCtx.resumed s

theorem haltCleared_acted (n : Sec) (s : State) :
    Acted n s (s.ctx n).resumed (s.ccu.watches.get n) s.bcu s.owner s.lmg [] (haltCleared n s) := (Acted.refl n s).modSeq _

theorem resumeSection_feeds (one : s.paths n = [x]) :
    resumeSection n s = enterFed n .loss (setFeed n (some (pathEntry n x)) (haltCleared n s)) := by
  unfold resumeSection
  rw [one]
  rfl

theorem resumeSection_waits (path : s.paths n = []) : resumeSection n s =
    if s.auto n then
      select n .reselect (enter n .waitSource (setFeed n none (haltCleared n s)))
    else enter n .waitSource (setFeed n none (haltCleared n s)) := by
  unfold resumeSection
  rw [path]
  rfl

theorem resumeSection_halted (two : 2 ≤ (s.paths n).length) : resumeSection n s = setFeed n none
    (modSeq n (fun c => { c with haltCause := .parallelFound, haltChan := s.highestClosed n }) (haltCleared n s)) := by
  unfold resumeSection
  split
  · rename_i e
    rw [e] at two
    simp at two
  · rename_i e
    rw [e] at two
    simp at two
  · rfl

section Manual

variable (other : s.mode n.other = .manual) (gen : s.NoGenerator) (pending : s.pst.pendingPage = none) (calm : s.agenda = [])
include other gen pending calm

/-- An event of a section whose reports are for the other one, in MANUAL, and for itself, where it passes them. -/
theorem Acted.ends_beside (h : Acted n s c w b o m l t)
    (pass : ∀ r ∈ l, r = .seqState n ∨ r = .seqFeed n ∨ t.passes r) (few : l.length ≤ 4096) :
    settle t = { t with agenda := [] } := by
  have waiting : t.agenda = l := by rw [h.agenda, calm, List.nil_append]
  have manual (a : List Report) : ({ t with agenda := a } : State).mode n.other = .manual := (h.mode _).trans other
  refine settle_passing (fun x => by rw [h.plan]; exact gen x) (fun r mem => ?_) (by rwa [waiting])
  rw [waiting] at mem
  rcases pass r mem with rfl | rfl | passes
  · exact fun a => (congrArg (reconsider n.other true)
      (testPending_calm (s := { t with agenda := a }) ((congrArg PstState.pendingPage h.pst).trans pending))).trans
      (reconsider_manual (s := { t with agenda := a }) (manual a) true)
  · exact fun a => reconsider_manual (s := { t with agenda := a }) (manual a) false
  · exact passes

/-- A RESUME on an island with two or more paths: the section stays HALTED, and nothing is posted (log entry 14). -/
theorem resume_halted (two : 2 ≤ (s.paths n).length) : ∃ a, settle (resumeSection n s) = { s with
    seqs := s.seqs.set n { (s.ctx n).resumed with
      haltCause := .parallelFound, haltChan := (s.paths n).getLast?.map srcChan, feed := none }, agenda := a } := by
  have made := ((haltCleared_acted n s).modSeq fun c => { c with
    haltCause := .parallelFound, haltChan := s.highestClosed n }).setFeed none
  rw [resumeSection_halted two]
  refine ⟨[], ?_⟩
  rw [made.ends_beside other gen pending calm (fun r mem => ?_) (by simp; split <;> simp), setFeed_eq]
  · simp only [haltCleared, modSeq, State.ctx, BySec.get_set_self]
    cases n <;> rfl
  · rw [List.nil_append] at mem
    split at mem
    · cases mem
    · exact .inr (.inl (List.mem_singleton.mp mem))

end Manual

/-- A section's context as a RESUME on an island with no source path leaves it before selection (R123, R125). -/
def SecCtx.resumedUnfed (c : SecCtx) : SecCtx := SecCtx.into { c.resumed with feed := none } .waitSource

section Alone

variable (a : s.Alone n) (calm : s.agenda = []) (st : (s.ctx n).state = .halted)
include a calm st

/-- A RESUME on one source path: the section is FED by it (R123, R125). -/
theorem resume_feeds (one : s.paths n = [x]) (mine : srcSec x = n) (up : s.srcState x ≠ .down)
    (no : s.plan.sec n .autoReturn = 0) : ∃ m t, settle (resumeSection n s) = t ∧
      Acted n s (SecCtx.into { (s.ctx n).resumed with feed := some (srcEntry x) } .fed) none s.bcu s.owner m [] t ∧
      t.FedOn n (some (srcEntry x)) := by
  have made := ((haltCleared_acted n s).setFeed (some (srcEntry x))).enterFed .loss (by
    rw [show (SecCtx.resumed (s.ctx n)).state = (s.ctx n).state from rfl, st]
    decide)
  have feeds : resumeSection n s = enterFed n .loss (setFeed n (some (srcEntry x)) (haltCleared n s)) := by
    rw [resumeSection_feeds one, show pathEntry n x = srcEntry x from if_pos mine]
  have passes := made.passes_enterFed a no (fun z is => by
    rw [show (some (srcEntry x)).bind (ownSource n) = ownSource n (srcEntry x) from rfl, own_srcEntry mine] at is
    cases is
    exact up) .loss
  rw [feeds, made.ends_all a calm (fun r mem => passes r (by split at mem <;> simp at mem ⊢ <;> tauto)) (by split <;> simp)]
  exact ⟨_, _, rfl, made.cleared calm, (made.cleared calm).fedOn⟩

omit calm in
/-- With no source path a section in AUTO selects at the RESUME (R105, R125). -/
theorem resume_selects (path : s.paths n = []) : ∃ m l u, resumeSection n s = select n .reselect u ∧
    Acted n s (s.ctx n).resumedUnfed none s.bcu s.owner m l u ∧
    m.feeders = s.lmg.feeders ∧ m.anns.get n = none ∧ (∀ r ∈ l, r = .seqFeed n ∨ r = .seqState n) ∧ l.length ≤ 2 := by
  have made := ((haltCleared_acted n s).setFeed none).enter_resting (st := .waitSource) rfl (by
    rw [show (SecCtx.resumed (s.ctx n)).state = (s.ctx n).state from rfl, st]
    decide)
  refine ⟨_, _, _, (resumeSection_waits path).trans (if_pos a.is_auto), made, rfl, BySec.get_set_self _ _ _, fun r mem => ?_, ?_⟩
  · split at mem <;> simp at mem ⊢ <;> tauto
  · split <;> simp

end Alone

/-- The entry that a section with no lost entry selects, with BKT open (R103 to R105). -/
theorem choose_free (role : (s.ctx n).role = .sole) (shut : s.closed .bkt = false) (lost : (s.ctx n).lost = none) :
    s.choose n = (s.prefs n).find? (s.targetFits n) := by
  have same : s.eligible n = s.targetFits n := funext fun e => by
    unfold State.eligible State.excluded
    rw [lost]
    exact Bool.and_true _
  unfold State.choose State.selEntries
  rw [role, serving_none shut, same]
  rfl

/-- A section in AUTO that resumes with no path of its own, BKT open, and the entry it selects. -/
structure Resuming (s : State) (n : Sec) : Prop where
  alone : s.Alone n
  calm  : s.agenda = []
  tie   : s.TieOpen
  st    : (s.ctx n).state = .halted
  paths : s.paths n = []

namespace Resuming

variable (h : Resuming s n)
include h

theorem selects : ∃ m l u, resumeSection n s = select n .reselect u ∧
    Acted n s (s.ctx n).resumedUnfed none s.bcu s.owner m l u ∧
    m.anns.get n = none ∧ (∀ r ∈ l, r = .seqFeed n ∨ r = .seqState n) ∧ l.length ≤ 2 ∧
    u.held n = s.held n ∧ u.choose n = (s.prefs n).find? (s.targetFits n) := by
  obtain ⟨m, l, u, e, made, feeders, ann, only, few⟩ := resume_selects h.alone h.st h.paths
  have one : u.classOne = s.classOne := made.classOne feeders
  have shut : u.closed .bkt = false := (made.same_closed rfl _).trans h.tie.1
  have idle {q : State} (shut : q.closed .bkt = false) : q.serving = none := serving_none shut
  refine ⟨m, l, u, e, made, ann, only, few, ?_, ?_⟩
  · unfold State.held State.heldBy
    rw [made.blocked, made.settles, made.other, idle shut, idle h.tie.1]
  · rw [choose_free (by rw [made.ctx]; exact h.tie.2.2 n) shut (by rw [made.ctx]; rfl), made.prefs,
      show u.targetFits n = s.targetFits n from funext (made.targetFits rfl rfl one)]

/-- With no entry to select, or held, it waits. -/
theorem waits (nothing : (if s.held n then none else (s.prefs n).find? (s.targetFits n)) = none) :
    ∃ c m t, settle (resumeSection n s) = t ∧ Acted n s c none s.bcu s.owner m [] t ∧ t.Waits n ∧
      c.haltCause = .none ∧ c.haltChan = none ∧ c.lost = none := by
  obtain ⟨m, l, u, e, made, ann, only, few, held, choose⟩ := h.selects
  have no : u.held n = true ∨ u.choose n = none := by
    rw [held, choose]
    split at nothing
    · exact .inl ‹_›
    · exact .inr nothing
  have again := made.enter .waitSource
  rw [if_pos (show (s.ctx n).resumedUnfed.state = .waitSource from rfl), List.append_nil] at again
  rw [e, select_waits no]
  have alone := again.alone h.alone
  rw [again.ends_all h.alone h.calm (fun r mem => by
    rcases only r mem with rfl | rfl
    · exact alone.passes_seqFeed
    · exact alone.passes_seqState) (by omega)]
  have done := again.cleared h.calm
  refine ⟨_, _, _, rfl, done, ?_, rfl, rfl, rfl⟩
  unfold State.Waits
  dsimp only
  rw [done.ctx, done.watch, done.lmg]
  refine ⟨rfl, rfl, rfl, rfl, rfl, rfl, ?_⟩
  show (annsIn m.anns n .waitSource .waitSource).get n = none
  unfold annsIn
  rw [if_neg (by simp)]
  exact ann

/-- With an entry that fits it begins a transfer and is in DECAY. -/
theorem begins (found : (if s.held n then none else (s.prefs n).find? (s.targetFits n)) = some e) (live : ¬s.ResidualNow n) :
    ∃ c w m t, settle (resumeSection n s) = t ∧ Acted n s c w s.bcu s.owner m [] t ∧ t.DecayBegun n e ∧
      c.haltCause = .none ∧ c.haltChan = none ∧ c.lost = none ∧
      t.Noted (.transferBegin n none (some e) false .reselect) := by
  obtain ⟨m, l, u, he, made, ann, only, few, held, choose⟩ := h.selects
  obtain ⟨free, first⟩ : s.held n = false ∧ (s.prefs n).find? (s.targetFits n) = some e := by
    split at found
    · cases found
    · exact ⟨by simpa using ‹¬s.held n = true›, found⟩
  have begun := made.beginTransfer .reselect false e
  have noted := made.beginTransfer_noted .reselect false e
  rw [SecCtx.chosen_fresh _ _ _ (by decide)] at begun noted
  have decayed := begun.enterDecay (show SeqState.waitSource ≠ .decay by decide)
  have open_ : openTransition n (beginTransfer n .reselect false e u) = enterDecay n (beginTransfer n .reselect false e u) :=
    Acted.openTransition_open fun x old => by
      unfold State.oldChan at old
      rw [begun.ctx] at old
      cases old
  have alone := decayed.alone h.alone
  rw [he, select_takes (held.trans free) (choose.trans first) (by rw [made.ctx]; exact nofun), open_]
  rw [decayed.ends_all h.alone h.calm (fun r mem => by
    rcases List.mem_append.mp mem with mem | mem
    · rcases only r mem with rfl | rfl
      · exact alone.passes_seqFeed
      · exact alone.passes_seqState
    · simp only [List.mem_cons, List.not_mem_nil, or_false] at mem
      rcases mem with rfl | rfl
      · exact alone.passes_seqState
      · refine passes_decayTest (closeCondition_none ?_ (by rw [decayed.ctx]; rfl) (by rw [decayed.ctx]; rfl)) []
        unfold State.ResidualNow at *
        rwa [decayed.squ, decayed.plan]) (by simp; omega)]
  have done := decayed.cleared h.calm
  refine ⟨_, _, _, _, rfl, done, done.decayBegun rfl rfl, rfl, rfl, rfl, ?_⟩
  exact (NotesGrow.noted (enterDecay_moves n .refl).notesGrow noted :)

end Resuming

theorem passes_fedEntry_manual (manual : s.mode n = .manual) (cause : StartCause) : s.passes (.fedEntry n cause) := by
  intro a
  have manual : ({ s with agenda := a } : State).mode n = .manual := manual
  show fedTests n cause { s with agenda := a } = _
  unfold fedTests State.auto
  rw [manual]
  rfl

/-- A RESUME in MANUAL on at most one source path: the adoption evaluation sets the state and the feed (R123, R125). -/
theorem resume_still (still : s.Still) (st : (s.ctx n).state = .halted) (few : (s.paths n).length ≤ 1) :
    ∃ c w m t, settle (resumeSection n s) = t ∧ Acted n s c w s.bcu s.owner m [] t ∧
      c.state = (if s.paths n = [] then .waitSource else .fed) ∧ c.feed = s.adoptedFeed n ∧
      c.haltCause = .none ∧ c.haltChan = none ∧ c.lost = none := by
  obtain ⟨⟨-, calm⟩, manual, gen, pending⟩ := still
  have away : (s.ctx n).resumed.state ≠ .fed ∧ (s.ctx n).resumed.state ≠ .waitSource := by
    rw [show (s.ctx n).resumed.state = (s.ctx n).state from rfl, st]
    decide
  unfold State.adoptedFeed State.islandSource
  match path : s.paths n with
  | [] =>
    have made := ((haltCleared_acted n s).setFeed none).enter_resting (st := .waitSource) rfl away.2
    rw [resumeSection_waits path, if_neg (by unfold State.auto; rw [manual n]; decide),
      made.ends_beside (manual _) gen pending calm (fun r mem => by split at mem <;> simp at mem <;> tauto) (by split <;> simp)]
    exact ⟨_, _, _, _, rfl, made.cleared calm, rfl, rfl, rfl, rfl, rfl⟩
  | [x] =>
    have made := ((haltCleared_acted n s).setFeed (some (pathEntry n x))).enterFed .loss away.1
    have unheard := passes_fedEntry_manual ((made.mode n).trans (manual n)) .loss
    rw [resumeSection_feeds path, made.ends_beside (manual _) gen pending calm
      (fun r mem => by split at mem <;> simp at mem <;> rcases mem with h | h | h <;> simp_all) (by split <;> simp)]
    exact ⟨_, _, _, _, rfl, made.cleared calm, rfl, rfl, rfl, rfl, rfl⟩
  | _ :: _ :: _ =>
    rw [path] at few
    simp at few

/-- Settles O42. -/
theorem modesAndResume : Obligations.ModesAndResume := by
  intro s tag n ready adopted c o moving undisturbed
  have calm := ready.1.2
  have toAutoServed := serveMode_auto (s := s.awaiting 0x31 tag) adopted n
  have toManualServed := serveMode_manual (s := s.awaiting 0x31 tag) adopted n
  refine ⟨fun auto => ?sameAuto, fun manual => ?sameManual, fun manual no => ?noPlan, fun manual plan => ?toAuto,
    fun auto moves => ?busy, fun auto rests gen pending others => ?toManual, ?resume⟩
  case sameAuto =>
    have is : (s.awaiting 0x31 tag).mode n = .auto := auto
    rw [if_pos is, is] at toAutoServed
    exact exec_done (r := .modeSet (secCode n) 1) rfl ready toAutoServed (replied_twice ..)
  case sameManual =>
    have is : (s.awaiting 0x31 tag).mode n = .manual := manual
    rw [if_pos is, is] at toManualServed
    exact exec_done (r := .modeSet (secCode n) 0) rfl ready toManualServed (replied_twice ..)
  case noPlan =>
    have is : (s.awaiting 0x31 tag).mode n = .manual := manual
    rw [if_neg (by rw [is]; decide), if_pos (by rw [show (s.awaiting 0x31 tag).pst.active = none from no]; rfl)] at toAutoServed
    exact exec_refused (r := .modeSet (secCode n) 1) rfl ready toAutoServed
  case toAuto =>
    obtain ⟨v, hv⟩ : ∃ v, v = setMode n .auto (s.awaiting 0x31 tag) := ⟨_, rfl⟩
    have is : (s.awaiting 0x31 tag).mode n = .manual := manual
    rw [if_neg (by rw [is]; decide), if_neg (by
      rw [Option.isNone_iff_eq_none]
      exact plan), ← hv] at toAutoServed
    have row := exec_after (c := .modeSetAuto tag (secCode n)) (r := .modeSet (secCode n) 1) rfl ready toAutoServed
    have moved : Moves v (settle (toAuto n v)) := settle_moves (toAuto_moves n .refl)
    have mode := State.mode_eq_of_modes moved.modes_eq
    have own : (settle (toAuto n v)).mode n = .auto := (mode n).trans (by rw [hv]; exact mode_setMode ..)
    rw [own] at row
    refine ⟨_, row, own, (mode n.other).trans (by rw [hv]; exact mode_setMode_other ..), moved.hlc_eq.trans (by rw [hv]; rfl),
      moved.pages_eq.trans (by rw [hv]; rfl), rfl, fun st => ?_⟩
    have stays : toAuto n v = v := toAuto_rests (by rw [hv]; exact st)
    have still : settle v = runAll v := settle_none (by rw [hv]; exact calm)
    rw [stays, still]
    have seqs : (runAll v).seqs = s.seqs := by rw [runAll_seqs, hv]; rfl
    exact ⟨congrArg (BySec.get · n) seqs, by
      show (runAll v).bcu = _
      rw [runAll_bcu, hv]
      rfl, seqs⟩
  case busy =>
    have is : (s.awaiting 0x31 tag).mode n = .auto := auto
    rw [if_neg (by rw [is]; decide), if_neg (by
      rw [Bool.not_eq_true, SeqState.mayGoManual_iff]
      exact moves)] at toManualServed
    exact exec_refused (r := .modeSet (secCode n) 0) rfl ready toManualServed
  case toManual =>
    have is : (s.awaiting 0x31 tag).mode n = .auto := auto
    rw [if_neg (by rw [is]; decide), if_pos (by
      rw [← Bool.not_eq_false, SeqState.mayGoManual_iff]
      exact rests)] at toManualServed
    have row := exec_after (c := .modeSetManual tag (secCode n)) (r := .modeSet (secCode n) 0) rfl ready toManualServed
    obtain ⟨w, m, t, ends, h⟩ := goManual_ends (s := s.awaiting 0x31 tag) gen pending calm others
    have own : t.mode n = .manual := (h.mode n).trans (mode_setMode ..)
    rw [ends, own] at row
    have ctx : t.ctx n = c.droppedBack := h.ctx
    refine ⟨_, row, own, (h.mode _).trans (mode_setMode_other ..), ?_⟩
    have same (k : Byte) (ph : Phase) : (setService k tag ph t).ctx n = c.droppedBack := ctx
    rw [same, ctx]
    unfold SecCtx.droppedBack
    refine ⟨?_, ?_, fun drops => ?_, h.other, h.bcu, h.owner, h.hlc, h.pst, rfl⟩
    · cases c.state.dropped <;> rfl
    · cases c.state.dropped <;> rfl
    · obtain ⟨st, drop⟩ := Option.isSome_iff_exists.mp drops
      have rest : st = .waitSource ∨ st = .fed := by
        unfold SeqState.dropped at drop
        split at drop <;> simp at drop <;> simp [← drop]
      rw [drop]
      rcases rest with rfl | rfl <;> exact ⟨rfl, rfl, rfl, rfl, rfl⟩
  case resume =>
    intro cmd ok
    have served := serveResume_runs (s := s.awaiting 0x34 tag) adopted n
    obtain ⟨v, hv⟩ : ∃ v, v = s.awaiting 0x34 tag := ⟨_, rfl⟩
    rw [← hv] at served
    have calmV : v.agenda = [] := by rw [hv]; exact calm
    have row (st : (s.ctx n).state = .halted) (stands : s.haltStands n = false) {t : State}
        (ends : settle (resumeSection n v) = t) : exec cmd s = .next (setService 0x34 tag (.formed ⟨.ok, .empty⟩) t) := by
      rw [← ends]
      rw [if_neg (by rw [hv]; exact fun away => away st), if_neg (by
        rw [Bool.not_eq_true, hv]
        exact stands)] at served
      rw [hv] at served ⊢
      exact exec_after (r := .resume (secCode n)) rfl ready served
    refine ⟨fun away => ?away, fun st stands => ?stands, fun alone tie st stands => ⟨fun x one up no => ?feeds, fun none => ?dead⟩,
      fun still st stands few => ?still, fun beside st stands two => ?two⟩
    case away =>
      rw [if_pos (by rw [hv]; exact away), hv] at served
      exact exec_unmoved (r := .resume (secCode n)) rfl ready served
    case stands =>
      rw [if_neg (by rw [hv]; exact fun away => away st), if_pos (by rw [hv]; exact stands), hv] at served
      exact exec_refused (r := .resume (secCode n)) rfl ready served
    case feeds =>
      have aloneV : v.Alone n := by
        have a := alone.alone
        rw [hv]
        exact ⟨a.auto, a.other, a.gen, a.pending⟩
      have mine : srcSec x = n := ((mem_paths tie.1).mp (by rw [one]; exact List.mem_singleton.mpr rfl)).1
      obtain ⟨m, t, ends, h, fed⟩ := resume_feeds aloneV calmV (by rw [hv]; exact st) (by rw [hv]; exact one) mine
        (by rw [hv]; exact up) (by rw [hv]; exact no)
      have ctx : (setService 0x34 tag (.formed ⟨.ok, .empty⟩) t).ctx n = t.ctx n := rfl
      refine ⟨_, row st stands ends, ?_, fed, ?_, ?_, h.bcu.trans (by rw [hv]; rfl), rfl⟩
      · rw [hv] at h
        exact h.restKept rfl
      · rw [ctx, h.ctx]
        rfl
      · rw [ctx, h.ctx]
        rfl
    case dead =>
      have resuming : Resuming v n := by
        have a := alone.alone
        rw [hv]
        exact ⟨⟨a.auto, a.other, a.gen, a.pending⟩, calm, tie, st, none⟩
      refine ⟨fun nothing => ?_, fun e found live => ?_⟩
      · obtain ⟨c', m, t, ends, h, waits, cause, chan, lost⟩ := resuming.waits (by rw [hv]; exact nothing)
        have ctx : (setService 0x34 tag (.formed ⟨.ok, .empty⟩) t).ctx n = c' := h.ctx
        refine ⟨_, row st stands ends, ?_, waits, by rw [ctx, cause], by rw [ctx, chan], by rw [ctx, lost],
          h.bcu.trans (by rw [hv]; rfl), rfl⟩
        rw [hv] at h
        exact h.restKept rfl
      · obtain ⟨c', w, m, t, ends, h, begun, cause, chan, lost, noted⟩ := resuming.begins (e := e) (by rw [hv]; exact found)
          (by rw [hv]; exact live)
        have ctx : (setService 0x34 tag (.formed ⟨.ok, .empty⟩) t).ctx n = c' := h.ctx
        refine ⟨_, row st stands ends, ?_, begun, by rw [ctx, cause], by rw [ctx, chan], by rw [ctx, lost],
          h.bcu.trans (by rw [hv]; rfl), rfl, noted⟩
        rw [hv] at h
        exact h.restKept rfl
    case still =>
      obtain ⟨c', w, m, t, ends, h, state, feed, cause, chan, lost⟩ := resume_still (s := v) (n := n) (by rw [hv]; exact still)
        (by rw [hv]; exact st) (by rw [hv]; exact few)
      have ctx : (setService 0x34 tag (.formed ⟨.ok, .empty⟩) t).ctx n = c' := h.ctx
      rw [hv] at state feed h
      exact ⟨_, row st stands ends, by rw [ctx]; exact state, by rw [ctx]; exact feed, by rw [ctx, cause],
        by rw [ctx, chan], by rw [ctx, lost], h.other, h.bcu, h.owner, rfl⟩
    case two =>
      obtain ⟨manual, gen, pending⟩ : v.mode n.other = .manual ∧ v.NoGenerator ∧ v.pst.pendingPage = none := by
        rw [hv]
        exact beside.elim (fun still => ⟨still.2.1 _, still.2.2.1, still.2.2.2⟩) fun alone =>
          ⟨alone.2.2.2.2.2, alone.2.1, alone.2.2.1⟩
      obtain ⟨a, ends⟩ := resume_halted manual gen pending calmV (by rw [hv]; exact two)
      refine ⟨_, row st stands ends, ?_⟩
      rw [hv]
      unfold State.ctx setService
      dsimp only
      rw [BySec.get_set_self]
      exact ⟨st, rfl, rfl, rfl, rfl, rfl, rfl, rfl⟩

end Sys2Proof.Machine
end

section
/-! The watched computations of a section in AUTO, and the close condition at a summary of its bus (R65, R66, R111, R116). -/

namespace Sys2Proof.Machine

variable {s t u v g : State} {n : Sec} {x y : Src} {e : SecEntry} {c : SecCtx} {w : Option Watch} {b : ByChan ChanRec}
  {o : Option Sec} {m : LmgState} {l : List Report} {k : Nat} {p : Pair} {r : PairResult} {lines : BySix InLine}

/-! ### Results and their pairs -/

/-- A computation rests on the points, the qualification, the plan and the pair's learned close time (R67 to R71). -/
theorem coincidence_congr (points : t.hlc.points = s.hlc.points) (squ : t.squ = s.squ) (plan : t.plan = s.plan)
    (tc : (t.bcu.get p.chan).tc = (s.bcu.get p.chan).tc) (set : ItemSet) (j : Sec) (nd : Word) :
    t.coincidence p set j nd = s.coincidence p set j nd := by
  have fit (q : Point) : t.incomingFit q = s.incomingFit q := by
    cases q <;> simp [State.incomingFit, State.healthy, State.srcState, squ]
  unfold State.coincidence State.permitTest
  dsimp only
  simp only [points, squ, plan, tc, fit]

theorem coincidence_invalid {ri : PointRec} (gone : s.hlc.points.get (.bus p.busSec) = ri) (lost : ri.valid = false)
    (set : ItemSet) (j : Sec) (nd : Word) : s.coincidence p set j nd = ⟨nd, set, j, .notAvailable .invalid⟩ := by
  unfold State.coincidence
  dsimp only
  rw [gone, lost]
  unfold stage1
  rw [Bool.and_false]

/-- What keeping a result leaves of CCU. -/
theorem keep_frame (p : Pair) (r : PairResult) (s : State) : ∃ q : CcuState, keep p r s = { s with ccu := q } ∧
    q.watches = s.ccu.watches ∧ ∀ t : State, t.ccu.incomers = q.incomers → t.ccu.ties = q.ties → t.kept p = some r := by
  cases p with
  | incomer x => exact ⟨_, rfl, rfl, fun t i _ => by
      unfold State.kept
      dsimp only
      rw [i]
      exact BySrc.get_set_self _ _ _⟩
  | tieTo b => exact ⟨_, rfl, rfl, fun t _ i => by
      unfold State.kept
      dsimp only
      rw [i]
      exact BySec.get_set_self _ _ _⟩

theorem Acted.results (h : Acted n s c w b o m l t) : t.ccu.incomers = s.ccu.incomers ∧ t.ccu.ties = s.ccu.ties := by
  obtain ⟨_, _, _, e⟩ := h.frame
  rw [e]
  exact ⟨rfl, rfl⟩

/-! ### A section that waits for a result -/

/-- A section in AUTO moves towards an own entry, with no other watch set. -/
structure Watching (s : State) (n : Sec) (e : SecEntry) (y : Src) : Prop where
  alone  : s.Alone n
  other  : s.ccu.watches.get n.other = none
  target : (s.ctx n).target = some e
  mine   : e.sec = n
  own    : ownSource n e.entry = some y
  early  : (s.ctx n).decayOver = false
  early' : (s.ctx n).deadOver = false

/-- The context of a section whose result of SYNC carries the permit, at its close (R111). -/
def SecCtx.closingClosed (c : SecCtx) (r : PairResult) (now : Nat) : SecCtx :=
  SecCtx.into { c with method := .closed, closeStop := false, closedTrans := true, closeRec := ⟨r.angleSlip, now⟩ } .closing

namespace Watching

variable (h : Watching s n e y)
include h

theorem entry : e = ⟨n, e.entry⟩ := by
  obtain ⟨q, f⟩ := e
  obtain rfl : q = n := h.mine
  rfl

theorem chan : entryChan e = srcChan y := by
  rw [h.entry]
  exact entryChan_of_own h.own

theorem pair : targetPair e = .incomer y := by
  unfold targetPair
  rw [h.mine, h.own]

theorem pairChan : (targetPair e).chan = entryChan e := by
  rw [h.pair, h.chan]
  rfl

theorem named : (targetPair e).names (.bus n) = true := by
  have bus : (Pair.incomer y).busSec = n := srcSec_of_own h.own
  rw [h.pair]
  unfold Pair.names
  rw [bus]
  simp

theorem busSec : (targetPair e).busSec = n := by
  rw [h.pair]
  exact srcSec_of_own h.own

/-- What CCU computes for the watch is kept and handed to the section (R65, R66). -/
theorem computes {set : ItemSet} {nd : Word} (watch : s.ccu.watches.get n = some ⟨targetPair e, set, n⟩)
    (is : s.coincidence (targetPair e) set n nd = r)
    (others : (handResult n r (keep (targetPair e) r s)).ccu.watches.get n.other = none) :
    handle (.ccuPoint (.bus n) nd) s = handResult n r (keep (targetPair e) r s) := by
  have own : computeWatch (.bus n) nd n s = handResult n r (keep (targetPair e) r s) := by
    unfold computeWatch
    rw [watch]
    dsimp only
    rw [if_pos h.named, is]
  rw [← own]
  exact forSecs_one n (computeWatch_none h.other) (computeWatch_none (by rw [own]; exact others))

theorem kept (r : PairResult) : Watching (keep (targetPair e) r s) n e y := by
  obtain ⟨q, e', watches, -⟩ := keep_frame (targetPair e) r s
  rw [e']
  exact ⟨⟨h.alone.auto, h.alone.other, h.alone.gen, h.alone.pending⟩, by
    rw [show ({ s with ccu := q } : State).ccu.watches = _ from watches]; exact h.other, h.target, h.mine, h.own, h.early, h.early'⟩

/-- A result is noted; without a permit nothing else changes (R111, R116). -/
theorem notes_result (st : (s.ctx n).state = .sync ∨ (s.ctx n).state = .decay ∧ ¬s.ResidualNow n) (no : r.permit = false) :
    handResult n r s = modSeq n (fun c => { c with lastResult := some r }) s := by
  have noted := (Acted.refl n s).modSeq fun c => { c with lastResult := some r }
  unfold handResult
  rw [if_pos h.alone.is_auto, no]
  dsimp only
  rcases st with st | ⟨st, live⟩
  · rw [st]
    rfl
  · rw [st]
    have none : (modSeq n (fun c => { c with lastResult := some r }) s).closeCondition n false = none :=
      closeCondition_none live (by rw [noted.ctx]; exact h.early') (by rw [noted.ctx]; exact h.early)
    dsimp only
    unfold testDecay
    rw [none]
    exact ite_self _

/-- A permit closes the target: as a closed transition in SYNC, IN_PHASE in DECAY (R111, R116). -/
theorem closes (st : (s.ctx n).state = .sync ∨ (s.ctx n).state = .decay ∧ s.plan.sec n .openMethod = 0) (yes : r.permit = true)
    (ok : s.closeRefusal (entryChan e) = none) : ∃ a, Retests n 2 a ∧
    Acted n s (if (s.ctx n).state = .sync then { s.ctx n with lastResult := some r }.closingClosed r s.now
      else { s.ctx n with lastResult := some r }.closingBy .inPhase s.now) none
      (s.bcu.set (entryChan e) (s.closeBegun (entryChan e) (.seq n) s.now)) s.owner s.lmg a (handResult n r s) := by
  have noted := (Acted.refl n s).modSeq fun c => { c with lastResult := some r }
  obtain ⟨v, hv⟩ : ∃ v, v = modSeq n (fun c => { c with lastResult := some r }) s := ⟨_, rfl⟩
  rw [← hv] at noted
  have own := own_ne_tie h.own
  have okV : v.closeRefusal (entryChan e) = none := (noted.closeRefusal rfl _).trans ok
  have handed : handResult n r s = if (s.ctx n).state = .sync then syncClose n r v else testDecay n true [] v := by
    unfold handResult
    rw [if_pos h.alone.is_auto, yes, ← hv]
    rcases st with st | ⟨st, -⟩ <;> rw [st] <;> rfl
  rw [handed]
  rcases st with st | ⟨st, method⟩
  · rw [if_pos st, if_pos st]
    obtain ⟨a, few, begun⟩ := noted.startClose (entryChan e) (.seq n)
    have made := begun.modSeq fun c => { c with
      method := .closed, closeStop := false, closedTrans := true, closeRec := ⟨r.angleSlip, s.now⟩ }
    have entered := made.enter_moving (st := .closing) rfl (show (s.ctx n).state ≠ .closing by rw [st]; decide)
    refine ⟨a ++ [.seqState n], few.append ⟨fun q mem => .inl (List.mem_singleton.mp mem), Nat.le_refl _⟩, ?_⟩
    have target : (v.ctx n).target = some e := by rw [noted.ctx]; exact h.target
    unfold syncClose
    rw [target]
    dsimp only
    rw [closeTarget_own own okV]
    dsimp only
    rw [begun.now]
    exact entered
  · have away : (s.ctx n).state ≠ .sync := by rw [st]; decide
    rw [if_neg away, if_neg away]
    have condition : v.closeCondition n true = some .inPhase := by
      unfold State.closeCondition
      dsimp only
      rw [noted.plan, method]
      exact if_pos ⟨rfl, rfl⟩
    rw [testDecay_holds ((noted.mode n).trans h.alone.auto) (by rw [noted.ctx]; exact st) condition]
    exact noted.decayClose_own h.target own okV .inPhase [] (show (s.ctx n).state ≠ .closing by rw [st]; decide)

end Watching

/-! ### The event that brings a result -/

/-- CCU's report of its bus point reaches a watching section: the result is kept for the pair, the section's acts on it leave
this context, watch and channel records, and the reports they make pass. -/
def ResultTaken (s : State) (n : Sec) (p : Pair) (r : PairResult) (nd : Word) (c : SecCtx) (w : Option Watch)
    (b : ByChan ChanRec) : Prop :=
  ∃ q k t, k ≤ 10 ∧ Takes k (handle (.ccuPoint (.bus n) nd) s) t ∧ (handle (.ccuPoint (.bus n) nd) s).NoGenerator ∧
    Acted n { s with ccu := q } c w b s.owner s.lmg [] t ∧ t.kept p = some r

namespace Watching

variable (h : Watching s n e y) (calm : s.agenda = []) {set : ItemSet} {nd : Word}
  (watch : s.ccu.watches.get n = some ⟨targetPair e, set, n⟩) (is : s.coincidence (targetPair e) set n nd = r)
include h calm watch is

theorem takes_quiet (st : (s.ctx n).state = .sync ∨ (s.ctx n).state = .decay ∧ ¬s.ResidualNow n) (no : r.permit = false) :
    ResultTaken s n (targetPair e) r nd { s.ctx n with lastResult := some r } (s.ccu.watches.get n) s.bcu := by
  obtain ⟨q, keeps, watches, kept⟩ := keep_frame (targetPair e) r s
  have hk := h.kept r
  have notes := hk.notes_result (r := r) (by rw [keeps]; exact st) no
  rw [keeps] at notes hk
  have made := (Acted.refl n { s with ccu := q }).modSeq fun c => { c with lastResult := some r }
  rw [← notes] at made
  have row := h.computes watch is (by rw [keeps, made.watch_other]; exact hk.other)
  rw [keeps] at row
  rw [show ({ s with ccu := q } : State).ccu.watches.get n = s.ccu.watches.get n from congrArg (BySec.get · n) watches] at made
  refine ⟨q, 0, _, by omega, ?_, ?_, made, kept _ made.results.1 made.results.2⟩
  · rw [row]
    exact .done (made.agenda.trans ((List.append_nil _).trans calm))
  · rw [row]
    exact (made.alone hk.alone).gen

theorem takes_permit (st : (s.ctx n).state = .sync ∨ (s.ctx n).state = .decay ∧ s.plan.sec n .openMethod = 0) (yes : r.permit = true)
    (ok : s.closeRefusal (entryChan e) = none) :
    ResultTaken s n (targetPair e) r nd
      (if (s.ctx n).state = .sync then { s.ctx n with lastResult := some r }.closingClosed r s.now
        else { s.ctx n with lastResult := some r }.closingBy .inPhase s.now) none
      (s.bcu.set (entryChan e) (s.closeBegun (entryChan e) (.seq n) s.now)) := by
  obtain ⟨q, keeps, watches, kept⟩ := keep_frame (targetPair e) r s
  have hk := h.kept r
  have closes := hk.closes (r := r) (by rw [keeps]; exact st) yes (by rw [keeps]; exact ok)
  rw [keeps] at closes hk
  obtain ⟨a, few, made⟩ := closes
  have row := h.computes watch is (by rw [keeps, made.watch_other]; exact hk.other)
  rw [keeps] at row
  have alone := made.alone hk.alone
  have closing : ((handResult n r { s with ccu := q }).ctx n).state = .closing := by
    rw [made.ctx]
    split <;> rfl
  have done := made.cleared calm
  refine ⟨q, a.length, _, few.few.trans (by omega), ?_, ?_, done, kept _ done.results.1 done.results.2⟩
  · rw [row]
    exact made.takes_all hk.alone calm fun r mem => alone.passes (.of_transfer (.inr (.inl closing))) (few.each r mem)
  · rw [row]
    exact alone.gen

end Watching

/-! ### A summary of the section's bus -/

/-- The state when a section's bus point has brought its bus into a state, and the reports of it wait (R27, R57, R58). -/
structure BusMoved (s : State) (n : Sec) (now : BusState) (l : List Report) (a : State) : Prop where
  frame : ∃ hlc port r, a = { s with
    hlc := hlc, squ := { s.squ with buses := s.squ.buses.set n r }, spt := port, agenda := l } ∧ r.state = now

/-- What a summary makes of its bus, and the report of the change (R57). -/
theorem judgeBus_frame (b : Sec) (m : Summary) (s : State) : ∃ r, judgeBus b m s = { s with
    squ := { s.squ with buses := s.squ.buses.set b r }
    agenda := s.agenda ++ if (s.squ.buses.get b).state = s.plan.busState b m.vmax then []
      else [.busChanged b (s.squ.buses.get b).state (s.plan.busState b m.vmax)] } ∧ r.state = s.plan.busState b m.vmax := by
  unfold judgeBus setBus
  dsimp only
  split
  · rename_i same
    exact ⟨{ s.squ.buses.get b with vmax := m.vmax }, by rw [List.append_nil], same⟩
  · exact ⟨_, rfl, rfl⟩

/-- A frame that brings a summary of one bus point and no other event (R27, R57, R65). -/
theorem busFrame (calm : s.Calm) (gen : s.NoGenerator) {h : HeadPlace} {m : Summary} (running : s.hlc.running = true)
    (idle : s.hlc.discovery = .idle) (free : s.hlc.slot = none) (bound : (s.hlc.points.get (.bus n)).bound = some h)
    (good : (lines.get h.line).good h.addr = true) (sum : (lines.get h.line).summary s.hlc.frameNo = some m)
    (others : ∀ q, q ≠ .bus n → s.eventful lines s.hlc.frameNo q = false) : ∃ a, BusMoved s n (s.plan.busState n m.vmax)
      ((if (s.squ.buses.get n).state = s.plan.busState n m.vmax then []
        else [.busChanged n (s.squ.buses.get n).state (s.plan.busState n m.vmax)]) ++ [.ccuPoint (.bus n) s.hlc.frameNo]) a ∧
    exec (.headFrameEnd lines) s =
      .next (beginFrame (s.hlc.frameNo + 1) (sixNext s.hlc.outTurn) (settle (settle a))) := by
  obtain ⟨out, none⟩ := calm
  obtain ⟨pts, kept, ended⟩ := frameEnd_one (lines := lines) none gen running idle free (eventful_of_summary bound good sum) others
  obtain ⟨v, hv⟩ : ∃ v : State, v = { s.ending with hlc := { s.ending.hlc with points := pts } } := ⟨_, rfl⟩
  obtain ⟨pts', port, marked, -⟩ := goodFrame_frame (.bus n) h (lines.get h.line) v
  have bound' : (v.hlc.points.get (.bus n)).bound = some h := by
    rw [hv]
    exact (congrArg PointRec.bound kept).trans bound
  rw [← hv, pointFrame_arrival (s := v) bound' good sum, marked] at ended
  refine ⟨_, ?_, (exec_act (f := frameEnd lines) rfl out).trans (congrArg _ ended)⟩
  obtain ⟨hlc, moved⟩ : ∃ hlc, modPoint (.bus n) (fun r => { r with last := some m, fresh := true })
      { v with hlc := { v.hlc with points := pts' }, spt := port } = { s with hlc := hlc, spt := port } := by
    rw [hv]
    exact ⟨_, rfl⟩
  obtain ⟨r, judged, state⟩ := judgeBus_frame n m { s with hlc := hlc, spt := port }
  unfold arrive judge
  dsimp only
  rw [summary_arrival sum, moved, judged]
  refine ⟨hlc, port, r, ?_, state⟩
  unfold report
  rw [none]
  rfl

theorem Takes.calm (h : Takes k s t) : t.agenda = [] := by
  induction h with
  | done calm => exact calm
  | step _ _ ih => exact ih

/-- The arrival's event has ended once its reports are taken. -/
theorem Takes.settled_twice (h : Takes k s t) (g : s.NoGenerator) (gen : t.NoGenerator) (few : k ≤ 4096) :
    settle (settle s) = t := by
  rw [h.settled g few, settle_none h.calm, runAll_noGenerator gen]

section Frame

variable {a : State} {now : BusState}

/-- The arrival itself is no event for the section: its context, the watches, the board and the plan are as they were. -/
theorem BusMoved.watching (h : BusMoved s n now l a) (is : Watching s n e y) (q : List Report) :
    Watching { a with agenda := q } n e y := by
  obtain ⟨hlc, port, r, frame, -⟩ := h.frame
  rw [frame]
  exact ⟨⟨is.alone.auto, is.alone.other, is.alone.gen, is.alone.pending⟩, is.other, is.target, is.mine, is.own, is.early, is.early'⟩

theorem BusMoved.agenda (h : BusMoved s n now l a) : a.agenda = l := by
  obtain ⟨_, _, _, frame, -⟩ := h.frame
  rw [frame]

theorem BusMoved.bus (h : BusMoved s n now l a) : (a.squ.buses.get n).state = now := by
  obtain ⟨_, _, r, frame, state⟩ := h.frame
  rw [frame, ← state]
  exact congrArg BusRec.state (BySec.get_set_self _ _ _)

/-- A bus that becomes DEAD closes the target of DECAY by RESIDUAL, before CCU computes (R116). -/
theorem BusMoved.residual {nd : Word} {old new : BusState} (h : BusMoved s n .dead [.busChanged n old new, .ccuPoint (.bus n) nd] a)
    (is : Watching s n e y) (st : (s.ctx n).state = .decay) (method : s.plan.sec n .openMethod ≤ 1)
    (ok : s.closeRefusal (entryChan e) = none) :
    ∃ q g m t, settle (settle a) = t ∧ g = { a with agenda := [], ccu := q } ∧ Acted n g ((s.ctx n).closingBy .residual s.now) none
      (s.bcu.set (entryChan e) (s.closeBegun (entryChan e) (.seq n) s.now)) s.owner m [] t := by
  obtain ⟨g, hg⟩ : ∃ g : State, g = { a with agenda := [] } := ⟨_, rfl⟩
  have isG : Watching g n e y := hg ▸ h.watching is []
  have calm : g.agenda = [] := by rw [hg]
  have bus : (g.squ.buses.get n).state = .dead := by rw [hg]; exact h.bus
  obtain ⟨hlc, port, r, frame, -⟩ := h.frame
  have ctx : g.ctx n = s.ctx n := by rw [hg, frame]; rfl
  have waiting := (Acted.refl n g).waiting calm [.ccuPoint (.bus n) nd]
  have residual : ({ g with agenda := [.ccuPoint (.bus n) nd] } : State).closeCondition n false = some .residual :=
    closeCondition_residual ⟨bus, by rw [hg, frame]; exact method⟩
  obtain ⟨l', few, closed⟩ := waiting.decayClose_own (by rw [ctx]; exact is.target) (own_ne_tie is.own)
    (show ({ g with agenda := [.ccuPoint (.bus n) nd] } : State).closeRefusal (entryChan e) = none by rw [hg, frame]; exact ok)
    .residual [] (by rw [ctx, st]; decide)
  rw [← testDecay_holds (s := { g with agenda := [.ccuPoint (.bus n) nd] }) isG.alone.auto
    (show (g.ctx n).state = .decay by rw [ctx, st]) residual] at closed
  have next := closed.waiting calm l'
  have alone := next.alone isG.alone
  obtain ⟨q, computed, watches⟩ := ccuPoint_idle (p := .bus n) (nd := nd) alone next.watch
  have made := next.kept_result (q := q) (by rw [watches]; exact next.watch)
  have aloneQ : ({ g with ccu := q } : State).Alone n :=
    ⟨isG.alone.auto, isG.alone.other, isG.alone.gen, isG.alone.pending⟩
  have finals := made.alone aloneQ
  have last := made.takes_all aloneQ calm fun r mem => finals.passes (.of_transfer (.inr (.inl (by rw [made.ctx]; rfl)))) (few.each r mem)
  have second := Takes.acts (closed.front calm) computed finals.gen last
  have front : a.agenda = .busChanged n old new :: [.ccuPoint (.bus n) nd] := h.agenda
  have first := Takes.acts front (u := testDecay n false [] { g with agenda := [.ccuPoint (.bus n) nd] })
    (by rw [hg]; rfl) (closed.alone isG.alone).gen second
  have gen : a.NoGenerator := by rw [frame]; exact is.alone.gen
  have few' := few.few
  have done := made.cleared calm
  refine ⟨q, { g with ccu := q }, s.lmg, _, first.settled_twice gen (done.alone aloneQ).gen (by omega), by rw [hg], ?_⟩
  rw [hg, frame] at done ⊢
  exact done

/-- A change of its bus is nothing to a section that is not in DECAY, or whose close condition does not hold (R116). -/
theorem passes_busChanged {old new : BusState} (no : (s.ctx n).state ≠ .decay ∨ s.closeCondition n false = none) :
    s.passes (.busChanged n old new) := by
  intro q
  show testDecay n false [] { s with agenda := q } = _
  rcases no with away | no
  · have away : ((({ s with agenda := q } : State).ctx n).state == SeqState.decay) = false := beq_eq_false_iff_ne.mpr away
    unfold testDecay
    rw [away, Bool.and_false]
    rfl
  · exact passes_decayTest no [] q

/-- The event of an arrival comes to CCU's report where the change of the bus is nothing to the section. -/
theorem BusMoved.computes {nd : Word} {pre : List Report} {c' : SecCtx} {w' : Option Watch} {b' : ByChan ChanRec}
    (h : BusMoved s n now (pre ++ [.ccuPoint (.bus n) nd]) a) (is : Watching s n e y)
    (pass : ∀ r ∈ pre, a.passes r) (few : pre.length ≤ 1)
    (taken : ResultTaken { a with agenda := [] } n p r nd c' w' b') :
    ∃ q k t, k ≤ 4000 ∧ Takes k a t ∧ t.NoGenerator ∧ Acted n { a with agenda := [], ccu := q } c' w' b' a.owner a.lmg [] t ∧
      t.kept p = some r := by
  obtain ⟨q, k, t, short, takes, gen, acted, kept⟩ := taken
  have isA := h.watching is []
  have next : Takes (k + 1) { a with agenda := [.ccuPoint (.bus n) nd] } t := Takes.acts rfl rfl gen takes
  have all := Takes.passing pre h.agenda isA.alone.gen pass next
  have genT : t.NoGenerator := fun x => by
    rw [acted.plan]
    exact isA.alone.gen x
  exact ⟨q, _, t, by omega, all, genT, acted, kept⟩

/-- A bus head that is LOST (R30, R58): the point is reported invalid, and its bus is UNKNOWN. -/
theorem busLost (alone : s.AutoAlone n) (valid : s.pointValid (.bus n) = true) : ∃ a pre,
    BusMoved s n .unknown (pre ++ [.ccuPoint (.bus n) s.lastFrame]) a ∧ (pre = [] ∨ ∃ old, pre = [.busChanged n old .unknown]) ∧
    (a.hlc.points.get (.bus n)).valid = false ∧
    ∀ k t, Takes k a t → k ≤ 4000 → exec (.headLost (.bus n)) s = .next t := by
  have calm := alone.1.2
  unfold State.pointValid PointRec.valid at valid
  simp only [Bool.and_eq_true, beq_iff_eq] at valid
  obtain ⟨⟨bound, present⟩, fresh⟩ := valid
  obtain ⟨h, bound⟩ := Option.isSome_iff_exists.mp bound
  obtain ⟨v, hv⟩ : ∃ v, v = post (.headLost (.bus n) h) (modPoint (.bus n) (fun r => { r with status := .lost, loss := 32 }) s) :=
    ⟨_, rfl⟩
  obtain ⟨hlc, port, frame, lost⟩ : ∃ hlc port, v = { s with hlc := hlc, spt := port } ∧
      (hlc.points.get (.bus n)).valid = false := by
    refine ⟨_, _, hv.trans (post_eq _ _), ?_⟩
    simp [modPoint, PointRec.valid]
  have row : headLost (.bus n) s = report (.pointInvalid (.bus n) s.lastFrame) v := by
    rw [headLost_of bound present, ← hv]
    unfold reportInvalid State.pointValid
    rw [frame, lost]
    exact if_pos ⟨by simp [PointRec.valid, bound, present, fresh], rfl⟩
  obtain ⟨r, pre, made, state, few⟩ : ∃ r pre, handle (.pointInvalid (.bus n) s.lastFrame) { v with agenda := [] } =
      { s with
        hlc := hlc, spt := port, squ := { s.squ with buses := s.squ.buses.set n r }
        agenda := pre ++ [.ccuPoint (.bus n) s.lastFrame] } ∧ r.state = BusState.unknown ∧
      (pre = [] ∨ ∃ old, pre = [.busChanged n old .unknown]) := by
    show ∃ r pre, report _ (setBus n .unknown _ _) = _ ∧ _
    rw [frame]
    unfold setBus
    dsimp only
    split
    · rename_i same
      exact ⟨{ s.squ.buses.get n with vmax := (s.squ.buses.get n).vmax }, [], rfl, same, .inl rfl⟩
    · exact ⟨_, [_], rfl, rfl, .inr ⟨_, rfl⟩⟩
  refine ⟨_, pre, ⟨hlc, port, r, rfl, state⟩, few, lost, fun k t taken short => ?_⟩
  have gen : (report (.pointInvalid (.bus n) s.lastFrame) v).NoGenerator := by
    rw [frame]
    exact alone.2.1
  have front : (report (.pointInvalid (.bus n) s.lastFrame) v).agenda = .pointInvalid (.bus n) s.lastFrame :: [] := by
    rw [report_agenda, frame]
    exact congrArg (· ++ _) calm
  have first := Takes.acts front made alone.2.1 taken
  rw [exec_event (f := headLost (.bus n)) rfl alone.1.1, row, first.settled gen (by omega)]

theorem tc_closeBegun (s : State) (ch d : Chan) (q : Requester) (k : Nat) :
    ((s.bcu.set ch (s.closeBegun ch q k)).get d).tc = (s.bcu.get d).tc := by
  by_cases same : d = ch
  · rw [same, ByChan.get_set_self]
    rfl
  · rw [ByChan.get_set_other _ _ (Ne.symm same)]

/-- The event's end, where the result computed at it can be read off again. -/
theorem BusMoved.ends {nd : Word} {pre : List Report} {set : ItemSet} {c' : SecCtx} {w' : Option Watch} {b' : ByChan ChanRec}
    (h : BusMoved s n now (pre ++ [.ccuPoint (.bus n) nd]) a) (is : Watching s n e y)
    (pass : ∀ r ∈ pre, a.passes r) (few : pre.length ≤ 1)
    (taken : ResultTaken { a with agenda := [] } n (targetPair e)
      (({ a with agenda := [] } : State).coincidence (targetPair e) set n nd) nd c' w' b')
    (tc : ∀ d, (b'.get d).tc = (s.bcu.get d).tc) :
    ∃ k t, k ≤ 4000 ∧ Takes k a t ∧ t.NoGenerator ∧ t.ctx n = c' ∧ t.ctx n.other = s.ctx n.other ∧ t.bcu = b' ∧
      t.ccu.watches.get n = w' ∧
      t.coincidence (targetPair e) set n nd = ({ a with agenda := [] } : State).coincidence (targetPair e) set n nd ∧
      t.kept (targetPair e) = some (({ a with agenda := [] } : State).coincidence (targetPair e) set n nd) := by
  obtain ⟨q, k, t, short, takes, gen, acted, kept⟩ := h.computes is pass few taken
  obtain ⟨hlc, port, r, frame, -⟩ := h.frame
  refine ⟨k, t, short, takes, gen, acted.ctx, ?_, acted.bcu, acted.watch, ?_, kept⟩
  · rw [acted.other, frame]
    rfl
  · refine coincidence_congr (congrArg HlcState.points acted.hlc) acted.squ acted.plan ?_ set n nd
    rw [acted.bcu, tc, frame]

/-- What a change of the bus is to a watching section whose bus is not closed on by RESIDUAL. -/
theorem BusMoved.passes {old new : BusState} (h : BusMoved s n now l a) (is : Watching s n e y)
    (live : (s.ctx n).state = .sync ∨ ¬(now = .dead ∧ s.plan.sec n .openMethod ≤ 1)) : a.passes (.busChanged n old new) := by
  have bus := h.bus
  obtain ⟨hlc, port, r, frame, -⟩ := h.frame
  refine passes_busChanged ?_
  rcases live with st | live
  · refine .inl ?_
    rw [show a.ctx n = s.ctx n by rw [frame]; rfl, st]
    decide
  · refine .inr (closeCondition_none ?_ ?_ ?_)
    · rintro ⟨dead, method⟩
      refine live ⟨bus.symm.trans dead, ?_⟩
      rw [frame] at method
      exact method
    · rw [frame]
      exact is.early'
    · rw [frame]
      exact is.early

end Frame

/-- Settles O48. -/
theorem watchesDecide : Obligations.WatchesDecide := by
  intro s n e y alone idle c ch target mine own early early' w
  have is : Watching s n e y := ⟨alone.alone, idle, target, mine, own, early, early'⟩
  refine ⟨fun lines h m running off free bound good sum others => ?arrives, fun st watch valid => ?lost⟩
  case arrives =>
    obtain ⟨a, moved, row⟩ := busFrame alone.1 alone.2.1 running off free bound good sum others
    intro Closing
    refine ⟨fun st method live dead ok => ?residual, fun st watch ok => ?computed⟩
    case residual =>
      rw [dead, if_neg live] at moved
      obtain ⟨q, g, m', t, ends, -, made⟩ := moved.residual is st method ok
      rw [ends] at row
      have ctx : (beginFrame (s.hlc.frameNo + 1) (sixNext s.hlc.outTurn) t).ctx n = c.closingBy .residual s.now := made.ctx
      refine ⟨_, row, ?_⟩
      dsimp only [Closing]
      rw [ctx]
      exact ⟨⟨rfl, rfl, target, rfl, rfl, rfl, rfl, made.watch, made.bcu⟩, rfl⟩
    case computed =>
      obtain ⟨g, hg⟩ : ∃ g : State, g = { a with agenda := [] } := ⟨_, rfl⟩
      have isG : Watching g n e y := hg ▸ moved.watching is []
      have bus : (g.squ.buses.get n).state = s.plan.busState n m.vmax := by rw [hg]; exact moved.bus
      have moved' := moved
      obtain ⟨hlc, port, q, frame, -⟩ := moved'.frame
      have same : g = { s with hlc := hlc, squ := { s.squ with buses := s.squ.buses.set n q }, spt := port, agenda := [] } := by
        rw [hg, frame]
      have ctx : g.ctx n = c := by rw [same]; rfl
      have watchG : g.ccu.watches.get n = some w := by rw [same]; exact watch
      have okG : g.closeRefusal ch = none := by rw [same]; exact ok
      have planG : g.plan = s.plan := by rw [same]; rfl
      have live : c.state = .sync ∨ ¬(s.plan.busState n m.vmax = .dead ∧ s.plan.sec n .openMethod ≤ 1) :=
        st.imp id fun ⟨_, _, live⟩ dead => live dead.1
      obtain ⟨r, hr⟩ : ∃ r, g.coincidence (targetPair e) w.set n s.hlc.frameNo = r := ⟨_, rfl⟩
      have tail {c' w' b'} (taken : ResultTaken g n (targetPair e) r s.hlc.frameNo c' w' b')
          (tc : ∀ d, (b'.get d).tc = (s.bcu.get d).tc) : ∃ t, exec (.headFrameEnd lines) s = .next t ∧
          t.coincidence (targetPair e) w.set n s.hlc.frameNo = r ∧ t.kept (targetPair e) = some r ∧ t.ctx n.other = s.ctx n.other ∧
          t.ctx n = c' ∧ t.bcu = b' ∧ t.ccu.watches.get n = w' := by
        rw [hg] at hr taken
        rw [← hr] at taken ⊢
        obtain ⟨k, t, short, takes, gen, own, other, bcu, watches, again, kept⟩ := moved.ends is
          (fun r mem => by
            split at mem
            · cases mem
            · rw [List.mem_singleton.mp mem]
              exact moved.passes is live) (by split <;> simp) taken tc
        rw [takes.settled_twice (by rw [frame]; exact alone.2.1) gen (by omega)] at row
        exact ⟨_, row, again, kept, other, own, bcu, watches⟩
      cases permit : r.permit with
      | true =>
        have method : (g.ctx n).state = .sync ∨ (g.ctx n).state = .decay ∧ g.plan.sec n .openMethod = 0 := by
          rw [ctx, planG]
          exact st.imp id fun ⟨decay, method, _⟩ => ⟨decay, method⟩
        have taken := isG.takes_permit (by rw [hg]) watchG hr method permit okG
        have now : g.now = s.now := by rw [same]
        have begun : g.bcu.set ch (g.closeBegun ch (.seq n) g.now) = s.bcu.set ch (s.closeBegun ch (.seq n) s.now) := by
          rw [same]
          rfl
        rw [begun, ctx, now] at taken
        obtain ⟨t, run, again, kept, other, own, bcu, watches⟩ := tail taken (tc_closeBegun s ch · _ _)
        refine ⟨t, run, ?_⟩
        dsimp only [Closing]
        rw [show t.coincidence w.pair w.set n s.hlc.frameNo = r from again, own]
        refine ⟨kept, other, fun _ => ?_, fun no => absurd (permit.symm.trans no) (by decide)⟩
        by_cases sync : c.state = .sync
        · rw [if_pos sync, if_pos sync]
          exact ⟨⟨rfl, rfl, target, rfl, rfl, rfl, rfl, watches, bcu⟩, rfl⟩
        · rw [if_neg sync, if_neg sync]
          exact ⟨⟨rfl, rfl, target, rfl, rfl, rfl, rfl, watches, bcu⟩, rfl⟩
      | false =>
        have quiet : (g.ctx n).state = .sync ∨ (g.ctx n).state = .decay ∧ ¬g.ResidualNow n := by
          rw [ctx]
          refine st.imp id fun ⟨decay, _, live⟩ => ⟨decay, fun now => live (bus.symm.trans now.1)⟩
        have taken := isG.takes_quiet (by rw [hg]) watchG hr quiet permit
        rw [ctx, show g.bcu = s.bcu by rw [same]] at taken
        obtain ⟨t, run, again, kept, other, own, bcu, watches⟩ := tail taken (fun _ => rfl)
        refine ⟨t, run, ?_⟩
        dsimp only
        rw [show t.coincidence w.pair w.set n s.hlc.frameNo = r from again]
        exact ⟨kept, other, fun yes => absurd (permit.symm.trans yes) (by decide), fun _ => ⟨own, bcu, watches.trans watchG⟩⟩
  case lost =>
    obtain ⟨a, pre, moved, few, invalid, runs⟩ := busLost alone valid
    obtain ⟨g, hg⟩ : ∃ g : State, g = { a with agenda := [] } := ⟨_, rfl⟩
    have isG : Watching g n e y := hg ▸ moved.watching is []
    have bus : (g.squ.buses.get n).state = .unknown := by rw [hg]; exact moved.bus
    have moved' := moved
    obtain ⟨hlc, port, q, frame, -⟩ := moved'.frame
    have same : g = { s with hlc := hlc, squ := { s.squ with buses := s.squ.buses.set n q }, spt := port, agenda := [] } := by
      rw [hg, frame]
    have ctx : g.ctx n = c := by rw [same]; rfl
    have watchG : g.ccu.watches.get n = some w := by rw [same]; exact watch
    have hr : g.coincidence (targetPair e) w.set n s.lastFrame = ⟨s.lastFrame, w.set, n, .notAvailable .invalid⟩ :=
      coincidence_invalid (ri := g.hlc.points.get (.bus n)) (by rw [is.busSec]) (by rw [hg]; exact invalid) _ _ _
    have quiet : (g.ctx n).state = .sync ∨ (g.ctx n).state = .decay ∧ ¬g.ResidualNow n := by
      rw [ctx]
      exact st.imp id fun decay => ⟨decay, fun now => absurd (bus.symm.trans now.1) (by decide)⟩
    have taken := isG.takes_quiet (by rw [hg]) watchG hr quiet rfl
    rw [ctx, show g.bcu = s.bcu by rw [same]] at taken
    rw [hg] at hr taken
    rw [← hr] at taken
    obtain ⟨k, t, short, takes, gen, own, other, bcu, watches, again, kept⟩ := moved.ends is
      (fun r mem => by
        rcases few with rfl | ⟨old, rfl⟩
        · cases mem
        · rw [List.mem_singleton.mp mem]
          exact moved.passes is (.inr fun dead => absurd dead.1 (by decide)))
      (by rcases few with rfl | ⟨old, rfl⟩ <;> simp) taken (fun _ => rfl)
    rw [hr] at kept own
    exact ⟨t, runs k t takes short, kept, own, bcu, watches.trans (by rw [← hg]; exact watchG)⟩

end Sys2Proof.Machine
end

section
/-! What one section's sequencer can do, said once. `Deeds n s t` says that t comes from s by the acts below: changes of the
section's own context that leave its role, triggers and stops, and changes of the owner that are made with the tie open.
Every operation of a sequencer is made of deeds, so that what no sequencer touches (the roles, the other section's context,
the owner of a closed tie) is proved act by act. -/

namespace Sys2Proof.Machine

/-- The reports a section's sequencer makes of itself, and those that its triggers and claims bring about. -/
def Report.ofSec (n : Sec) : Report → Bool
  | .seqState m | .seqFeed m | .fedEntry m _ | .decayTest m _ | .timerOver m .tReturn => m == n
  | .tieOwner | .availability _ | .closeWithdrawn .. => true
  | _ => false

/-- A change of a section's context that leaves its role. -/
def KeepsRole (f : SecCtx → SecCtx) : Prop := ∀ c, (f c).role = c.role

/-- t comes from s by acts of the sequencer of section n. -/
inductive Deeds (n : Sec) (s : State) : State → Prop
  | refl : Deeds n s s
  | ctx {t : State} (h : Deeds n s t) (f : SecCtx → SecCtx) (role : KeepsRole f) : Deeds n s (modSeq n f t)
  | report {t : State} (h : Deeds n s t) (r : Report) (own : r.ofSec n = true) : Deeds n s (report r t)
  | watch {t : State} (h : Deeds n s t) (w : Option Watch) : Deeds n s (setWatch n w t)
  | noted {t : State} (h : Deeds n s t) (m : Note) : Deeds n s (post m t)
  | alarm {t : State} (h : Deeds n s t) : Deeds n s (triggerAlarm t)
  | load {t u : State} (h : Deeds n s t) (k : LoadOnly t u) : Deeds n s u
  | reach {t : State} (h : Deeds n s t) (d : Nat) : Deeds n s (reach d t)
  | trip {t : State} (h : Deeds n s t) (c : Chan) (q : Requester) (free : t.blocked = false) : Deeds n s (startTrip c q t)
  | close {t : State} (h : Deeds n s t) (c : Chan) (q : Requester) (ok : t.closeRefusal c = none) :
      Deeds n s (startClose c q t)
  | stop {t : State} (h : Deeds n s t) (c : Chan) : Deeds n s (stopPulse c t)
  | owner {t : State} (h : Deeds n s t) (v : Option Sec)
      (ok : t.closed .bkt = false ∨ (t.bcu.get .bkt).position = .isOpen) : Deeds n s (setOwner v t)

variable {n : Sec} {s t u : State}

theorem Deeds.trans (h : Deeds n s t) (k : Deeds n t u) : Deeds n s u := by
  induction k with
  | refl => exact h
  | ctx _ f role ih => exact .ctx ih f role
  | report _ r own ih => exact .report ih r own
  | watch _ w ih => exact .watch ih w
  | noted _ m ih => exact .noted ih m
  | alarm _ ih => exact .alarm ih
  | load _ k ih => exact .load ih k
  | reach _ d ih => exact .reach ih d
  | trip _ c q free ih => exact .trip ih c q free
  | close _ c q ok ih => exact .close ih c q ok
  | stop _ c ih => exact .stop ih c
  | owner _ v ok ih => exact .owner ih v ok

/-! ### The operations of a sequencer are made of deeds -/

theorem modSeq_deeds {f : SecCtx → SecCtx} (h : Deeds n s t) (role : KeepsRole f := by exact fun _ => rfl) :
    Deeds n s (modSeq n f t) := .ctx h f role

theorem into_role (st : SeqState) : KeepsRole (·.into st) := fun _ => rfl

@[simp] theorem post_deeds (m : Note) (h : Deeds n s t) : Deeds n s (post m t) := .noted h m

@[simp] theorem enter_deeds (st : SeqState) (h : Deeds n s t) : Deeds n s (enter n st t) := by
  have moved := h.ctx (·.into st) (into_role st)
  have watched : Deeds n s (if st = .decay ∨ st = .sync then modSeq n (·.into st) t
      else setWatch n none (modSeq n (·.into st) t)) := by
    split
    · exact moved
    · exact .watch moved none
  unfold enter
  dsimp only
  split
  · exact watched
  · refine .report ?_ _ (by simp [Report.ofSec])
    split
    · exact .load watched rfl
    · exact watched

@[simp] theorem setFeed_deeds (e : Option Entry) (h : Deeds n s t) : Deeds n s (setFeed n e t) := by
  unfold setFeed
  split
  · exact h
  · exact .report (modSeq_deeds h) (.seqFeed n) (by simp [Report.ofSec])

@[simp] theorem enterFed_deeds (c : StartCause) (h : Deeds n s t) : Deeds n s (enterFed n c t) :=
  .report (enter_deeds _ h) (.fedEntry n c) (by simp [Report.ofSec])

theorem releaseAtHalt_deeds (h : Deeds n s t) : Deeds n s (releaseAtHalt n t) := by
  unfold releaseAtHalt
  split
  · rename_i opened
    exact .owner h none (.inl (by simpa using opened.2.1))
  · exact h

@[simp] theorem halt_deeds (c : HaltCause) (ch : Option Chan) (h : Deeds n s t) : Deeds n s (halt n c ch t) := by
  have caused := (releaseAtHalt_deeds h).ctx (fun r => { r with haltCause := c, haltChan := ch }) fun _ => rfl
  unfold halt
  dsimp only
  generalize modSeq n _ (releaseAtHalt n t) = v at caused ⊢
  exact .noted (.alarm (enter_deeds _ (setFeed_deeds _ caused))) _

theorem islandFed_deeds (h : Deeds n s t) : Deeds n s (islandFed n t) := .load h rfl

theorem begin_role (m : Sec) (c : StartCause) (b : Bool) (now : Nat) : KeepsRole (·.begin m c b now) := by
  intro r
  unfold SecCtx.begin
  split <;> rfl

@[simp] theorem beginTransfer_deeds (c : StartCause) (b : Bool) (e : SecEntry) (h : Deeds n s t) :
    Deeds n s (beginTransfer n c b e t) := by
  have told : Deeds n s (announce n e (modSeq n (fun c => { c with target := some e }) t)) :=
    .load (modSeq_deeds h) (announce_load _ _ _)
  unfold beginTransfer
  dsimp only
  generalize announce n e _ = v at told ⊢
  exact .noted (.ctx told _ (begin_role _ _ _ _)) _

@[simp] theorem setDecayWatch_deeds (h : Deeds n s t) : Deeds n s (setDecayWatch n t) := .watch h _

@[simp] theorem enterDecay_deeds (h : Deeds n s t) : Deeds n s (enterDecay n t) := by
  unfold enterDecay
  dsimp only
  exact .report (setDecayWatch_deeds (modSeq_deeds (enter_deeds _ h))) (.decayTest n []) (by simp [Report.ofSec])

@[simp] theorem restOn_deeds (e : Entry) (h : Deeds n s t) : Deeds n s (restOn n e t) :=
  enterFed_deeds _ (setFeed_deeds _ h)

theorem judgeLeft_deeds (c : Chan) {d : State} (h : Deeds n s t) (hd : Deeds n s d) : Deeds n s (judgeLeft n c t d) := by
  unfold judgeLeft
  split <;> simp [h, hd]

@[simp] theorem tripTrigger_deeds (c : Chan) (q : Requester) (h : Deeds n s t) : Deeds n s (tripTrigger c q t).1 := by
  unfold tripTrigger
  split
  · exact h
  · rename_i free
    exact .trip h c q (by simpa using free)

@[simp] theorem openTransition_deeds (h : Deeds n s t) : Deeds n s (openTransition n t) := by
  unfold openTransition
  split
  · exact enterDecay_deeds h
  · rename_i c _
    have tripped := tripTrigger_deeds c (.seq n) h
    split
    · split
      · rename_i e
        rw [e] at tripped
        exact halt_deeds _ _ tripped
      · rename_i e
        rw [e] at tripped
        split <;> simp [show Deeds n s _ from tripped]
    · exact enterDecay_deeds h

@[simp] theorem takeChoice_deeds (c : StartCause) (l : List SecEntry) (o : Option SecEntry) (h : Deeds n s t) :
    Deeds n s (takeChoice n c l o t) := by
  cases o with
  | none => exact enter_deeds _ h
  | some e =>
    unfold takeChoice
    dsimp only
    split
    · exact .report (setDecayWatch_deeds (beginTransfer_deeds _ _ _ h)) (.decayTest n l) (by simp [Report.ofSec])
    · exact openTransition_deeds (beginTransfer_deeds _ _ _ h)

@[simp] theorem select_deeds (c : StartCause) (h : Deeds n s t) : Deeds n s (select n c t) := by
  unfold select
  split <;> simp [h]

@[simp] theorem selectPast_deeds (l : List SecEntry) (h : Deeds n s t) : Deeds n s (selectPast n l t) := by
  unfold selectPast
  split <;> simp [h]

@[simp] theorem loseFeed_deeds (c : StartCause) (b : Bool) (h : Deeds n s t) : Deeds n s (loseFeed n c b t) := by
  unfold loseFeed
  exact select_deeds _ (setFeed_deeds _ (modSeq_deeds h))

/-- A claim test that is passed finds BKT OPEN and available (R129). -/
theorem claimTest_isOpen (pass : t.claimTest n = none) : (t.bcu.get .bkt).position = .isOpen := by
  unfold State.claimTest at pass
  dsimp only at pass
  split at pass
  · cases pass
  · split at pass
    · cases pass
    · rename_i available
      exact ChanRec.isOpen_of_available (by simpa [State.avail] using available)

theorem closeTarget_deeds (e : SecEntry) (h : Deeds n s t) : Deeds n s (closeTarget n e t).1 := by
  unfold closeTarget closeTrigger
  split
  · cases pass : t.claimTest n with
    | some r => exact h
    | none =>
      have opened := claimTest_isOpen pass
      have claimed := h.owner (some n) (.inr opened)
      cases ok : (setOwner (some n) t).closeRefusal .bkt with
      | some x => exact .owner claimed none (.inr (by simpa using opened))
      | none => exact .close claimed _ _ ok
  · cases ok : t.closeRefusal (entryChan e) with
    | some x => exact h
    | none => exact .close h _ _ ok

@[simp] theorem decayClose_deeds (m : Method) (l : List SecEntry) (h : Deeds n s t) : Deeds n s (decayClose n m l t) := by
  unfold decayClose
  split
  · exact h
  · rename_i e _
    have closed := closeTarget_deeds e h
    split
    · rename_i q
      rw [q] at closed
      exact selectPast_deeds _ (post_deeds _ closed)
    · rename_i q
      rw [q] at closed
      exact enter_deeds _ (modSeq_deeds closed)

@[simp] theorem testDecay_deeds (p : Bool) (l : List SecEntry) (h : Deeds n s t) : Deeds n s (testDecay n p l t) := by
  unfold testDecay
  split
  · split <;> simp [h]
  · exact h

@[simp] theorem enterSync_deeds (h : Deeds n s t) : Deeds n s (enterSync n t) := by
  unfold enterSync
  dsimp only
  exact .watch (modSeq_deeds (enter_deeds _ h)) _

@[simp] theorem syncClose_deeds (r : PairResult) (h : Deeds n s t) : Deeds n s (syncClose n r t) := by
  unfold syncClose
  split
  · exact h
  · rename_i e _
    have closed := closeTarget_deeds e h
    split
    · rename_i q
      rw [q] at closed
      exact enterFed_deeds _ (post_deeds _ closed)
    · rename_i q
      rw [q] at closed
      exact enter_deeds _ (modSeq_deeds closed)

theorem handResult_deeds (r : PairResult) (h : Deeds n s t) : Deeds n s (handResult n r t) := by
  have handed := h.ctx (fun c => { c with lastResult := some r }) fun _ => rfl
  unfold handResult
  dsimp only
  split
  · split
    · split <;> simp [handed]
    · exact testDecay_deeds _ _ handed
    · exact h
  · exact h

@[simp] theorem directTransfer_deeds (c : StartCause) (b : Bool) (e : SecEntry) (h : Deeds n s t) :
    Deeds n s (directTransfer n c b e t) := by
  unfold directTransfer
  dsimp only
  split <;> simp [h]

@[simp] theorem evalReturn_deeds (h : Deeds n s t) : Deeds n s (evalReturn n t) := by
  have waiting := (enter_deeds .returnWait h).ctx
    (fun c => { c with tReturn := some (t.now + t.plan.sec n .tReturn * 1000) }) fun _ => rfl
  unfold evalReturn
  dsimp only
  split
  · split
    · exact .report waiting _ (by simp [Report.ofSec])
    · exact waiting
  · exact h

@[simp] theorem checkReturn_deeds (h : Deeds n s t) : Deeds n s (checkReturn n t) := by
  unfold checkReturn
  split
  · split <;> simp [h]
  · exact enterFed_deeds _ h

@[simp] theorem fedTests_deeds (c : StartCause) (h : Deeds n s t) : Deeds n s (fedTests n c t) := by
  unfold fedTests
  split
  · split
    · split <;> simp [h]
    · exact evalReturn_deeds h
  · exact h

@[simp] theorem waitTest_deeds (h : Deeds n s t) : Deeds n s (waitTest n t) := by
  unfold waitTest
  split <;> simp [h]

@[simp] theorem retest_deeds (h : Deeds n s t) : Deeds n s (retest n t) := by
  unfold retest
  split
  · split <;> simp [h]
  · exact h

@[simp] theorem syncClaim_deeds (h : Deeds n s t) : Deeds n s (syncClaim n t) := by
  unfold syncClaim syncWithdrawn
  split
  · split <;> simp [h]
  · exact h

theorem reconsider_deeds (w : Bool) (h : Deeds n s t) : Deeds n s (reconsider n w t) := by
  unfold reconsider
  split
  · cases (t.ctx n).state <;> cases w <;> simp [h]
  · exact h

theorem clearExclusion_deeds (x : Src) (h : Deeds n s t) : Deeds n s (clearExclusion x n t) := by
  unfold clearExclusion
  split
  · split
    · split
      · exact modSeq_deeds h
      · exact h
    · exact h
  · exact h

@[simp] theorem stopForDown_deeds (h : Deeds n s t) : Deeds n s (stopForDown n t) := by
  unfold stopForDown
  split
  · exact modSeq_deeds (.stop h _)
  · exact h

theorem seqSource_deeds (x : Src) (st : SrcState) (h : Deeds n s t) : Deeds n s (seqSource n x st t) := by
  have lost := h.ctx (fun c => { c with lost := c.feed.map fun e => ⟨e, true⟩ }) fun _ => rfl
  unfold seqSource syncWithdrawn
  dsimp only
  split
  · cases (t.ctx n).state <;> dsimp only <;> repeat' split
    all_goals simp [h, lost]
  · exact h

@[simp] theorem transferDone_deeds (e : SecEntry) (d m : Nat) (c : StartCause) (h : Deeds n s t) :
    Deeds n s (transferDone n e d m c t) := by
  unfold transferDone
  dsimp only
  exact islandFed_deeds (post_deeds _ (enterFed_deeds _ (setFeed_deeds _ h)))

@[simp] theorem enterOverlap_deeds (o : Option Entry) (h : Deeds n s t) : Deeds n s (enterOverlap n o t) := by
  unfold enterOverlap
  dsimp only
  refine enter_deeds _ (modSeq_deeds ?_)
  split <;> simp [h]

@[simp] theorem openConfirmed_deeds (c : Chan) (e : SecEntry) (m : Nat) (h : Deeds n s t) :
    Deeds n s (openConfirmed n c e m t) := by
  unfold openConfirmed
  dsimp only
  split
  · exact halt_deeds _ _ h
  · split <;> simp [h]

theorem closeConfirmed_deeds (c : Chan) (m : Nat) (h : Deeds n s t) : Deeds n s (closeConfirmed c n m t) := by
  unfold closeConfirmed
  split
  · split
    · exact h
    · split <;> simp [h]
  · exact h

theorem closeFailed_deeds (c : Chan) (h : Deeds n s t) : Deeds n s (closeFailed c n t) := by
  unfold closeFailed
  dsimp only
  split
  · split
    · simp [h]
    · split
      · exact select_deeds _ (modSeq_deeds h)
      · exact halt_deeds _ _ h
  · exact h

theorem closeWithdrawn_deeds (c : Chan) (h : Deeds n s t) : Deeds n s (closeWithdrawn c n t) := by
  unfold closeWithdrawn
  split
  · split <;> simp [h]
  · exact h

@[simp] theorem overlapEnd_deeds (h : Deeds n s t) : Deeds n s (overlapEnd n t) := by
  unfold overlapEnd
  split
  · exact h
  · split
    · dsimp only
      split
      · exact select_deeds _ (setFeed_deeds _ (post_deeds _ h))
      · exact enterFed_deeds _ (post_deeds _ h)
    · exact transferDone_deeds _ _ _ _ h

@[simp] theorem overlapFail_deeds (c : HaltCause) (ch : Option Chan) (h : Deeds n s t) : Deeds n s (overlapFail n c ch t) := by
  unfold overlapFail
  dsimp only
  refine halt_deeds _ _ ?_
  split
  · exact h
  · split <;> simp [h]

theorem tripConfirmed_deeds (c : Chan) (h : Deeds n s t) : Deeds n s (tripConfirmed c n t) := by
  have opened := setFeed_deeds none (h.ctx (fun x => { x with openMs := t.now }) fun _ => rfl)
  unfold tripConfirmed
  dsimp only
  split
  · split
    · split
      · refine judgeLeft_deeds _ opened ?_
        split
        · split <;> simp [opened]
        · exact select_deeds _ opened
      · exact h
    · split <;> simp [h]
    · exact h
  · exact h

theorem tripFailed_deeds (c : Chan) (h : Deeds n s t) : Deeds n s (tripFailed c n t) := by
  unfold tripFailed
  split
  · split
    · split <;> simp [h]
    · split <;> simp [h]
    · exact h
  · exact h

theorem lockoutEnded_deeds (c : Chan) (h : Deeds n s t) : Deeds n s (lockoutEnded c n t) := by
  unfold lockoutEnded
  split
  · split
    · split <;> simp [h]
    · split
      · split <;> simp [h]
      · exact h
    · split <;> simp [h]
    · exact h
  · exact h

@[simp] theorem stopTarget_deeds (h : Deeds n s t) : Deeds n s (stopTarget n t) := by
  unfold stopTarget
  split
  · exact .stop h _
  · exact h

theorem channelLocked_deeds (c : Chan) (h : Deeds n s t) : Deeds n s (channelLocked c n t) := by
  unfold channelLocked
  dsimp only
  split
  · cases (t.ctx n).state <;> dsimp only
    case decay => split <;> simp [h]
    case closing =>
      generalize (if (t.ctx n).closedTrans = true then feedChan n (t.ctx n).feed
        else (t.ctx n).lost.map fun l => entryChan ⟨n, l.entry⟩) = away
      split <;> simp [h]
    case overlap => split <;> simp [h]
    all_goals exact h
  · exact h

@[simp] theorem track_deeds (h : Deeds n s t) : Deeds n s (track n t) := by
  unfold track
  split
  · exact setFeed_deeds _ h
  · split <;> simp [h]

@[simp] theorem gainPath_deeds (h : Deeds n s t) : Deeds n s (gainPath n t) := by
  have fed {v : State} (k : Deeds n s v) : Deeds n s (islandFed n (enterFed n .loss (setFeed n (t.adoptedFeed n) v))) :=
    islandFed_deeds (enterFed_deeds _ (setFeed_deeds _ k))
  unfold gainPath
  dsimp only
  cases (t.ctx n).state <;> dsimp only
  case waitSource => exact fed h
  case decay => exact fed h
  case closing =>
    split
    · exact setFeed_deeds _ h
    · exact fed (stopTarget_deeds h)
  case fed => exact setFeed_deeds _ h
  case returnWait => exact setFeed_deeds _ h
  case sync => split <;> simp [h]
  all_goals exact h

@[simp] theorem closeSeen_deeds (c : Chan) (k : ContactKind) (o : Option Operation) (h : Deeds n s t) :
    Deeds n s (closeSeen n c k o t) := by
  unfold closeSeen
  split
  · exact h
  · split
    · exact halt_deeds _ _ h
    · split
      · exact gainPath_deeds h
      · split <;> simp [h]

@[simp] theorem feedOpened_deeds (c : Chan) (k : ContactKind) (h : Deeds n s t) : Deeds n s (feedOpened n c k t) := by
  unfold feedOpened
  split
  · simp [h]
  · exact judgeLeft_deeds _ h (loseFeed_deeds _ _ h)

@[simp] theorem oldFeedOpened_deeds (c : Chan) (k : ContactKind) (h : Deeds n s t) : Deeds n s (oldFeedOpened n c k t) := by
  unfold oldFeedOpened
  split
  · simp [h]
  · split
    · exact setFeed_deeds _ (modSeq_deeds h)
    · exact setFeed_deeds _ h
    · exact halt_deeds _ _ h

@[simp] theorem otherOpened_deeds (h : Deeds n s t) : Deeds n s (otherOpened n t) := by
  unfold otherOpened
  split
  · split <;> simp [h]
  · exact h

theorem openSeen_deeds (c : Chan) (k : ContactKind) (h : Deeds n s t) : Deeds n s (openSeen n c k t) := by
  unfold openSeen
  dsimp only
  cases (t.ctx n).state <;> dsimp only
  case decay => split <;> simp [h]
  all_goals repeat' split
  all_goals simp [h]

theorem contactSeen_deeds (c : Chan) (k : ContactKind) (o : Option Operation) (h : Deeds n s t) :
    Deeds n s (contactSeen n c k o t) := by
  unfold contactSeen
  split
  · exact track_deeds h
  · split
    · exact setFeed_deeds _ h
    · cases k <;> simp [h, openSeen_deeds]

theorem timerOver_deeds (k : SeqTimer) (h : Deeds n s t) : Deeds n s (timerOver n k t) := by
  unfold timerOver
  split
  · exact h
  · rename_i d _
    have ended := (h.reach d).ctx (·.stopTimer k) (fun c => by cases k <;> rfl)
    dsimp only
    generalize modSeq n (·.stopTimer k) (reach d t) = v at ended ⊢
    split
    · split
      · unfold returnOver
        split <;> simp [ended]
      · unfold syncOver
        split
        · exact openTransition_deeds (modSeq_deeds ended)
        · exact enterFed_deeds _ (post_deeds _ ended)
      · unfold decayOver
        split
        · exact testDecay_deeds _ _ (modSeq_deeds ended)
        · exact halt_deeds _ _ (modSeq_deeds ended)
      · exact testDecay_deeds _ _ (modSeq_deeds ended)
      · exact overlapFail_deeds _ _ ended
      · exact ended
    · exact ended

theorem holdEnded_deeds (h : Deeds n s t) : Deeds n s (holdEnded n t) := by
  unfold holdEnded
  split
  · split <;> simp [h]
  · exact h

theorem seqBlocked_deeds (h : Deeds n s t) : Deeds n s (seqBlocked n t) := by
  unfold seqBlocked
  split
  · split <;> simp [h]
  · exact h

theorem seqReleased_deeds (h : Deeds n s t) : Deeds n s (seqReleased n t) := by
  unfold seqReleased
  split
  · exact holdEnded_deeds h
  · exact h

theorem toManual_deeds (h : Deeds n s t) : Deeds n s (toManual n t) := by
  unfold toManual
  split <;> simp [h]

theorem toAuto_deeds (h : Deeds n s t) : Deeds n s (toAuto n t) := by
  unfold toAuto
  split
  · split <;> simp [h]
  · split <;> simp [h]
  · exact h

theorem seqActivated_deeds (h : Deeds n s t) : Deeds n s (seqActivated n t) := by
  unfold seqActivated
  split
  · split <;> simp [h]
  · exact h

theorem startRequested_deeds (e : Entry) (h : Deeds n s t) : Deeds n s (startRequested n e t) :=
  directTransfer_deeds _ _ _ h

theorem resumeSection_deeds (h : Deeds n s t) : Deeds n s (resumeSection n t) := by
  have cleared := h.ctx (fun c => { c with haltCause := .none, haltChan := none, lost := none }) fun _ => rfl
  unfold resumeSection
  dsimp only
  split
  · exact enterFed_deeds _ (setFeed_deeds _ cleared)
  · have unfed := enter_deeds .waitSource (setFeed_deeds none cleared)
    split
    · exact select_deeds _ unfed
    · exact unfed
  · exact setFeed_deeds _ (modSeq_deeds cleared)

end Sys2Proof.Machine
end

section
/-! The side of the board that the roles and the owner of the tie are judged by (R7, R128), and what leaves it as it is:
everything outside the sequencers, the tie arbiter and the contacts. -/

namespace Sys2Proof.Machine

variable {s t u : State} {n : Sec}

/-- What the law of the roles looks at: adoption, the contacts, the roles and the owner. -/
structure TieSide where
  adopted : Bool
  closed : Chan → Bool
  role : Sec → Role
  owner : Option Sec

/-- The side of a state that the law of the roles looks at. -/
def State.tieSide (s : State) : TieSide := ⟨s.adopted, s.closed, fun n => (s.ctx n).role, s.owner⟩

theorem tieSide_of (adopted : t.adopted = s.adopted) (bcu : t.bcu = s.bcu) (seqs : t.seqs = s.seqs)
    (owner : t.owner = s.owner) : t.tieSide = s.tieSide := by
  have closed : t.closed = s.closed := funext fun c => closed_of_bcu bcu c
  unfold State.tieSide State.ctx
  rw [adopted, closed, seqs, owner]

/-- A side that differs at most in the owner is the same where the owner is. -/
theorem tieSide_eq (adopted : t.adopted = s.adopted) (closed : ∀ c, t.closed c = s.closed c)
    (role : ∀ m, (t.ctx m).role = (s.ctx m).role) (owner : t.owner = s.owner) : t.tieSide = s.tieSide := by
  unfold State.tieSide
  rw [adopted, funext closed, funext role, owner]

theorem tieSide_adopted (e : t.tieSide = s.tieSide) : t.adopted = s.adopted := (congrArg TieSide.adopted e :)
theorem tieSide_closed (e : t.tieSide = s.tieSide) (c : Chan) : t.closed c = s.closed c := congrFun (congrArg TieSide.closed e :) c
theorem tieSide_role (e : t.tieSide = s.tieSide) (m : Sec) : (t.ctx m).role = (s.ctx m).role :=
  congrFun (congrArg TieSide.role e :) m
theorem tieSide_owner (e : t.tieSide = s.tieSide) : t.owner = s.owner := (congrArg TieSide.owner e :)

theorem foldl_tieSide {α : Type} (l : List α) (f : State → α → State) (step : ∀ t a, (f t a).tieSide = t.tieSide) (s : State) :
    (l.foldl f s).tieSide = s.tieSide := by
  induction l generalizing s with
  | nil => rfl
  | cons a l ih => exact (ih _).trans (step s a)

theorem LoadOnly.tieSide (h : LoadOnly s t) : t.tieSide = s.tieSide :=
  tieSide_of (congrArg State.adopted h :) h.bcu_eq h.seqs_eq (congrArg State.owner h :)

/-! ### Primitive updates -/

@[simp] theorem report_tieSide (r : Report) (s : State) : (report r s).tieSide = s.tieSide := rfl
@[simp] theorem reach_tieSide (d : Nat) (s : State) : (reach d s).tieSide = s.tieSide := rfl
@[simp] theorem modHlc_tieSide (f : HlcState → HlcState) (s : State) : (modHlc f s).tieSide = s.tieSide := rfl
@[simp] theorem modPoint_tieSide (p : Point) (f : PointRec → PointRec) (s : State) : (modPoint p f s).tieSide = s.tieSide := rfl
@[simp] theorem modRun_tieSide (x : Src) (f : RunRec → RunRec) (s : State) : (modRun x f s).tieSide = s.tieSide := rfl
@[simp] theorem modPst_tieSide (f : PstState → PstState) (s : State) : (modPst f s).tieSide = s.tieSide := rfl
@[simp] theorem modPage_tieSide (p : PageNo) (f : Page → Page) (s : State) : (modPage p f s).tieSide = s.tieSide := rfl
@[simp] theorem setWatch_tieSide (m : Sec) (w : Option Watch) (s : State) : (setWatch m w s).tieSide = s.tieSide := rfl
@[simp] theorem setService_tieSide (k g : Byte) (ph : Phase) (s : State) : (setService k g ph s).tieSide = s.tieSide := rfl
@[simp] theorem setRx_tieSide (r : Rx) (g : Option Nat) (s : State) : (setRx r g s).tieSide = s.tieSide := rfl
@[simp] theorem triggerAlarm_tieSide (s : State) : (triggerAlarm s).tieSide = s.tieSide := rfl
@[simp] theorem queueWrite_tieSide (w : StoreWrite) (s : State) : (queueWrite w s).tieSide = s.tieSide := rfl
@[simp] theorem nextWrite_tieSide (s : State) : (nextWrite s).tieSide = s.tieSide := rfl
@[simp] theorem setImage_tieSide (p : PageNo) (l : List Byte) (s : State) : (setImage p l s).tieSide = s.tieSide := rfl
@[simp] theorem useFree_tieSide (s : State) : (useFree s).tieSide = s.tieSide := rfl
@[simp] theorem freeSlot_tieSide (s : State) : (freeSlot s).tieSide = s.tieSide := rfl
@[simp] theorem takeSlot_tieSide (c : HeadCmd) (s : State) : (takeSlot c s).tieSide = s.tieSide := rfl
@[simp] theorem setWord_tieSide (a : Six) (v : Half) (s : State) : (setWord a v s).tieSide = s.tieSide := rfl
@[simp] theorem setMode_tieSide (m : Sec) (v : Mode) (s : State) : (setMode m v s).tieSide = s.tieSide := rfl
@[simp] theorem setCause_tieSide (x : Src) (c : Cause) (s : State) : (setCause x c s).tieSide = s.tieSide := rfl
@[simp] theorem modIsland_tieSide (i : IslandId) (g : IslandRec → IslandRec) (s : State) :
    (modIsland i g s).tieSide = s.tieSide := rfl

@[simp] theorem post_tieSide (m : Note) (s : State) : (post m s).tieSide = s.tieSide :=
  tieSide_of (by simp) (by simp) (by simp) (by simp)

@[simp] theorem keep_tieSide (p : Pair) (r : PairResult) (s : State) : (keep p r s).tieSide = s.tieSide :=
  tieSide_of (by simp) (by simp) (by simp) (by simp)

@[simp] theorem formReply_tieSide (k : Byte) (r : Reply) (s : State) : (formReply k r s).tieSide = s.tieSide :=
  tieSide_of (by simp) (by simp) (by simp) (by simp)

@[simp] theorem runAll_tieSide (s : State) : (runAll s).tieSide = s.tieSide :=
  tieSide_of (by simp) (by simp) (by simp) (by simp)

/-- A change of a channel's record that leaves its accepted AUX level. -/
theorem modChan_tieSide (c : Chan) (f : ChanRec → ChanRec) (s : State)
    (aux : (f (s.bcu.get c)).aux.accepted = (s.bcu.get c).aux.accepted) : (modChan c f s).tieSide = s.tieSide := by
  refine tieSide_eq (by simp) (fun d => ?_) (fun m => by simp [State.ctx]) (by simp)
  unfold State.closed
  rw [modChan_bcu, ByChan.get_set]
  split
  · rename_i e
    rw [← e, aux]
  · rfl

/-! ### Qualification, load, run supervision and activation -/

@[simp] theorem changeSrc_tieSide (x : Src) (v : SrcState) (c : Cause) (m : Option (QTimer × Nat)) (s : State) :
    (changeSrc x v c m s).tieSide = s.tieSide := by
  unfold changeSrc
  dsimp only
  split
  · exact post_tieSide _ _
  · rfl

@[simp] theorem setBus_tieSide (b : Sec) (v : BusState) (k : Nat) (s : State) : (setBus b v k s).tieSide = s.tieSide := by
  unfold setBus
  dsimp only
  split <;> rfl

@[simp] theorem squInvalid_tieSide (p : Point) (s : State) : (squInvalid p s).tieSide = s.tieSide := by
  unfold squInvalid
  cases p with
  | src x =>
    dsimp only
    split
    · rfl
    · exact changeSrc_tieSide _ _ _ _ _
  | bus b => exact setBus_tieSide _ _ _ _

@[simp] theorem judge_tieSide (p : Point) (m : Summary) (s : State) : (judge p m s).tieSide = s.tieSide := by
  have pickup (x : Src) : (startPickup x s).tieSide = s.tieSide := by
    unfold startPickup
    split <;> simp
  have dropout (x : Src) (c e : Cause) (k : QTimer) (d : Nat) : (startDropout x c e k d s).tieSide = s.tieSide := by
    unfold startDropout
    split <;> simp
  have dead (x : Src) : (deadInDropout x s).tieSide = s.tieSide := by
    unfold deadInDropout
    dsimp only
    split
    · simp
    · split <;> rfl
  unfold judge
  cases p with
  | src x =>
    unfold judgeSrc
    dsimp only
    repeat' split
    all_goals simp [pickup, dropout, dead]
  | bus b => exact setBus_tieSide _ _ _ _

@[simp] theorem superviseAll_tieSide (s : State) : (superviseAll s).tieSide = s.tieSide := (superviseAll_load s).tieSide

@[simp] theorem reformIslands_tieSide (s : State) : (reformIslands s).tieSide = s.tieSide := (reformIslands_load s).tieSide

@[simp] theorem driveLine_tieSide (f : Feeder) (b : Bool) (s : State) : (driveLine f b s).tieSide = s.tieSide :=
  tieSide_of (by simp) (by simp) (by simp) (by simp)

@[simp] theorem driveAllLines_tieSide (s : State) : (driveAllLines s).tieSide = s.tieSide :=
  foldl_tieSide _ _ (fun _ _ => driveLine_tieSide _ _ _) _

@[simp] theorem restoreExpiry_tieSide (i : IslandId) (s : State) : (restoreExpiry i s).tieSide = s.tieSide := by
  have attempt (r : IslandRec) (x : Src) (v : State) : (restoreAttempt i r x v).tieSide = v.tieSide := by
    refine LoadOnly.tieSide ?_
    unfold restoreAttempt restoreOne restoreBlocked
    dsimp only
    split
    · exact .refl _
    · split
      · exact LoadOnly.trans (.post _ (.modIsland _ _ (.driveLine _ _ (.modFeeder _ _ (.setStack _ _ (.refl _))))))
          (superviseAll_load _)
      · split
        · exact .refl _
        · exact .post _ (.modIsland _ _ (.refl _))
  unfold restoreExpiry restartRestore
  dsimp only
  repeat' split
  all_goals simp [attempt]

@[simp] theorem overloadExpiry_tieSide (i : IslandId) (s : State) : (overloadExpiry i s).tieSide = s.tieSide := by
  unfold overloadExpiry
  repeat' split
  all_goals simp [(overloadPass_load _ _ _).tieSide]

@[simp] theorem setDemand_tieSide (f : Feeder) (v : Nat) (s : State) : (setDemand f v s).tieSide = s.tieSide := by
  unfold setDemand reportClassOne
  split <;> exact superviseAll_tieSide _

@[simp] theorem coolExpiry_tieSide (x : Src) (s : State) : (coolExpiry x s).tieSide = s.tieSide := by
  unfold coolExpiry
  dsimp only
  repeat' split
  all_goals simp

@[simp] theorem startExpiry_tieSide (x : Src) (s : State) : (startExpiry x s).tieSide = s.tieSide := by
  unfold startExpiry
  split <;> simp

@[simp] theorem takeEffect_tieSide (p : PageNo) (s : State) : (takeEffect p s).tieSide = s.tieSide := by
  have sources (old : Items) (v : State) : (allSrcs.foldl (fun t x => srcActivated old x t) v).tieSide = v.tieSide := by
    refine foldl_tieSide _ _ (fun t x => ?_) _
    unfold srcActivated
    repeat' split
    all_goals simp
  have chans (old : Items) (v : State) : (allChans.foldl (fun t c => chanActivated old c t) v).tieSide = v.tieSide := by
    refine foldl_tieSide _ _ (fun t c => ?_) _
    unfold chanActivated
    split
    · rfl
    · exact modChan_tieSide _ _ _ rfl
  have runs (old : Items) (v : State) : (allSrcs.foldl (fun t x => runActivated old x t) v).tieSide = v.tieSide := by
    refine foldl_tieSide _ _ (fun t x => ?_) _
    unfold runActivated
    split <;> simp
  have load (old : Items) (one : Nat) (v : State) : (loadActivated old one v).tieSide = v.tieSide := by
    obtain ⟨w, only, e | e⟩ := loadActivated_cases old one v
    · rw [e, only.tieSide]
    · rw [e, report_tieSide, only.tieSide]
  unfold takeEffect tellActivation
  simp [sources, chans, runs, load]

@[simp] theorem testPending_tieSide (s : State) : (testPending s).tieSide = s.tieSide := by
  unfold testPending
  repeat' split
  all_goals simp

/-! ### Timers, pulses and the line -/

@[simp] theorem pickExpired_tieSide (x : Src) (s : State) : (pickExpired x s).tieSide = s.tieSide := by
  unfold pickExpired
  split <;> simp

@[simp] theorem dropExpired_tieSide (x : Src) (s : State) : (dropExpired x s).tieSide = s.tieSide := by
  unfold dropExpired
  split <;> simp

@[simp] theorem closePulseOver_tieSide (c : Chan) (s : State) : (closePulseOver c s).tieSide = s.tieSide := by
  unfold closePulseOver
  split
  · exact modChan_tieSide c _ (reach _ s) rfl
  · rfl

@[simp] theorem tripPulseOver_tieSide (c : Chan) (s : State) : (tripPulseOver c s).tieSide = s.tieSide := by
  unfold tripPulseOver
  split
  · exact modChan_tieSide c _ (reach _ s) rfl
  · rfl

@[simp] theorem settleOver_tieSide (m : Sec) (s : State) : (settleOver m s).tieSide = s.tieSide := by
  unfold settleOver
  dsimp only
  repeat' split
  all_goals rfl

@[simp] theorem alarmOver_tieSide (s : State) : (alarmOver s).tieSide = s.tieSide := by
  unfold alarmOver
  split <;> rfl

@[simp] theorem byteGapOver_tieSide (s : State) : (byteGapOver s).tieSide = s.tieSide := by
  unfold byteGapOver
  split <;> rfl

@[simp] theorem startReply_tieSide (s : State) : (startReply s).tieSide = s.tieSide := by
  unfold startReply
  split <;> rfl

@[simp] theorem endReply_tieSide (s : State) : (endReply s).tieSide = s.tieSide := by
  unfold endReply
  split <;> rfl

/-! ### The head link -/

@[simp] theorem reportInvalid_tieSide (w : Bool) (p : Point) (nd : Word) (s : State) :
    (reportInvalid w p nd s).tieSide = s.tieSide := by
  unfold reportInvalid
  split <;> simp

@[simp] theorem headLost_tieSide (p : Point) (s : State) : (headLost p s).tieSide = s.tieSide := by
  unfold headLost
  dsimp only
  repeat' split
  all_goals simp

@[simp] theorem recordStale_tieSide (p : Point) (s : State) : (recordStale p s).tieSide = s.tieSide := by
  unfold recordStale
  dsimp only
  split <;> simp

@[simp] theorem badFrame_tieSide (p : Point) (s : State) : (badFrame p s).tieSide = s.tieSide := by
  unfold badFrame
  dsimp only
  split <;> simp

@[simp] theorem goodFrame_tieSide (p : Point) (h : HeadPlace) (l : InLine) (s : State) : (goodFrame p h l s).tieSide = s.tieSide := by
  unfold goodFrame
  dsimp only
  split <;> simp

@[simp] theorem arrive_tieSide (p : Point) (m : Summary) (s : State) : (arrive p m s).tieSide = s.tieSide := by
  unfold arrive
  simp

@[simp] theorem readComplete_tieSide (d : Half) (s : State) : (readComplete d s).tieSide = s.tieSide := by
  unfold readComplete
  repeat' split
  all_goals simp

@[simp] theorem readTimeout_tieSide (s : State) : (readTimeout s).tieSide = s.tieSide := by
  unfold readTimeout
  repeat' split
  all_goals simp

@[simp] theorem writePosted_tieSide (s : State) : (writePosted s).tieSide = s.tieSide := by
  unfold writePosted
  repeat' split
  all_goals simp

@[simp] theorem commandFrame_tieSide (lines : BySix InLine) (k : Word) (s : State) : (commandFrame lines k s).tieSide = s.tieSide := by
  unfold commandFrame
  dsimp only
  repeat' split
  all_goals simp

@[simp] theorem unbind_tieSide (nd : Word) (p : Point) (s : State) : (unbind nd p s).tieSide = s.tieSide := by
  unfold unbind
  simp

@[simp] theorem linkStart_tieSide (s : State) : (linkStart s).tieSide = s.tieSide :=
  foldl_tieSide _ _ (fun _ _ => unbind_tieSide _ _ _) _

@[simp] theorem beginFrame_tieSide (k : Word) (a : Six) (s : State) : (beginFrame k a s).tieSide = s.tieSide := rfl

@[simp] theorem resetReleased_tieSide (s : State) : (resetReleased s).tieSide = s.tieSide := by
  unfold resetReleased
  split <;> rfl

@[simp] theorem discoverRead_tieSide (a : Six) (s : State) : (discoverRead a s).tieSide = s.tieSide := rfl

@[simp] theorem readyEnd_tieSide (s : State) : (readyEnd s).tieSide = s.tieSide := by
  unfold readyEnd
  split <;> rfl

@[simp] theorem bindPoint_tieSide (p : Point) (h : HeadPlace) (s : State) : (bindPoint p h s).tieSide = s.tieSide := rfl

@[simp] theorem bindAll_tieSide (s : State) : (bindAll s).tieSide = s.tieSide := by
  refine foldl_tieSide _ _ (fun t p => ?_) _
  split <;> rfl

@[simp] theorem decideBinding_tieSide (s : State) : (decideBinding s).tieSide = s.tieSide := by
  unfold decideBinding
  dsimp only
  split <;> simp

@[simp] theorem bindDiscovered_tieSide (s : State) : (bindDiscovered s).tieSide = s.tieSide := by
  have all : (allPoints.foldl (fun t p => rebind p t) s).tieSide = s.tieSide := by
    refine foldl_tieSide _ _ (fun t p => ?_) _
    unfold rebind
    dsimp only
    repeat' split
    all_goals simp
  unfold bindDiscovered
  simp [all]

/-! ### The store -/

@[simp] theorem endPageWrite_tieSide (g : Bool) (s : State) : (endPageWrite g s).tieSide = s.tieSide := by
  unfold endPageWrite pageWritten
  repeat' split
  all_goals simp

@[simp] theorem endPointerWrite_tieSide (g : Bool) (s : State) : (endPointerWrite g s).tieSide = s.tieSide := by
  unfold endPointerWrite pointerWritten
  repeat' split
  all_goals simp

@[simp] theorem endLinkMapWrite_tieSide (g : Bool) (s : State) : (endLinkMapWrite g s).tieSide = s.tieSide := by
  unfold endLinkMapWrite linkMapWritten
  repeat' split
  all_goals simp

@[simp] theorem loadEnded_tieSide (s : State) : (loadEnded s).tieSide = s.tieSide :=
  foldl_tieSide _ _ (fun _ _ => modChan_tieSide _ _ _ rfl) _

end Sys2Proof.Machine
end

section
/-! The law of the roles and the owner of the tie (R7, R128), kept by every act of a sequencer, by the taking of every report
and by every command. -/

namespace Sys2Proof.Machine

variable {s t u : State} {n : Sec}

/-- The channel records are lawful, and the roles and the owner agree with the board (R7, R79). -/
def State.TieRight (s : State) : Prop := s.ChansSound ∧ s.TieRoles

theorem closedPaths_congr (closed : ∀ c, t.closed c = s.closed c) (l : List Sec) : t.closedPaths l = s.closedPaths l := by
  unfold State.closedPaths
  simp only [closed]

/-- The law of the roles looks at the tie's side alone. -/
theorem tieRoles_congr (e : t.tieSide = s.tieSide) (h : s.TieRoles) : t.TieRoles := by
  intro adopted
  obtain ⟨sole, one⟩ := h (tieSide_adopted e ▸ adopted)
  refine ⟨fun opened m => ?_, fun x shut path => ?_⟩
  · rw [tieSide_role e]
    exact sole (tieSide_closed e _ ▸ opened) m
  · rw [tieSide_role e, tieSide_role e, tieSide_owner e]
    exact one x (tieSide_closed e _ ▸ shut) ((closedPaths_congr (tieSide_closed e) _).symm.trans path)

/-- The law of the roles with BKT open does not look at the owner. -/
theorem setOwner_tieRoles (v : Option Sec) (opened : s.closed .bkt = false) (h : s.TieRoles) : (setOwner v s).TieRoles := by
  have closed (c : Chan) : (setOwner v s).closed c = s.closed c := by simp [State.closed]
  intro adopted
  refine ⟨fun _ m => ?_, fun x shut _ => ?_⟩
  · have same : (setOwner v s).ctx m = s.ctx m := by simp [State.ctx]
    rw [same]
    exact (h (by simpa using adopted)).1 opened m
  · rw [closed, opened] at shut
    cases shut

/-- Roles and owner set from the board agree with it (R133). -/
theorem tieFromBoard_tieRoles (s : State) : (tieFromBoard s).TieRoles := by
  have closed (c : Chan) : (tieFromBoard s).closed c = s.closed c := closed_of_bcu (tieFromBoard_tieOnly s).bcu_eq c
  have ctx (v : Option Sec) (r1 r2 : Role) (m : Sec) : (setOwner v (setRoles r1 r2 s)).ctx m = (setRoles r1 r2 s).ctx m := by
    simp [State.ctx]
  intro _
  refine ⟨fun opened m => ?_, fun x shut path => ?_⟩
  · rw [closed] at opened
    rw [tieFromBoard_open opened, ctx, setRoles_ctx]
    cases m <;> rfl
  · rw [closed] at shut
    rw [closedPaths_congr closed] at path
    obtain ⟨r1, r2, e, supplying, dependent⟩ := tieFromBoard_one shut path
    rw [e, ctx, ctx]
    exact ⟨supplying, dependent, by simp⟩

theorem tieRoles_of_unadopted (early : s.adopted = false) : s.TieRoles := fun adopted => absurd adopted (by simp [early])

namespace State.TieRight

/-- What leaves the tie's side keeps its law. -/
theorem side (h : s.TieRight) (a : Acts s t) (e : t.tieSide = s.tieSide) : t.TieRight := ⟨h.1.acts a, tieRoles_congr e h.2⟩

theorem moved (h : s.TieRight) (m : Moves s t) (e : t.tieSide = s.tieSide) : t.TieRight := h.side (.moves .refl m) e

/-- A record whose operation is a close has its AUX open (R79). -/
theorem opened_of_close {r : ChanRec} {o : Operation} (sound : r.Sound) (op : r.op = some o) (kind : o.kind = .close) :
    r.aux.accepted = false := by
  unfold ChanRec.Sound at sound
  split at sound
  · exact sound.1
  · obtain ⟨p, same, trip⟩ := sound
    rw [op] at same
    cases same
    rw [kind] at trip
    cases trip
  all_goals simp_all

/-- A claim of the tie by a close in flight is released (R132): BKT is open then. -/
theorem release (h : s.TieRight) (c : Chan) (flight : c = .bkt → s.closed .bkt = false) : (releaseTieFor c s).TieRight := by
  unfold releaseTieFor
  split
  · rename_i tie
    exact ⟨h.1.tied (setOwner_tieOnly _ _), setOwner_tieRoles none (flight tie) h.2⟩
  · exact h

theorem startTrip (h : s.TieRight) (c : Chan) (q : Requester) (free : s.blocked = false) : (startTrip c q s).TieRight := by
  refine ⟨h.1.moves (.trip .refl c q free), ?_⟩
  have tripped : (modChan c (fun r => r.trip q s.now (s.tripWidth c) (s.plan.chan c .tripConfirm)) s).tieSide = s.tieSide := by
    refine modChan_tieSide _ _ _ ?_
    unfold ChanRec.trip
    dsimp only
    split <;> rfl
  unfold Machine.startTrip
  dsimp only
  split
  · rename_i o closing op
    unfold releaseTieFor
    split
    · rename_i tie
      refine setOwner_tieRoles none ?_ (tieRoles_congr tripped h.2)
      have record := h.1 c
      unfold ChanRec.Sound at record
      rw [closing] at record
      refine (tieSide_closed tripped .bkt).trans ?_
      rw [← tie]
      exact record.1
    · exact tieRoles_congr tripped h.2
  · exact tieRoles_congr tripped h.2

/-- The acts of a sequencer keep the law of the roles and the owner. -/
theorem deeds (h : s.TieRight) (d : Deeds n s t) : t.TieRight := by
  induction d with
  | refl => exact h
  | @ctx t _ f role ih =>
    refine ih.moved (modSeq_moves n f .refl) (tieSide_eq rfl (fun _ => rfl) (fun m => ?_) rfl)
    show ((t.seqs.set n (f (t.seqs.get n))).get m).role = (t.seqs.get m).role
    rw [BySec.get_set]
    split
    · rename_i e
      rw [role, e]
    · rfl
  | report _ r _ ih => exact ih.moved (report_moves r .refl) rfl
  | watch _ w ih => exact ih.moved (setWatch_moves n w .refl) rfl
  | noted _ m ih => exact ih.moved (.noted .refl m) (post_tieSide _ _)
  | alarm _ ih => exact ih.moved (triggerAlarm_moves .refl) rfl
  | load _ k ih => exact ⟨fun c => by rw [k.bcu_eq]; exact ih.1 c, tieRoles_congr k.tieSide ih.2⟩
  | reach _ d ih => exact ih.moved (reach_moves d .refl) rfl
  | trip _ c q free ih => exact ih.startTrip c q free
  | close _ c q ok ih => exact ih.moved (.close .refl c q ok) (modChan_tieSide _ _ _ rfl)
  | stop _ c ih => exact ih.moved (.stop .refl c) (modChan_tieSide _ _ _ rfl)
  | @owner t _ v ok ih =>
    refine ⟨ih.1.tied (setOwner_tieOnly _ _), setOwner_tieRoles v ?_ ih.2⟩
    rcases ok with opened | opened
    · exact opened
    · have record := ih.1 .bkt
      unfold ChanRec.Sound at record
      rw [opened] at record
      exact record.2

/-! ### The reports -/

theorem forSecs {f : Sec → State → State} (step : ∀ m v, Deeds m v (f m v)) (h : s.TieRight) : (forSecs f s).TieRight :=
  (h.deeds (step .sec1 s)).deeds (step .sec2 _)

theorem forRequester {f : Sec → State → State} (step : ∀ m v, Deeds m v (f m v)) (q : Requester) (h : s.TieRight) :
    (forRequester q f s).TieRight := by
  unfold Machine.forRequester
  split
  · exact h.deeds (step _ s)
  · exact h

theorem computeWatch (p : Point) (nd : Word) (m : Sec) (h : s.TieRight) : (computeWatch p nd m s).TieRight := by
  unfold Machine.computeWatch
  split
  · split
    · exact (h.moved (keep_moves _ _ .refl) (keep_tieSide _ _ _)).deeds (handResult_deeds _ .refl)
    · exact h
  · exact h

theorem srcReported (x : Src) (v : SrcState) (h : s.TieRight) : (srcReported x v s).TieRight := by
  have base : (if v = .healthy then runHealthy x (clearExclusion x .sec2 (clearExclusion x .sec1 s)) else s).TieRight := by
    split
    · exact ((h.deeds (clearExclusion_deeds x .refl)).deeds (clearExclusion_deeds x .refl)).moved (modRun_moves _ _ .refl) rfl
    · exact h
  exact (base.deeds (seqSource_deeds x v .refl)).deeds (seqSource_deeds x v .refl)

theorem handle (r : Report) (h : s.TieRight) : (handle r s).TieRight := by
  unfold Machine.handle
  cases r with
  | srcChanged x p v => exact h.srcReported x v
  | busChanged b => exact h.deeds (testDecay_deeds _ _ .refl)
  | pointInvalid p nd => exact h.moved (report_moves _ (squInvalid_moves p .refl)) (squInvalid_tieSide p s)
  | ccuPoint p nd => exact (h.computeWatch p nd .sec1).computeWatch p nd .sec2
  | availability c => exact h.forSecs fun _ _ => reconsider_deeds _ .refl
  | tripConfirmed c => exact h.forSecs fun _ _ => tripConfirmed_deeds c .refl
  | tripFailed c => exact h.forSecs fun _ _ => tripFailed_deeds c .refl
  | closeConfirmed c q m => exact h.forRequester (fun _ _ => closeConfirmed_deeds c m .refl) q
  | closeFailed c q => exact h.forRequester (fun _ _ => closeFailed_deeds c .refl) q
  | closeWithdrawn c q => exact h.forRequester (fun _ _ => closeWithdrawn_deeds c .refl) q
  | lockoutEnded c o => exact h.forSecs fun _ _ => lockoutEnded_deeds c .refl
  | contact m c k o => exact h.deeds (contactSeen_deeds c k o .refl)
  | channelLocked c => exact h.forSecs fun _ _ => channelLocked_deeds c .refl
  | channelCleared c => exact h
  | seqState m => exact (h.moved (testPending_moves .refl) (testPending_tieSide s)).deeds (reconsider_deeds _ .refl)
  | seqFeed m => exact h.deeds (reconsider_deeds _ .refl)
  | tieOwner => exact h.forSecs fun _ _ => reconsider_deeds _ .refl
  | classOneDemand => exact h.forSecs fun _ _ => reconsider_deeds _ .refl
  | holdEnded m => exact h.deeds (holdEnded_deeds .refl)
  | activated m => exact h.deeds (seqActivated_deeds .refl)
  | fedEntry m c => exact h.deeds (fedTests_deeds c .refl)
  | decayTest m l => exact h.deeds (testDecay_deeds _ _ .refl)
  | timerOver m k => exact h.deeds (timerOver_deeds k .refl)
  | activationDone p o => exact h.moved (activationDone_moves p o .refl) (post_tieSide _ _)

theorem runAll (h : s.TieRight) : (runAll s).TieRight := h.moved (runAll_moves .refl) (runAll_tieSide s)

theorem drain (k : Nat) (h : s.TieRight) : (drain k s).TieRight := by
  induction k generalizing s with
  | zero => exact h
  | succ k ih =>
    unfold Machine.drain
    split
    · exact h
    · refine ih (runAll (handle _ ?_))
      exact h.moved (.other .refl rfl) rfl

theorem settle (h : s.TieRight) : (settle s).TieRight := h.runAll.drain _

end State.TieRight

end Sys2Proof.Machine
end

section
/-! Every command keeps the law of the roles and the owner of the tie (R7, R128, R133). -/

namespace Sys2Proof.Machine

variable {s t u : State} {n : Sec}

/-! ### Contacts, lockout and deadlines -/

namespace State.TieRight

theorem auxAccept (c : Chan) (l : Bool) (h : s.TieRight) : (auxAccept c l s).TieRight := by
  refine ⟨h.1.acts (auxAccept_acts c l .refl), ?_⟩
  have contact (k : ContactKind) (o : Option Operation) (m : Nat) (v : State) : (reportContact c k o m v).tieSide = v.tieSide := by
    unfold reportContact
    dsimp only
    repeat' split
    all_goals rfl
  unfold Machine.auxAccept
  dsimp only
  split
  · rename_i same
    exact tieRoles_congr (modChan_tieSide _ _ _ same.symm) h.2
  · split
    · refine tieRoles_congr (contact _ _ _ _) (tieRoles_congr (reformIslands_tieSide _) ?_)
      split
      · exact tieRoles_congr (post_tieSide _ _) (tieFromBoard_tieRoles _)
      · exact tieFromBoard_tieRoles _
    · rename_i early
      exact tieRoles_of_unadopted (by simpa using early)

theorem prtAccept (c : Chan) (l : Bool) (h : s.TieRight) : (prtAccept c l s).TieRight := by
  refine ⟨h.1.acts (prtAccept_acts c l .refl), ?_⟩
  have locked : (modChan c ChanRec.lockedOut s).tieSide = s.tieSide := modChan_tieSide _ _ _ rfl
  unfold Machine.prtAccept
  dsimp only
  split
  · exact tieRoles_congr (modChan_tieSide _ _ _ rfl) h.2
  · split
    · refine tieRoles_congr (triggerAlarm_tieSide _) (tieRoles_congr (post_tieSide _ _) (tieRoles_congr (report_tieSide _ _) ?_))
      split
      · rename_i o op
        refine tieRoles_congr (report_tieSide _ _) ?_
        split
        · rename_i kind
          have sound : (modChan c ChanRec.lockedOut s).ChansSound := h.1.modChan rfl
          refine (release ⟨sound, tieRoles_congr locked h.2⟩ c fun tie => ?_).2
          rw [tieSide_closed locked, ← tie]
          exact opened_of_close (h.1 c) op kind
        · exact tieRoles_congr locked h.2
      · exact tieRoles_congr locked h.2
    · exact tieRoles_congr locked h.2

theorem closeDeadline (c : Chan) (h : s.TieRight) : (closeDeadline c s).TieRight := by
  refine ⟨h.1.acts (closeDeadline_acts c .refl), ?_⟩
  unfold Machine.closeDeadline
  split
  · rename_i o op
    split
    · rename_i kind
      have failed : (modChan c (·.failed .failToClose) (reach o.deadline s)).tieSide = s.tieSide := modChan_tieSide _ _ _ rfl
      dsimp only
      have sound : (modChan c (·.failed .failToClose) (reach o.deadline s)).ChansSound :=
        State.ChansSound.modChan (t := reach o.deadline s) h.1 rfl
      refine tieRoles_congr (report_tieSide _ _) (tieRoles_congr (post_tieSide _ _)
        (release ⟨sound, tieRoles_congr failed h.2⟩ c fun tie => ?_).2)
      rw [tieSide_closed failed, ← tie]
      exact opened_of_close (h.1 c) op kind
    · exact h.2
  · exact h.2

theorem tripDeadline (c : Chan) (h : s.TieRight) : (tripDeadline c s).TieRight := by
  refine h.side (tripDeadline_acts c .refl) ?_
  unfold Machine.tripDeadline
  split
  · rename_i o _
    split
    · dsimp only
      split
      · exact (post_tieSide _ _).trans (modChan_tieSide c _ (reach o.deadline s) rfl)
      · exact modChan_tieSide c _ (reach o.deadline s) rfl
    · rfl
  · rfl

/-! ### The block and adoption -/

theorem changeBlock (f : MdcState → MdcState) (modes : (f s.mdc).modes = s.mdc.modes) (h : s.TieRight) :
    (changeBlock f s).TieRight := by
  refine ⟨h.1.acts (changeBlock_acts f .refl modes), ?_⟩
  have changed : ({ s with mdc := f s.mdc } : State).TieRight := ⟨h.1, h.2⟩
  unfold Machine.changeBlock
  dsimp only
  split
  · have stopped : (stopAllPulses { s with mdc := f s.mdc }).TieRight := by
      refine changed.moved (stopAllPulses_moves .refl) (foldl_tieSide _ _ (fun t c => ?_) _)
      exact modChan_tieSide _ _ _ rfl
    exact tieRoles_congr (loadBlocked_load _).tieSide ((stopped.deeds (seqBlocked_deeds .refl)).deeds (seqBlocked_deeds .refl)).2
  · have driven := changed.moved (driveAllLines_moves .refl) (driveAllLines_tieSide _)
    exact tieRoles_congr (superviseAll_tieSide _) ((driven.deeds (seqReleased_deeds .refl)).deeds (seqReleased_deeds .refl)).2
  · exact changed.2

theorem adopt (h : s.ChansSound) : (adopt s).TieRight := by
  refine ⟨h.acts (adopt_acts .refl), ?_⟩
  unfold Machine.adopt
  dsimp only
  refine tieRoles_congr (superviseAll_tieSide _) (tieRoles_congr (post_tieSide _ _) ?_)
  have adopted : (Machine.runAll (driveAllLines (formIslands (tieFromBoard
      { adoptModes (adoptSection .sec2 (adoptSection .sec1 s)) with adopted := true })))).TieRoles := by
    refine tieRoles_congr (runAll_tieSide _) (tieRoles_congr (driveAllLines_tieSide _) ?_)
    exact tieRoles_congr (s := tieFromBoard _) rfl (tieFromBoard_tieRoles _)
  split
  · exact tieRoles_congr (triggerAlarm_tieSide _) adopted
  · exact adopted

theorem linkStartEnd (h : s.TieRight) : (linkStartEnd s).TieRight := by
  have decided := h.side (formReply_acts 0x62 (decideBinding s).restartAnswer (decideBinding_acts .refl))
    ((formReply_tieSide _ _ _).trans (decideBinding_tieSide s))
  unfold Machine.linkStartEnd
  dsimp only
  split
  · exact decided
  · exact adopt decided.1

theorem readEnded (a : Six) (e : HeadEntry) (h : s.TieRight) : (readEnded a e s).TieRight := by
  unfold Machine.readEnded
  dsimp only
  split
  · exact h.side (discoverRead_acts _ (modHlc_acts _ .refl)) rfl
  · exact linkStartEnd (h.side (modHlc_acts _ .refl) rfl)

theorem readSilent (h : s.TieRight) : (readSilent s).TieRight := by
  unfold Machine.readSilent
  split
  · exact h.readEnded _ _
  · exact h

/-! ### Frames -/

theorem pointFrame (lines : BySix InLine) (k : Word) (p : Point) (h : s.TieRight) : (pointFrame lines k p s).TieRight := by
  have aged (v : State) (hv : v.TieRight) : (if ((Machine.settle v).hlc.points.get p).aged k = true
      then Machine.settle (recordStale p (Machine.settle v)) else Machine.settle v).TieRight := by
    split
    · exact (hv.settle.side (recordStale_acts p .refl) (recordStale_tieSide _ _)).settle
    · exact hv.settle
  unfold Machine.pointFrame
  split
  · exact h
  · rename_i a _
    refine aged _ ?_
    split
    · have good := h.side (goodFrame_acts p a (lines.get a.line) .refl) (goodFrame_tieSide _ _ _ _)
      split
      · exact good.side (arrive_acts p _ .refl) (arrive_tieSide _ _ _)
      · exact good
    · exact h.side (badFrame_acts p .refl) (badFrame_tieSide _ _)

theorem pointFrames (lines : BySix InLine) (k : Word) (l : List Point) (h : s.TieRight) :
    (l.foldl (fun t p => Machine.pointFrame lines k p t) s).TieRight := by
  induction l generalizing s with
  | nil => exact h
  | cons p l ih => exact ih (h.pointFrame lines k p)

theorem allPointFrames (lines : BySix InLine) (k : Word) (h : s.TieRight) : (allPointFrames lines k s).TieRight := by
  unfold Machine.allPointFrames
  dsimp only
  refine pointFrames lines k _ ?_
  split
  · exact (h.pointFrames lines k _).moved (useFree_moves .refl) rfl
  · exact h.pointFrames lines k _

theorem discoveryFrame (lines : BySix InLine) (k : Word) (h : s.TieRight) : (discoveryFrame lines k s).TieRight := by
  unfold Machine.discoveryFrame
  split
  · exact h
  · dsimp only
    split
    · exact h.side (readyEnd_acts (modHlc_acts _ .refl)) (readyEnd_tieSide _)
    · exact h.side (modHlc_acts _ .refl) rfl
  · split
    · exact h
    · dsimp only
      split
      · exact h
      · split
        · split
          · exact h.readSilent
          · exact h
        · exact h.readEnded _ _

theorem frameEnd (lines : BySix InLine) (h : s.TieRight) : (frameEnd lines s).TieRight := by
  unfold Machine.frameEnd
  split
  · dsimp only
    have ended : (modHlc (fun x => { x with lastEnded := some s.hlc.frameNo }) s).TieRight := h.side (modHlc_acts _ .refl) rfl
    have heard := (ended.allPointFrames lines s.hlc.frameNo).side (commandFrame_acts lines s.hlc.frameNo .refl)
      (commandFrame_tieSide _ _ _)
    exact (heard.discoveryFrame lines s.hlc.frameNo).settle.side (beginFrame_acts _ _ .refl) rfl
  · exact h

/-! ### Requests -/

end State.TieRight

/-- The state a service leaves before its event ends. -/
def Served.state : Served → State
  | .done t _ => t
  | .after t _ => t
  | .waits t => t

theorem Served.Made.acts {v : Served} (h : v.Made s) : Acts s v.state := by
  cases v <;> exact h

/-- A service after the operand tests leaves what its own part leaves, where a refusal leaves nothing. -/
theorem withArg_state {α : Type} {P : State → Prop} (o : Option α) (f : α → Served) (base : P s)
    (run : ∀ a, o = some a → P (f a).state) : P (withArg o s f).state := by
  unfold withArg
  cases o with
  | none => exact base
  | some a => exact run a rfl

theorem afterStart_state {P : State → Prop} (v : Served) (base : P s) (run : P v.state) : P (afterStart s v).state := by
  unfold afterStart
  split
  · exact run
  · exact base

namespace State.TieRight

/-- The requests that leave the tie's side. -/
theorem of_served {v : Served} (h : s.TieRight) (made : v.Made s) (e : v.state.tieSide = s.tieSide) : v.state.TieRight :=
  h.side made.acts e

theorem operated (c : Chan) (r : State × Option Status) (h : r.1.TieRight) : (operated c r).state.TieRight := by
  unfold Machine.operated
  split <;> exact h

theorem closeTrigger (c : Chan) (q : Requester) (h : s.TieRight) : (closeTrigger c q s).1.TieRight := by
  unfold Machine.closeTrigger
  split
  · exact h
  · rename_i ok
    exact h.moved (.close .refl c q ok) (modChan_tieSide _ _ _ rfl)

theorem serveOperate (c a : Byte) (h : s.TieRight) : (serveOperate c a s).state.TieRight := by
  refine withArg_state _ _ h fun c _ => withArg_state _ _ h fun a _ => afterStart_state _ h ?_
  split
  · exact h
  · split
    · unfold manualClose
      split
      · have kept := h.moved (keep_moves (manualPair c)
          (s.coincidence (manualPair c) .closedItems (manualPair c).busSec s.lastFrame) .refl) (keep_tieSide _ _ _)
        dsimp only
        split
        · exact operated c _ (kept.closeTrigger c .mdc)
        · exact kept
      · exact operated c _ (h.closeTrigger c .mdc)
    · exact operated c _ (h.deeds (n := .sec1) (tripTrigger_deeds c .mdc .refl))
    · exact operated c _ (h.deeds (n := .sec1) (.stop .refl c))

theorem serveMode (a b : Byte) (h : s.TieRight) : (serveMode a b s).state.TieRight := by
  have set (m : Sec) (v : Mode) : (setMode m v s).TieRight := ⟨h.1, h.2⟩
  refine withArg_state _ _ h fun m _ => withArg_state _ _ h fun v _ => afterStart_state _ h ?_
  dsimp only
  split
  · exact h
  · split
    · split
      · have down := (set m .manual).deeds (toManual_deeds (n := m) .refl)
        show (goManual m s).TieRight
        unfold goManual
        dsimp only
        split
        · exact down.moved (report_moves _ .refl) rfl
        · exact down
      · exact h
    · split
      · exact h
      · exact (set m .auto).deeds (toAuto_deeds .refl)

theorem serveTransfer (a b : Byte) (h : s.TieRight) : (serveTransfer a b s).state.TieRight := by
  refine withArg_state _ _ h fun m _ => withArg_state _ _ h fun e _ => afterStart_state _ h ?_
  split
  · exact h
  · exact h
  · exact h.deeds (startRequested_deeds e .refl)

theorem serveResume (a : Byte) (h : s.TieRight) : (serveResume a s).state.TieRight := by
  refine withArg_state _ _ h fun m _ => afterStart_state _ h ?_
  split
  · exact h
  · split
    · exact h
    · exact h.deeds (resumeSection_deeds .refl)

end State.TieRight

/-- The requests that reach neither a sequencer nor the block leave the tie's side. -/
theorem serve_tieSide (r : Request) (operate : ∀ c a, r ≠ .breakerOperate c a) (mode : ∀ m v, r ≠ .modeSet m v)
    (block : ∀ v, r ≠ .blockSet v) (transfer : ∀ m e, r ≠ .transferRequest m e) (resume : ∀ m, r ≠ .resume m) :
    (serve r s).state.tieSide = s.tieSide := by
  have arg {α : Type} (o : Option α) (f : α → Served) (run : ∀ a, (f a).state.tieSide = s.tieSide) :
      (withArg o s f).state.tieSide = s.tieSide :=
    withArg_state (P := fun t => t.tieSide = s.tieSide) o f rfl fun a _ => run a
  have started (v : Served) (run : v.state.tieSide = s.tieSide) : (afterStart s v).state.tieSide = s.tieSide :=
    afterStart_state (P := fun t => t.tieSide = s.tieSide) v rfl run
  have head (p : Point) (f : HeadPlace → Served) (run : ∀ a, (f a).state.tieSide = s.tieSide) :
      (withHead p s f).state.tieSide = s.tieSide := by
    unfold withHead
    split
    · rfl
    · split
      · rfl
      · exact run _
  cases r with
  | breakerOperate c a => exact absurd rfl (operate c a)
  | modeSet m v => exact absurd rfl (mode m v)
  | blockSet v => exact absurd rfl (block v)
  | transferRequest m e => exact absurd rfl (transfer m e)
  | resume m => exact absurd rfl (resume m)
  | ping => rfl
  | statusGet => rfl
  | noticeGet => 
    show (serveNotice s).state.tieSide = s.tieSide
    unfold serveNotice
    split <;> rfl
  | pointGet p => exact arg _ _ fun _ => rfl
  | pairGet i b m k =>
    refine arg _ _ fun p => arg _ _ fun fresh => arg _ _ fun set => ?_
    dsimp only
    split
    · exact keep_tieSide _ _ _
    · rfl
  | breakerGet c => exact arg _ _ fun _ => rfl
  | channelClear c =>
    refine arg _ _ fun c => ?_
    have cleared : (clearChan c s).tieSide = s.tieSide := modChan_tieSide _ _ _ rfl
    dsimp only
    split
    · split
      · rfl
      · exact cleared
    · exact cleared
    all_goals rfl
  | sectionGet m => exact arg _ _ fun _ => started _ rfl
  | feederGet f =>
    show (serveFeeder f s).state.tieSide = s.tieSide
    unfold serveFeeder
    split
    · rfl
    · exact arg _ _ fun _ => rfl
  | feederDemandSet f d => exact arg _ _ fun _ => setDemand_tieSide _ _ _
  | planSelect p => exact arg _ _ fun _ => rfl
  | planRead g i f => exact arg _ _ fun _ => rfl
  | planWrite g i f v =>
    refine arg _ _ fun a => ?_
    dsimp only
    repeat' split
    all_goals rfl
  | planCopy p q =>
    refine arg _ _ fun p => arg _ _ fun q => ?_
    repeat' split
    all_goals rfl
  | planCheck p =>
    refine arg _ _ fun p => ?_
    repeat' split
    all_goals rfl
  | planActivate p =>
    refine arg _ _ fun p => started _ ?_
    split
    · rfl
    · split
      · rfl
      · split
        · rfl
        · split
          · show (takeEffect p s).tieSide = s.tieSide
            exact takeEffect_tieSide p s
          · rfl
  | planSave p => exact arg _ _ fun _ => rfl
  | headRead p i =>
    refine arg _ _ fun p => arg _ _ fun i => head _ _ fun a => ?_
    split <;> rfl
  | headWrite p i d =>
    refine arg _ _ fun p => arg _ _ fun i => head _ _ fun a => ?_
    dsimp only
    split <;> rfl
  | linkRestart =>
    show (serveRestart s).state.tieSide = s.tieSide
    unfold serveRestart
    split
    · rfl
    · show (linkStart s).tieSide = s.tieSide
      exact linkStart_tieSide s
  | headsBind =>
    show (serveBind s).state.tieSide = s.tieSide
    unfold serveBind
    split
    · rfl
    · split
      · rfl
      · show (bindDiscovered s).tieSide = s.tieSide
        exact bindDiscovered_tieSide s
  | outputSet l v => exact arg _ _ fun _ => arg _ _ fun _ => rfl
  | alarmSilence => rfl
  | genTest x v =>
    refine arg _ _ fun x => arg _ _ fun b => started _ ?_
    split
    · rfl
    · exact modRun_tieSide x (fun r => { r with test := b }) s

namespace State.TieRight

theorem serve (r : Request) (h : s.TieRight) : (serve r s).state.TieRight := by
  by_cases plain : (∀ c a, r ≠ .breakerOperate c a) ∧ (∀ m v, r ≠ .modeSet m v) ∧ (∀ v, r ≠ .blockSet v) ∧
      (∀ m e, r ≠ .transferRequest m e) ∧ ∀ m, r ≠ .resume m
  · obtain ⟨operate, mode, block, transfer, resume⟩ := plain
    exact h.of_served (serve_made r) (serve_tieSide r operate mode block transfer resume)
  · cases r with
    | breakerOperate c a => exact h.serveOperate c a
    | modeSet m v => exact h.serveMode m v
    | blockSet v => exact withArg_state _ _ h fun b _ => h.changeBlock (fun m => { m with hostBlock := b }) rfl
    | transferRequest m e => exact h.serveTransfer m e
    | resume m => exact h.serveResume m
    | _ => exact absurd ⟨nofun, nofun, nofun, nofun, nofun⟩ plain

theorem serveNow (k g : Byte) (r : Request) (h : s.TieRight) : (serveNow k g r s).TieRight := by
  have asked : (setService k g .deferred s).TieRight := ⟨h.1, h.2⟩
  have served := asked.serve r
  unfold Machine.serveNow conclude
  split
  · rename_i e
    rw [e] at served
    exact ⟨served.1, served.2⟩
  · rename_i e
    rw [e] at served
    exact ⟨served.settle.1, served.settle.2⟩
  · rename_i e
    rw [e] at served
    exact served.settle

theorem takeRequest (g : Byte) (r : Request) (h : s.TieRight) : (takeRequest g r s).TieRight := by
  unfold Machine.takeRequest
  split
  · exact h
  · split
    · exact ⟨h.1, h.2⟩
    · exact h.serveNow _ _ _

theorem endLoad (h : s.TieRight) : (endLoad s).TieRight := by
  unfold Machine.endLoad
  split
  · exact h
  · have loaded := (h.side (loadEnded_acts .refl) (loadEnded_tieSide s)).side (linkStart_acts .refl) (linkStart_tieSide _)
    unfold serveHeld
    split
    · exact loaded.settle.serveNow _ _ _
    · exact loaded.settle

theorem takeByte (b : Byte) (g : Bool) (h : s.TieRight) : (takeByte b g s).TieRight := by
  have rx (r : Rx) (gap : Option Nat) : (setRx r gap s).TieRight := ⟨h.1, h.2⟩
  unfold Machine.takeByte
  split
  · exact h
  · split
    · split
      · exact rx _ _
      · exact h
    · split
      · unfold frameByte
        split
        · exact rx _ _
        · split
          · unfold frameComplete takeFrame
            split
            · dsimp only
              split
              · split
                · exact rx _ _
                · split
                  · exact (rx _ _).takeRequest _ _
                  · exact ⟨h.1, h.2⟩
              · exact rx _ _
            · exact rx _ _
          · exact rx _ _
      · exact rx _ _

end State.TieRight

end Sys2Proof.Machine
end

section
/-! The law of the owner of an open tie, the state before adoption, and all the laws of the tie at every step (R7, R128,
R133, R175). -/

namespace Sys2Proof.Machine

variable {s t u : State} {n : Sec}

/-! ### The owner of an open tie -/

theorem ownerLaw_of_none (free : s.owner = none) : s.OwnerLaw := by
  intro _ m e
  rw [free] at e
  cases e

theorem ownerLaw_of_closed (closed : s.closed .bkt = true) : s.OwnerLaw := by
  intro opened
  rw [closed] at opened
  cases opened

theorem ownerLaw_congr (bcu : t.bcu = s.bcu) (owner : t.owner = s.owner) (h : s.OwnerLaw) : t.OwnerLaw := by
  unfold State.OwnerLaw
  rw [closed_of_bcu bcu, owner, bcu]
  exact h

/-- With BKT open and no close of it in flight the tie has no owner (R128). -/
theorem State.OwnerLaw.free (h : s.OwnerLaw) (opened : s.closed .bkt = false)
    (idle : ∀ o, (s.bcu.get .bkt).op = some o → o.kind ≠ .close) : s.owner = none := by
  cases e : s.owner with
  | none => rfl
  | some m =>
    obtain ⟨o, op, kind, -⟩ := h opened m e
    exact absurd kind (idle o op)

/-- A close is the operation of a channel in CLOSING alone (R79). -/
theorem ChanRec.Sound.closing_of_close {r : ChanRec} {o : Operation} (h : r.Sound) (op : r.op = some o) (kind : o.kind = .close) :
    r.position = .closing := by
  unfold ChanRec.Sound at h
  split at h
  · assumption
  · obtain ⟨p, same, trip⟩ := h
    rw [op] at same
    cases same
    rw [kind] at trip
    cases trip
  all_goals simp_all

/-- A channel record keeps the close in flight on it and its accepted AUX level. -/
def ChanRec.KeepsClose (r r' : ChanRec) : Prop :=
  r'.aux.accepted = r.aux.accepted ∧
  ∀ o, r.op = some o → o.kind = .close → ∃ o', r'.op = some o' ∧ o'.kind = .close ∧ o'.requester = o.requester

theorem ChanRec.KeepsClose.of_op {r r' : ChanRec} (aux : r'.aux.accepted = r.aux.accepted) (op : r'.op = r.op) : r.KeepsClose r' :=
  ⟨aux, fun o e k => ⟨o, op.trans e, k, rfl⟩⟩

/-- A change of a channel record keeps the owner's law where it is no change of BKT's close, or the tie is free or closed. -/
theorem setChan_ownerLaw (c : Chan) (r : ChanRec) (h : s.OwnerLaw)
    (tie : c = .bkt → s.owner = none ∨ r.aux.accepted = true ∨ (s.bcu.get .bkt).KeepsClose r) : (setChan c r s).OwnerLaw := by
  by_cases e : c = .bkt
  · subst e
    have record : (setChan .bkt r s).bcu.get .bkt = r := by
      show (s.bcu.set .bkt r).get .bkt = r
      rw [ByChan.get_set, if_pos rfl]
    rcases tie rfl with free | closed | ⟨aux, kept⟩
    · exact ownerLaw_of_none free
    · refine ownerLaw_of_closed ?_
      unfold State.closed
      rw [record]
      exact closed
    · intro opened m own
      unfold State.closed at opened
      rw [record, aux] at opened
      obtain ⟨o, op, kind, by_⟩ := h opened m own
      obtain ⟨o', op', kind', same⟩ := kept o op kind
      rw [record]
      exact ⟨o', op', kind', same.trans by_⟩
  · have record : (setChan c r s).bcu.get .bkt = s.bcu.get .bkt := by
      show (s.bcu.set c r).get .bkt = s.bcu.get .bkt
      rw [ByChan.get_set, if_neg e]
    unfold State.OwnerLaw State.closed
    rw [record]
    exact h

theorem modChan_ownerLaw (c : Chan) (f : ChanRec → ChanRec) (h : s.OwnerLaw)
    (tie : c = .bkt → s.owner = none ∨ (f (s.bcu.get .bkt)).aux.accepted = true ∨
      (s.bcu.get .bkt).KeepsClose (f (s.bcu.get .bkt))) : (modChan c f s).OwnerLaw := by
  have kept := setChan_ownerLaw c (f (s.bcu.get c)) h fun e => by subst e; exact tie rfl
  exact ownerLaw_congr (congrArg Guarded.bcu (modChan_setChan c f s)) (congrArg Guarded.owner (modChan_setChan c f s)) kept

/-- A release leaves the owner's law. -/
theorem releaseTieFor_ownerLaw (c : Chan) (h : c ≠ .bkt → s.OwnerLaw) : (releaseTieFor c s).OwnerLaw := by
  unfold releaseTieFor
  split
  · exact ownerLaw_of_none (by simp [releaseTie])
  · rename_i e
    exact h e

theorem tieFromBoard_ownerLaw (s : State) : (tieFromBoard s).OwnerLaw := by
  cases shut : s.closed .bkt with
  | false => exact ownerLaw_of_none (by rw [tieFromBoard_open shut]; simp)
  | true => exact ownerLaw_of_closed (by rw [closed_of_bcu (tieFromBoard_tieOnly s).bcu_eq, shut])

/-- BKT open with no operation leaves the tie free. -/
theorem State.OwnerLaw.free_of_open (h : s.OwnerLaw) (sound : s.ChansSound) (rest : (s.bcu.get .bkt).position = .isOpen) :
    s.owner = none := by
  obtain ⟨none, opened⟩ := (sound .bkt).aux_of_open rest
  exact h.free opened fun o op => by rw [none] at op; cases op

/-! ### The taking of reports -/

theorem ChanRec.trip_aux (r : ChanRec) (q : Requester) (now w k : Nat) : (r.trip q now w k).aux.accepted = r.aux.accepted := by
  unfold ChanRec.trip
  dsimp only
  split <;> rfl

/-- A trip leaves the law of the tie's owner: one that withdraws a close of BKT releases the tie (R132). -/
theorem startTrip_ownerLaw (c : Chan) (q : Requester) (sound : s.ChansSound) (h : s.OwnerLaw) : (startTrip c q s).OwnerLaw := by
  unfold startTrip
  dsimp only
  split
  · refine releaseTieFor_ownerLaw c fun other => ?_
    exact modChan_ownerLaw c (fun r => r.trip q s.now (s.tripWidth c) (s.plan.chan c .tripConfirm)) h fun tie => absurd tie other
  · rename_i still
    refine modChan_ownerLaw c _ h fun tie => ?_
    subst tie
    cases opened : s.closed .bkt with
    | true => exact .inr (.inl ((ChanRec.trip_aux _ _ _ _ _).trans opened))
    | false =>
      refine .inl (h.free opened fun o op kind => ?_)
      exact still o ((sound .bkt).closing_of_close op kind) op

theorem State.OwnerLaw.moves (h : s.OwnerLaw) (sound : s.ChansSound) (k : Moves s t) : t.OwnerLaw := by
  induction k with
  | refl => exact h
  | other _ e ih => exact ownerLaw_congr (congrArg Guarded.bcu e) (congrArg Guarded.owner e) ih
  | noted _ m ih => exact ownerLaw_congr (by simp) (by simp) ih
  | @close t k c q ok ih =>
    obtain ⟨-, -, -, available⟩ := closeRefusal_none ok
    refine modChan_ownerLaw c _ ih fun tie => .inl ?_
    subst tie
    exact ih.free_of_open (sound.moves k) (ChanRec.isOpen_of_available available)
  | @claim t _ m _ _ _ _ =>
    intro _ m' own
    have same : (startClose .bkt (.seq m) (setOwner (some m) t)).owner = some m := by simp [startClose]
    rw [same] at own
    cases own
    refine ⟨⟨.close, .seq m, t.now, t.now + t.plan.chan .bkt .closeConfirm, false⟩, ?_, rfl, rfl⟩
    simp [startClose, State.plan]
  | release _ _ => exact ownerLaw_of_none (by simp [releaseTie])
  | trip k c q _ ih => exact startTrip_ownerLaw c q (sound.moves k) ih
  | @stop t _ c ih =>
    refine modChan_ownerLaw c _ ih fun _ => .inr (.inr ⟨rfl, fun o op kind => ?_⟩)
    exact ⟨{ o with stopped := o.stopped || (t.bcu.get .bkt).closeEnd.isSome }, by simp [ChanRec.stop, op], kind, rfl⟩
  | learned _ c v ih => exact modChan_ownerLaw c _ ih fun _ => .inr (.inr (.of_op rfl rfl))
  | shed _ f _ ih => exact ownerLaw_congr (by simp [markShed]) (by simp [markShed]) ih
  | back _ f _ ih => exact ownerLaw_congr (by simp [markBack]) (by simp [markBack]) ih
  | pop _ n f _ ih => exact ownerLaw_congr (by simp [markBack]) (by simp [markBack]) ih
  | drive _ f ih => exact ownerLaw_congr (by simp) (by simp) ih
  | demand _ f v ih => exact ih
  | drop _ _ ih => exact ih
  | activate _ p _ ih => exact ih

/-- The state before adoption looks at adoption, the owner and the modes. -/
theorem unadopted_congr (adopted : t.adopted = s.adopted) (owner : t.owner = s.owner) (modes : t.mdc.modes = s.mdc.modes)
    (h : s.UnadoptedRests) : t.UnadoptedRests := by
  unfold State.UnadoptedRests State.mode
  rw [adopted, owner, modes]
  exact h

/-- A section in AUTO has been adopted. -/
theorem State.UnadoptedRests.of_auto (h : s.UnadoptedRests) (auto : s.auto n = true) : s.adopted = true := by
  cases early : s.adopted with
  | true => rfl
  | false =>
    have manual := (h early).2 n
    unfold State.auto at auto
    rw [manual] at auto
    cases auto

theorem unadopted_of_adopted (late : s.adopted = true) : s.UnadoptedRests := fun early => absurd early (by simp [late])

theorem setOwner_unadopted (h : s.UnadoptedRests) : (setOwner none s).UnadoptedRests := by
  intro early
  have rest := h (by simpa using early)
  exact ⟨by simp, fun m => by simpa [State.mode] using rest.2 m⟩

theorem startTrip_unadopted (c : Chan) (q : Requester) (h : s.UnadoptedRests) : (startTrip c q s).UnadoptedRests := by
  have changed (f : ChanRec → ChanRec) : (modChan c f s).UnadoptedRests := unadopted_congr (by simp) (by simp) (by simp) h
  unfold startTrip releaseTieFor
  dsimp only
  split
  · split
    · exact setOwner_unadopted (changed _)
    · exact changed _
  · exact changed _

theorem State.UnadoptedRests.moves (h : s.UnadoptedRests) (k : Moves s t) : t.UnadoptedRests := by
  induction k with
  | refl => exact h
  | other _ e ih =>
    exact unadopted_congr (congrArg Guarded.adopted e) (congrArg Guarded.owner e) (congrArg Guarded.modes e) ih
  | claim _ m auto _ _ ih => exact unadopted_of_adopted (by simpa [startClose] using ih.of_auto auto)
  | release _ ih => exact setOwner_unadopted ih
  | trip _ c q _ ih => exact startTrip_unadopted c q ih
  | noted _ m ih => exact unadopted_congr (by simp) (by simp) (by simp) ih
  | close _ c q _ ih => exact unadopted_congr (by simp [startClose]) (by simp [startClose]) (by simp [startClose]) ih
  | stop _ c ih => exact unadopted_congr (by simp [stopPulse]) (by simp [stopPulse]) (by simp [stopPulse]) ih
  | learned _ c v ih => exact unadopted_congr (by simp) (by simp) (by simp) ih
  | shed _ f _ ih => exact unadopted_congr (by simp [markShed]) (by simp [markShed]) (by simp [markShed]) ih
  | back _ f _ ih => exact unadopted_congr (by simp [markBack]) (by simp [markBack]) (by simp [markBack]) ih
  | pop _ n f _ ih => exact unadopted_congr (by simp [markBack]) (by simp [markBack]) (by simp [markBack]) ih
  | drive _ f ih => exact unadopted_congr (by simp) (by simp) (by simp) ih
  | demand _ f v ih => exact ih
  | drop _ _ ih => exact ih
  | activate _ p _ ih => exact ih

/-! ### Every act of a command -/

/-- The laws of the owner and of the state before adoption, with the channel records (R79, R128, R175). -/
def State.OwnerRight (s : State) : Prop := s.ChansSound ∧ s.UnadoptedRests ∧ s.OwnerLaw

namespace State.OwnerRight

theorem moves (h : s.OwnerRight) (k : Moves s t) : t.OwnerRight := ⟨h.1.moves k, h.2.1.moves k, h.2.2.moves h.1 k⟩

/-- BKT open, with no close of it in flight unless the part is not yet adopted, leaves the tie free. -/
theorem free (h : s.OwnerRight) (opened : s.closed .bkt = false)
    (idle : s.adopted = true → ∀ o, (s.bcu.get .bkt).op = some o → o.kind ≠ .close) : s.owner = none := by
  cases early : s.adopted with
  | false => exact (h.2.1 early).1
  | true => exact h.2.2.free opened (idle early)

/-- A change of a channel's record that its law and the owner's law allow. -/
theorem chan (h : s.OwnerRight) (c : Chan) (f : ChanRec → ChanRec) (sound : (modChan c f s).ChansSound)
    (tie : c = .bkt → s.owner = none ∨ (f (s.bcu.get .bkt)).aux.accepted = true ∨
      (s.bcu.get .bkt).KeepsClose (f (s.bcu.get .bkt))) : (modChan c f s).OwnerRight :=
  ⟨sound, unadopted_congr (by simp) (by simp) (by simp) h.2.1, modChan_ownerLaw c f h.2.2 tie⟩

theorem released (h : s.OwnerRight) (c : Chan) (f : ChanRec → ChanRec) (sound : (modChan c f s).ChansSound) :
    (releaseTieFor c (modChan c f s)).OwnerRight := by
  refine ⟨sound.tied (releaseTieFor_tieOnly _ _), ?_, releaseTieFor_ownerLaw c fun other => modChan_ownerLaw c f h.2.2 fun tie => absurd tie other⟩
  have changed : (modChan c f s).UnadoptedRests := unadopted_congr (by simp) (by simp) (by simp) h.2.1
  unfold releaseTieFor
  split
  · exact setOwner_unadopted changed
  · exact changed

/-- A change of a channel's record with nothing reported. -/
theorem pin (h : s.OwnerRight) (c : Chan) (r : ChanRec) (sound : (setChan c r s).ChansSound)
    (kept : (s.bcu.get c).KeepsClose r) : (setChan c r s).OwnerRight :=
  ⟨sound, h.2.1, setChan_ownerLaw c r h.2.2 fun tie => .inr (.inr (by subst tie; exact kept))⟩

/-- A change of the control state that keeps the modes. -/
theorem control (h : s.OwnerRight) (m : MdcState) (modes : m.modes = s.mdc.modes) : ({ s with mdc := m } : State).OwnerRight :=
  ⟨h.1, unadopted_congr (s := s) rfl rfl modes h.2.1, h.2.2⟩

theorem acts (h : s.OwnerRight) (k : Acts s t) : t.OwnerRight := by
  induction k with
  | refl => exact h
  | moves _ k ih => exact ih.moves k
  | pins k c r e ih =>
    have ⟨_, op, _, _, aux⟩ := e
    exact ih.pin c r (h.1.acts (.pins k c r e)) (.of_op aux op)
  | closeOver k c ih => exact ih.pin c _ (h.1.acts (.closeOver k c)) (.of_op rfl rfl)
  | tripOver k c ih => exact ih.pin c _ (h.1.acts (.tripOver k c)) (.of_op rfl rfl)
  | @auxLate t k c l e ad ih =>
    refine ⟨h.1.acts (.auxLate k c l e ad), unadopted_of_adopted ?_, tieFromBoard_ownerLaw _⟩
    rw [(tieFromBoard_tieOnly _).adopted_eq]
    simpa using ad
  | auxEarly k c l e ad ih => exact ih.chan c _ (h.1.acts (.auxEarly k c l e ad)) fun _ => .inl (ih.2.1 ad).1
  | tie k ad ih =>
    refine ⟨h.1.acts (.tie k ad), unadopted_of_adopted ?_, tieFromBoard_ownerLaw _⟩
    rw [(tieFromBoard_tieOnly _).adopted_eq]
    exact ad
  | @lock t k c ok ih =>
    refine ih.chan c _ (h.1.acts (.lock k c ok)) fun tie => ?_
    subst tie
    cases opened : t.closed .bkt with
    | true => exact .inr (.inl opened)
    | false => exact .inl (ih.free opened fun ad o op kind => by rw [ok ad o op] at kind; cases kind)
  | lockTie k c ih => exact ih.released c _ (ih.1.modChan rfl)
  | failClose k c ih => exact ih.released c _ (ih.1.modChan rfl)
  | failTrip k c e ih => exact ih.chan c _ (h.1.acts (.failTrip k c e)) fun tie => .inr (.inl (by subst tie; exact e))
  | tripDone k c e trip ih =>
    refine ih.chan c _ (h.1.acts (.tripDone k c e trip)) fun tie => ?_
    subst tie
    obtain ⟨o, op, kind⟩ := trip
    refine .inl (ih.2.2.free e fun o' op' kind' => ?_)
    rw [op] at op'
    cases op'
    rw [kind] at kind'
    cases kind'
  | @clear t k c e ih =>
    refine ih.chan c _ (h.1.acts (.clear k c e)) fun tie => ?_
    subst tie
    refine .inr (.inr ⟨rfl, fun o op kind => ?_⟩)
    have closing := (ih.1 .bkt).closing_of_close op kind
    rw [closing] at e
    rcases e with e | e <;> cases e
  | mode _ n m ad ih => exact ⟨ih.1, unadopted_of_adopted ad, ih.2.2⟩
  | control _ m modes _ ih => exact ih.control m modes
  | blockOn _ m modes _ ih => exact (ih.control m modes).moves (stopAllPulses_moves .refl)
  | blockOff _ m modes _ _ ih => exact (ih.control m modes).moves (driveAllLines_moves .refl)
  | adopted _ ih => exact ⟨ih.1, unadopted_of_adopted rfl, ih.2.2⟩
  | _ => assumption

end State.OwnerRight

/-! ### Every step -/

theorem assertReset_tieSide (s : State) : (assertReset s).tieSide = s.tieSide := by
  cases low : s.inReset with
  | true => rw [assertReset_off low]
  | false =>
    rw [assertReset_on low]
    refine tieSide_eq rfl (fun c => ?_) (fun _ => rfl) rfl
    show ((s.bcu.map ChanRec.quiet).get c).aux.accepted = _
    rw [ByChan.get_map]
    rfl

theorem tick_tieSide (s : State) : (tick s).tieSide = s.tieSide := by
  refine tieSide_eq (by rw [tick_eq]) (fun c => ?_) (fun m => by rw [tick_eq]; rfl) (by rw [tick_eq])
  unfold State.closed
  rw [tick_chan]
  obtain ⟨-, -, -, -, aux⟩ := sample_alike (s.bcu.get c) (s.now + 1) (s.plan.chan c .debounce)
  exact aux

theorem idle_tieSide (s : State) : (idle s).tieSide = s.tieSide := by
  unfold idle
  split
  · rfl
  · split
    · exact tick_tieSide s
    · rfl
    · split <;> rfl

theorem State.OwnerRight.asserted (h : s.OwnerRight) (out : s.inReset = false) : (assertReset s).OwnerRight := by
  refine ⟨h.1.asserted out, ?_, ?_⟩
  · rw [assertReset_on out]
    exact unadopted_congr (s := s) rfl rfl rfl h.2.1
  · have closed : (assertReset s).closed .bkt = s.closed .bkt := tieSide_closed (assertReset_tieSide s) .bkt
    intro opened m own
    rw [closed] at opened
    rw [tieSide_owner (assertReset_tieSide s)] at own
    obtain ⟨o, op, kind, by_⟩ := h.2.2 opened m own
    refine ⟨o, ?_, kind, by_⟩
    rw [assertReset_on out]
    dsimp only
    rw [ByChan.get_map]
    exact op

theorem State.OwnerRight.ticked (h : s.OwnerRight) : (tick s).OwnerRight := by
  refine ⟨h.1.ticked, unadopted_congr (by rw [tick_eq]) (by rw [tick_eq]) (by rw [tick_eq]) h.2.1, ?_⟩
  intro opened m own
  rw [tieSide_closed (tick_tieSide s)] at opened
  rw [tieSide_owner (tick_tieSide s)] at own
  obtain ⟨o, op, kind, by_⟩ := h.2.2 opened m own
  refine ⟨o, ?_, kind, by_⟩
  rw [tick_chan]
  exact op

/-- What a command does outside reset, said of the commands that are one act. -/
theorem act_tieRight {f : State → State} (h : s.TieRight) (run : (f s).TieRight) (next : act f s = .next t) : t.TieRight := by
  cases next
  unfold live
  split
  · exact h
  · exact run

theorem event_tieRight {f : State → State} (h : s.TieRight) (run : (f s).TieRight) (next : event f s = .next t) : t.TieRight :=
  act_tieRight (f := fun v => settle (f v)) h run.settle next

/-- Every command keeps the law of the roles and the owner. -/
theorem exec_tieRight (h : s.TieRight) (c : Instr) (next : exec c s = .next t) : t.TieRight := by
  have request (g : Byte) (r : Request) (e : act (takeRequest g r) s = .next t) : t.TieRight := act_tieRight h (h.takeRequest g r) e
  have plain {f : State → State} (a : Acts s (f s)) (same : (f s).tieSide = s.tieSide) (e : act f s = .next t) : t.TieRight :=
    act_tieRight h (h.side a same) e
  have told {f : State → State} (a : Acts s (f s)) (same : (f s).tieSide = s.tieSide) (e : event f s = .next t) : t.TieRight :=
    event_tieRight h (h.side a same) e
  cases c with
  | resetAssert =>
    cases next
    refine ⟨?_, tieRoles_congr (assertReset_tieSide s) h.2⟩
    cases low : s.inReset with
    | true => rw [assertReset_off low]; exact h.1
    | false => exact h.1.asserted low
  | resetRelease b p =>
    cases next
    unfold releaseReset
    split
    · exact ⟨.booted _ _ _ _ _, tieRoles_of_unadopted rfl⟩
    · exact h
  | storeLoadEnd => exact act_tieRight h h.endLoad next
  | pageWriteEnd g => exact plain (endPageWrite_acts g .refl) (endPageWrite_tieSide g s) next
  | pointerWriteEnd g => exact plain (endPointerWrite_acts g .refl) (endPointerWrite_tieSide g s) next
  | linkMapWriteEnd g => exact plain (endLinkMapWrite_acts g .refl) (endLinkMapWrite_tieSide g s) next
  | activationTakesEffect => exact told (.moves .refl (testPending_moves .refl)) (testPending_tieSide s) next
  | linkResetRelease => exact plain (resetReleased_acts .refl) (resetReleased_tieSide s) next
  | headFrameEnd l => exact act_tieRight h (h.frameEnd l) next
  | headLost p => exact told (headLost_acts p .refl) (headLost_tieSide p s) next
  | recordStale p => exact told (recordStale_acts p .refl) (recordStale_tieSide p s) next
  | headReadComplete d => exact plain (readComplete_acts d .refl) (readComplete_tieSide d s) next
  | headReadTimeout => exact plain (readTimeout_acts .refl) (readTimeout_tieSide s) next
  | headWritePosted => exact plain (writePosted_acts .refl) (writePosted_tieSide s) next
  | discoveryReadyEnd => exact plain (readyEnd_acts .refl) (readyEnd_tieSide s) next
  | discoveryReadSilent => exact event_tieRight h h.readSilent next
  | pickExpiry x => exact told (pickExpired_acts x .refl) (pickExpired_tieSide x s) next
  | dropFastExpiry x => exact told (dropExpired_acts x .refl) (dropExpired_tieSide x s) next
  | auxAccepted c l => exact event_tieRight h (h.auxAccept c l) next
  | prtAccepted c l => exact event_tieRight h (h.prtAccept c l) next
  | rdyRckAccepted c w l =>
    exact told (readyAccept_acts c w l .refl) (modChan_tieSide c _ s (by cases w <;> rfl)) next
  | closePulseEnd c => exact plain (closePulseOver_acts c .refl) (closePulseOver_tieSide c s) next
  | tripPulseEnd c => exact plain (tripPulseOver_acts c .refl) (tripPulseOver_tieSide c s) next
  | closeConfirmDeadline c => exact event_tieRight h (h.closeDeadline c) next
  | tripConfirmDeadline c => exact event_tieRight h (h.tripDeadline c) next
  | tReturnExpiry n => exact event_tieRight h (h.deeds (timerOver_deeds .tReturn .refl)) next
  | tSyncWaitExpiry n => exact event_tieRight h (h.deeds (timerOver_deeds .tSyncWait .refl)) next
  | tDecayMaxExpiry n => exact event_tieRight h (h.deeds (timerOver_deeds .tDecayMax .refl)) next
  | tDeadExpiry n => exact event_tieRight h (h.deeds (timerOver_deeds .tDead .refl)) next
  | tOverlapExpiry n => exact event_tieRight h (h.deeds (timerOver_deeds .tOverlap .refl)) next
  | settleExpiry n => exact told (settleOver_acts n .refl) (settleOver_tieSide n s) next
  | blknAccepted a => exact event_tieRight h (h.changeBlock _ rfl) next
  | restoreTimerExpiry i => exact plain (.moves .refl (restoreExpiry_moves i .refl)) (restoreExpiry_tieSide i s) next
  | overloadTimerExpiry i => exact plain (.moves .refl (overloadExpiry_moves i .refl)) (overloadExpiry_tieSide i s) next
  | coolDownExpiry x => exact plain (.moves .refl (coolExpiry_moves x .refl)) (coolExpiry_tieSide x s) next
  | startTimerExpiry x => exact plain (.moves .refl (startExpiry_moves x .refl)) (startExpiry_tieSide x s) next
  | alarmEnd => exact plain (alarmOver_acts .refl) (alarmOver_tieSide s) next
  | frameReceived b => exact act_tieRight h (h.takeByte b true) next
  | frameByteTimeout => exact plain (byteGapOver_acts .refl) (byteGapOver_tieSide s) next
  | replySent => exact plain (endReply_acts .refl) (endReply_tieSide s) next
  | lineByteReceived b g => exact act_tieRight h (h.takeByte b g) next
  | replyStart => exact plain (startReply_acts .refl) (startReply_tieSide s) next
  | _ => exact request _ _ next

/-- Settles O9: the acts of the sequencers leave the roles and the owner of a closed tie, every accepted contact sets them
from the board, and a claim lives only with its close in flight. -/
theorem stepKeepsTieLaws : Obligations.StepKeepsTieLaws := by
  intro s t ⟨sound, early, owner, roles⟩ next
  have kept : t.OwnerRight := by
    refine step_keeps (P := State.OwnerRight) (fun _ _ _ h => h) (fun _ _ _ h k => h.acts k) (fun v out h => ?_)
      (fun v _ _ _ _ _ _ _ => ⟨.booted _ _ _ _ _, ?_, ownerLaw_of_none rfl⟩) (fun v h => ?_) s t ⟨sound, early, owner⟩ next
    · exact h.asserted out
    · exact fun _ => ⟨rfl, fun m => by cases m <;> rfl⟩
    · exact h.ticked
  have right : t.TieRight := by
    unfold step at next
    split at next
    · rename_i c rest _
      exact exec_tieRight (s := { s with pending := rest }) ⟨sound, roles⟩ c next
    · cases next
      exact ⟨kept.1, tieRoles_congr (idle_tieSide s) roles⟩
  exact ⟨kept.1, kept.2.1, kept.2.2, right.2⟩

end Sys2Proof.Machine
end

section
/-! An event of which both sections are told: the reports one after another, whichever section stands first (R87, R88, R135 to
R141). -/

namespace Sys2Proof.Machine

variable {s t u : State} {n : Sec} {r r' : Report} {rest l : List Report} {i j k : Nat} {S T : State → Prop}
  {D : Report → Prop} {ch : Chan} {level : Bool}

/-! ### Reports that both sections let pass -/

theorem State.Retested.of_manual (manual : s.mode n = .manual) : s.Retested n := fun wake a =>
  reconsider_manual (s := { s with agenda := a }) manual wake

/-- A section in SYNC towards a source's own entry, or without a target, makes nothing of a claim test. -/
theorem State.Retested.of_sync_own (st : (s.ctx n).state = .sync) (own : ∀ g, (s.ctx n).target = some g → g.entry ≠ .tie) :
    s.Retested n := by
  cases target : (s.ctx n).target with
  | some g => exact .of_sync st target (.inl (own g target))
  | none =>
    intro wake a
    have st : (({ s with agenda := a } : State).ctx n).state = .sync := st
    have target : (({ s with agenda := a } : State).ctx n).target = none := target
    unfold reconsider syncClaim
    rw [st]
    dsimp only
    rw [target, ite_self]

/-- Neither section makes anything of reconsidering, and no page waits to take effect. -/
structure State.BothRetested (s : State) : Prop where
  each    : ∀ q, s.Retested q
  pending : s.pst.pendingPage = none

/-- A section's reports of its own state and feed are for the other section. -/
theorem State.Retested.passes_own (h : s.Retested n.other) (none : s.pst.pendingPage = none) :
    s.passes (.seqState n) ∧ s.passes (.seqFeed n) := by
  refine ⟨fun a => ?_, fun a => h false a⟩
  have calm : testPending { s with agenda := a } = { s with agenda := a } := testPending_calm (s := { s with agenda := a }) none
  exact (congrArg (reconsider n.other true) calm).trans (h true a)

theorem State.BothRetested.passes (h : s.BothRetested) (made : r.retests n) : s.passes r := by
  have both (wake : Bool) (a : List Report) : forSecs (fun q => reconsider q wake) { s with agenda := a } = { s with agenda := a } := by
    unfold forSecs
    dsimp only
    rw [h.each .sec1 wake a, h.each .sec2 wake a]
  rcases made with rfl | rfl | rfl | ⟨x, rfl⟩
  · exact ((h.each n.other).passes_own h.pending).1
  · exact ((h.each n.other).passes_own h.pending).2
  · exact both false
  · exact both true

/-! ### Reports taken while something holds -/

/-- The state meets P, and reports wait in it: these, and at most so many more of one kind. -/
def Makes (P : State → Prop) (D : Report → Prop) (k : Nat) (a : List Report) (u : State) : Prop :=
  P u ∧ ∃ l, u.agenda = a ++ l ∧ (∀ r ∈ l, D r) ∧ l.length ≤ k

theorem Makes.more (h : Makes S D j (rest ++ l) t) (kind : ∀ r ∈ l, D r) (few : l.length ≤ i) : Makes S D (i + j) rest t := by
  obtain ⟨holds, l', agenda, kind', few'⟩ := h
  refine ⟨holds, l ++ l', agenda.trans (List.append_assoc ..), fun r mem => ?_, ?_⟩
  · exact (List.mem_append.mp mem).elim (kind r) (kind' r)
  · rw [List.length_append]
    omega

/-- u is s but for the reports that wait. -/
def Likewise (s u : State) : Prop := ∃ a, u = { s with agenda := a }

theorem Likewise.makes (h : Likewise s u) (pass : s.passes r) (a : List Report) :
    Makes (Likewise s) D k a (handle r { u with agenda := a }) := by
  obtain ⟨_, rfl⟩ := h
  have passed : handle r { s with agenda := a } = { s with agenda := a } := pass a
  exact ⟨⟨a, passed⟩, [], (congrArg State.agenda passed).trans (List.append_nil a).symm, nofun, Nat.zero_le k⟩

theorem Likewise.gen (h : Likewise s u) (g : s.NoGenerator) : u.NoGenerator := by
  obtain ⟨_, rfl⟩ := h
  exact g

namespace Reaches

theorem trans (h : Reaches i s t) (g : Reaches j t u) : Reaches (i + j) s u := fun m => by
  rw [Nat.add_comm i, ← Nat.add_assoc, h, g]

/-- Reports each of which keeps S are taken. -/
theorem many (gen : ∀ u, S u → u.NoGenerator) (l : List Report) (front : s.agenda = l ++ rest) (holds : S s)
    (keep : ∀ r ∈ l, ∀ u a, S u → Makes S D k a (handle r { u with agenda := a })) :
    ∃ t, Makes S D (k * l.length) rest t ∧ Reaches l.length s t := by
  induction l generalizing s rest with
  | nil => exact ⟨s, ⟨holds, [], by simpa using front, nofun, by simp⟩, .refl s⟩
  | cons r l ih =>
    obtain ⟨holds', l', agenda, kind, few⟩ := keep r List.mem_cons_self s (l ++ rest) holds
    obtain ⟨t, made, reached⟩ := ih (agenda.trans (List.append_assoc ..)) holds' fun q mem => keep q (List.mem_cons_of_mem _ mem)
    refine ⟨t, ?_, .acts front rfl (gen _ holds') reached⟩
    rw [List.length_cons, Nat.mul_succ, Nat.add_comm]
    exact made.more kind few

/-- Of two reports one takes S to T, and the other keeps both: whichever stands first, T comes of them. -/
theorem two (genS : ∀ u, S u → u.NoGenerator) (genT : ∀ u, T u → u.NoGenerator)
    (front : s.agenda = r :: r' :: rest ∨ s.agenda = r' :: r :: rest) (holds : S s)
    (act : ∀ u a, S u → Makes T D k a (handle r { u with agenda := a }))
    (keep : ∀ u a, S u → Makes S D k a (handle r' { u with agenda := a }))
    (keep' : ∀ u a, T u → Makes T D k a (handle r' { u with agenda := a })) :
    ∃ t, Makes T D (k + k) rest t ∧ Reaches 2 s t := by
  rcases front with front | front
  · obtain ⟨holds', l, agenda, kind, few⟩ := act s (r' :: rest) holds
    have last := keep' _ (rest ++ l) holds'
    exact ⟨_, last.more kind few, .acts front rfl (genT _ holds') (.acts agenda rfl (genT _ last.1) (.refl _))⟩
  · obtain ⟨holds', l, agenda, kind, few⟩ := keep s (r :: rest) holds
    have last := act _ (rest ++ l) holds'
    exact ⟨_, last.more kind few, .acts front rfl (genS _ holds') (.acts agenda rfl (genT _ last.1) (.refl _))⟩

end Reaches

/-- Where every report that waits passes, the event is over. -/
theorem drain_passes (g : s.NoGenerator) (pass : ∀ r ∈ s.agenda, s.passes r) (few : s.agenda.length ≤ j) :
    drain j s = { s with agenda := [] } := by
  have taken := Takes.passing s.agenda (rest := []) (List.append_nil _).symm g pass (.done rfl)
  rw [← Nat.add_sub_cancel' few]
  exact taken.drained _

/-! ### A new AUX level with both sections told -/

/-- The acceptance of a new AUX level moves no announcement. -/
theorem auxFollowed_anns (ch : Chan) (level : Bool) (s : State) : (auxFollowed ch level s).lmg.anns = s.lmg.anns := by
  have tie := (tieFromBoard_tieOnly (modChan ch (fun r => r.auxChanged level s.now) s)).eq
  have moved : (modChan ch (fun r => r.auxChanged level s.now) s).lmg = s.lmg := by rw [modChan_agenda]
  have board : (tieFromBoard (modChan ch (fun r => r.auxChanged level s.now) s)).lmg = s.lmg :=
    (congrArg State.lmg tie :).trans moved
  unfold auxFollowed
  dsimp only
  have formed (q : State) : (formIslands q).lmg.anns = q.lmg.anns := rfl
  refine (superviseAll_onlyShed _).anns.trans ((formed _).trans (congrArg LmgState.anns ?_))
  split
  · exact (congrArg State.lmg (post_eq _ _) :).trans board
  · exact board

/-- The event of a new AUX level of which both sections are told: the reports of the board come first, then those to the two
sections, of which one section's acts, and then that of the operation. -/
theorem auxAccept_both (n : Sec) (calm : s.Calm) (adopted : s.adopted = true) (new : (s.bcu.get ch).aux.accepted = !level)
    (told : ∀ q, (auxFollowed ch level s).told ch q = true)
    (genS : ∀ u, S u → u.NoGenerator) (genT : ∀ u, T u → u.NoGenerator) (holds : ∀ a, S { auxFollowed ch level s with agenda := a })
    (heads : ∀ r, r = .availability ch ∨ r = .tieOwner → ∀ u a, S u → Makes S D k a (handle r { u with agenda := a }))
    (act : ∀ u a, S u → Makes T D k a
      (handle (.contact n ch ((s.bcu.get ch).contactKind level) (s.bcu.get ch).op) { u with agenda := a }))
    (keep : ∀ u a, S u → Makes S D k a
      (handle (.contact n.other ch ((s.bcu.get ch).contactKind level) (s.bcu.get ch).op) { u with agenda := a }))
    (keep' : ∀ u a, T u → Makes T D k a
      (handle (.contact n.other ch ((s.bcu.get ch).contactKind level) (s.bcu.get ch).op) { u with agenda := a })) :
    ∃ t j, Makes T D (k * 2 + (k + k)) (operationReports ch ((s.bcu.get ch).contactKind level) (s.bcu.get ch).op
      ((s.bcu.get ch).measured s.now)) t ∧ 4090 ≤ j ∧ exec (.auxAccepted ch level) s = .next (drain j t) := by
  obtain ⟨l, agenda, only, short⟩ := (auxFollowed_follows ch level s).agenda
  obtain ⟨kind, hk⟩ : ∃ kind, kind = (s.bcu.get ch).contactKind level := ⟨_, rfl⟩
  obtain ⟨op, ho⟩ : ∃ op, op = (s.bcu.get ch).op := ⟨_, rfl⟩
  rw [← hk, ← ho] at act keep keep' ⊢
  obtain ⟨ops, hops⟩ : ∃ ops, ops = operationReports ch kind op ((s.bcu.get ch).measured s.now) := ⟨_, rfl⟩
  have accepted : auxAccept ch level s = { auxFollowed ch level s with
      agenda := l ++ (.contact .sec1 ch kind op :: .contact .sec2 ch kind op :: ops) } := by
    rw [auxAccept_eq new adopted, agenda, calm.2, ← hk, ← ho, hops]
    unfold contactReports
    rw [told .sec1, told .sec2]
    rfl
  rw [← hops]
  generalize auxFollowed ch level s = f at accepted holds
  obtain ⟨v, ⟨holdsV, l', agendaV, kindV, fewV⟩, reachedV⟩ := Reaches.many (s := auxAccept ch level s) (D := D) (k := k) genS l
    (by rw [accepted]) (by rw [accepted]; exact holds _) fun r mem => heads r (only r mem)
  have front : v.agenda = .contact n ch kind op :: .contact n.other ch kind op :: (ops ++ l') ∨
      v.agenda = .contact n.other ch kind op :: .contact n ch kind op :: (ops ++ l') := by
    rw [agendaV]
    cases n with
    | sec1 => exact .inl rfl
    | sec2 => exact .inr rfl
  obtain ⟨t, made, reachedT⟩ := Reaches.two genS genT front holdsV act keep keep'
  obtain ⟨j, bound, ends⟩ := (reachedV.trans reachedT).settled (by rw [accepted]; exact genS _ (holds _)) (by omega)
  have few : l'.length ≤ k * 2 := fewV.trans (Nat.mul_le_mul_left k short)
  exact ⟨t, j, made.more kindV few, bound, by rw [exec_event (f := auxAccept ch level) rfl calm.1, ends]⟩

end Sys2Proof.Machine
end

section
/-! A close confirmed on a closed tie: the island is fed again, or the roles are exchanged (R118, R135, R136). -/

namespace Sys2Proof.Machine

variable {s t u f : State} {n q : Sec} {x y : Src} {e : SecEntry} {o : Operation} {c : SecCtx} {l : List Report} {ch : Chan}
  {level : Bool}

theorem sec_eq_or_other (p q : Sec) : p = q ∨ p = q.other := by cases p <;> cases q <;> simp [Sec.other]

/-! ### The board behind a closed tie -/

/-- An island of both sections has one source path where one incomer of the four is closed. -/
theorem closedPaths_all_single (only : ∀ z, s.closed (srcChan z) = true ↔ z = x) : s.closedPaths allSecs = [x] := by
  have mem : ∀ z, z ∈ s.closedPaths allSecs ↔ z = x := fun z => by
    unfold State.closedPaths
    rw [List.mem_filter, Bool.and_eq_true, only]
    exact ⟨fun h => h.2.2, fun h => ⟨by cases z <;> decide, by cases z <;> decide, h⟩⟩
  have perm : (s.closedPaths allSecs).Perm [x] := (List.perm_ext_iff_of_nodup (List.Nodup.filter _ (by decide)) (by simp)).mpr
    fun z => (mem z).trans List.mem_singleton.symm
  exact List.perm_singleton.mp perm

theorem mem_closedPaths_all : x ∈ s.closedPaths allSecs ↔ s.closed (srcChan x) = true := by
  unfold State.closedPaths
  rw [List.mem_filter, Bool.and_eq_true]
  exact ⟨fun h => h.2.2, fun h => ⟨by cases x <;> decide, by cases x <;> decide, h⟩⟩

theorem paths_joined (shut : s.closed .bkt = true) (n : Sec) : s.paths n = s.closedPaths allSecs := by
  unfold State.paths State.islandOf
  rw [if_pos shut]

theorem adoptedFeed_single (path : s.paths n = [x]) : s.adoptedFeed n = some (pathEntry n x) := by
  unfold State.adoptedFeed State.islandSource
  rw [path]
  rfl

theorem told_joined (shut : s.closed .bkt = true) (ch : Chan) (q : Sec) : s.told ch q = true := by
  unfold State.told
  rw [shut, Bool.or_true]

theorem pathEntry_own (mine : srcSec x = n) : pathEntry n x = srcEntry x := if_pos mine

theorem pathEntry_tie (theirs : srcSec x ≠ n) : pathEntry n x = .tie := if_neg theirs

theorem own_pathEntry {z : Src} (is : (some (pathEntry n x)).bind (ownSource n) = some z) : x = z := by
  have is : ownSource n (pathEntry n x) = some z := is
  unfold pathEntry at is
  split at is
  · rename_i mine
    exact Option.some.inj ((own_srcEntry mine).symm.trans is)
  · cases is

namespace AuxFollowed

variable (h : AuxFollowed s ch level t)
include h

theorem closed : t.closed ch = level := by
  unfold State.closed
  rw [h.bcu, ByChan.get_set_self, (auxChanged_rest (s.bcu.get ch) level s.now).1]

theorem closed_other {d : Chan} (ne : d ≠ ch) : t.closed d = s.closed d := by
  unfold State.closed
  rw [h.bcu, ByChan.get_set_other _ _ (Ne.symm ne)]

theorem plan : t.plan = s.plan := by unfold State.plan; rw [h.pst]

theorem mode (q : Sec) : t.mode q = s.mode q := by unfold State.mode; rw [h.mdc]

theorem gen (g : s.NoGenerator) : t.NoGenerator := fun x => by rw [h.plan]; exact g x

theorem srcState (x : Src) : t.srcState x = s.srcState x := by unfold State.srcState; rw [h.squ]

end AuxFollowed

/-- A state with its reports aside, as the acts of a section find it. -/
theorem Acted.begins (n : Sec) (t : State) (a : List Report) : Acted n { t with agenda := [] } (t.ctx n) (t.ccu.watches.get n) t.bcu
    t.owner t.lmg a { t with agenda := a } := by
  refine ⟨⟨t.spt, t.mdc.alarm, t.freeCount, ?_⟩, rfl, .of_spt rfl rfl⟩
  simp [State.ctx]

/-! ### A close confirmed, of which both sections are told -/

/-- Both sections are in AUTO behind a closed tie, with no return in their way. -/
structure State.Joined (s : State) : Prop where
  calm    : s.Calm
  gen     : s.NoGenerator
  pending : s.pst.pendingPage = none
  adopted : s.adopted = true
  auto    : ∀ q, s.mode q = .auto
  stays   : ∀ q, s.plan.sec q .autoReturn = 0
  shut    : s.closed .bkt = true

/-- On a dead island a section's open transition closes an incomer, and the other section is fed or in SYNC. -/
structure ClosesInto (s : State) (q : Sec) (e : SecEntry) (y : Src) (o : Operation) : Prop where
  joined  : s.Joined
  st      : (s.ctx q).state = .closing
  opens   : (s.ctx q).closedTrans = false
  runs    : (s.ctx q).closeStop = false
  target  : (s.ctx q).target = some e
  own     : ownSource e.sec e.entry = some y
  dead    : s.closedPaths allSecs = []
  closing : (s.bcu.get (srcChan y)).position = .closing
  op      : (s.bcu.get (srcChan y)).op = some o
  req     : o.requester = .seq q
  goes    : o.stopped = false
  up      : s.srcState y ≠ .down
  other   : (s.ctx q.other).state = .fed ∨ (s.ctx q.other).state = .sync ∧
    (s.ctx q.other).feed = some (pathEntry q.other y) ∧ ∀ g, (s.ctx q.other).target = some g → g.entry ≠ .tie

namespace ClosesInto

variable (h : ClosesInto s q e y o)
include h

theorem chan : entryChan e = srcChan y := entryChan_of_own h.own

theorem given : (if e.sec = q then e.entry else .tie) = pathEntry q y := by
  have sec := srcSec_of_own h.own
  have entry := srcEntry_of_own h.own
  unfold pathEntry
  rw [sec, entry]

theorem fresh : (s.bcu.get (srcChan y)).aux.accepted = false := by
  by_contra closed
  have mem : y ∈ s.closedPaths allSecs := mem_closedPaths_all.mpr (by unfold State.closed; simpa using closed)
  rw [h.dead] at mem
  cases mem

theorem shut : (auxFollowed (srcChan y) true s).closed .bkt = true :=
  ((auxFollowed_follows (srcChan y) true s).closed_other (Ne.symm (srcChan_ne_bkt y))).trans h.joined.shut

theorem path : (auxFollowed (srcChan y) true s).closedPaths allSecs = [y] := closedPaths_all_single fun z => by
  refine ⟨fun closed => ?_, fun same => same ▸ (auxFollowed_follows (srcChan y) true s).closed⟩
  by_contra ne
  rw [(auxFollowed_follows (srcChan y) true s).closed_other (fun same => ne (srcChan_inj same))] at closed
  have mem := mem_closedPaths_all.mpr closed
  rw [h.dead] at mem
  cases mem

theorem retested : (auxFollowed (srcChan y) true s).BothRetested where
  each p := by
    have due : (auxFollowed (srcChan y) true s).returnDue p = false :=
      returnDue_of_auto (by rw [(auxFollowed_follows (srcChan y) true s).plan]; exact h.joined.stays p)
    obtain ⟨r, ctx⟩ := (auxFollowed_follows (srcChan y) true s).ctx p
    rcases sec_eq_or_other p q with rfl | rfl
    · exact .of_transfer (.inr (.inl (by rw [ctx]; exact h.st)))
    · rcases h.other with st | ⟨st, -, own⟩
      · exact .of_fed (by rw [ctx]; exact st) due
      · exact .of_sync_own (by rw [ctx]; exact st) (by rw [ctx]; exact own)
  pending := by rw [(auxFollowed_follows (srcChan y) true s).pst]; exact h.joined.pending

/-- The other section is told of the closing, which gives the island its one path: that feeds it (R113, R136). -/
theorem gains (a : List Report) : let f := auxFollowed (srcChan y) true s
    handle (.contact q.other (srcChan y) .confirmClose (some o)) { f with agenda := a } =
      setFeed q.other (some (pathEntry q.other y)) { f with agenda := a } := by
  intro f
  have followed := auxFollowed_follows (srcChan y) true s
  obtain ⟨r, ctx⟩ := (auxFollowed_follows (srcChan y) true s).ctx q.other
  obtain ⟨r', ctxQ⟩ := (auxFollowed_follows (srcChan y) true s).ctx q
  obtain ⟨u, hu⟩ : ∃ u : State, u = { f with agenda := a } := ⟨_, rfl⟩
  have ctxU : u.ctx q.other = { s.ctx q.other with role := r } := by rw [hu]; exact ctx
  have ctxUQ : u.ctx q = { s.ctx q with role := r' } := by rw [hu]; exact ctxQ
  have auto : u.mode q.other = .auto := by rw [hu]; exact (followed.mode q.other).trans (h.joined.auto q.other)
  have shut : u.closed .bkt = true := by rw [hu]; exact h.shut
  have path : u.paths q.other = [y] := by rw [paths_joined shut, hu]; exact h.path
  have away : (u.ctx q.other).state ≠ .closing ∧ (u.ctx q.other).state ≠ .halted := by
    rw [ctxU]
    rcases h.other with st | ⟨st, -⟩ <;> exact ⟨by simp [st], by simp [st]⟩
  have permitted : u.permittedClose q.other (srcChan y) (some o) = true := by
    unfold State.permittedClose State.closingOn State.targetChan
    dsimp only
    rw [h.req, h.goes, shut]
    dsimp only
    rw [ctxUQ]
    dsimp only
    rw [h.st, h.target, Option.map_some, h.chan]
    simp
  have first : u.firstPath q.other (srcChan y) = true := by
    unfold State.firstPath
    rw [path]
    simp
  have gained : gainPath q.other u = setFeed q.other (some (pathEntry q.other y)) u := by
    unfold gainPath
    dsimp only
    rw [adoptedFeed_single path, ctxU]
    rcases h.other with st | ⟨st, feed, -⟩
    · simp [st]
    · simp only [st, feed, if_true]
      exact (if_pos (by rw [ctxU]; exact feed) : setFeed q.other _ u = u).symm
  rw [← hu]
  show contactSeen q.other (srcChan y) .confirmClose (some o) u = _
  rw [contactSeen_closes auto away.2 (.inl rfl)]
  unfold closeSeen
  rw [if_neg (fun both => away.1 (eq_of_beq (Bool.and_eq_true_iff.mp both.2).1)), if_neg (fun both => ?_), if_pos first, gained]
  rcases both.1 with no | no
  · exact no rfl
  · rw [permitted] at no
    cases no

/-- The section that closes is not told of its own closing as of a contact. -/
theorem confirms (a : List Report) (seqs : u.ctx q = (auxFollowed (srcChan y) true s).ctx q) (modes : u.mdc = s.mdc) :
    handle (.contact q (srcChan y) .confirmClose (some o)) { u with agenda := a } = { u with agenda := a } := by
  obtain ⟨r, ctx⟩ := (auxFollowed_follows (srcChan y) true s).ctx q
  have ctx : ({ u with agenda := a } : State).ctx q = { s.ctx q with role := r } := seqs.trans ctx
  refine contact_confirmed ?_ (by rw [ctx]; exact h.st) ?_ (some o)
  · show u.mdc.modes.get q = _
    rw [modes]
    exact h.joined.auto q
  · unfold State.targetChan
    rw [ctx]
    dsimp only
    rw [h.target, Option.map_some, h.chan]

/-- The state in which the island's one path feeds the other section. -/
def gained (s : State) (q : Sec) (y : Src) : State := setFeed q.other (some (pathEntry q.other y)) (auxFollowed (srcChan y) true s)

/-- The closing is told to both sections, and then to the one that asked for it. -/
theorem told : ∃ l j, (∀ r ∈ l, r = .seqFeed q.other) ∧ l.length ≤ 4 ∧ 4090 ≤ j ∧ exec (.auxAccepted (srcChan y) true) s =
    .next (drain j { gained s q y with agenda := .closeConfirmed (srcChan y) (.seq q) (s.now - o.trigAt) :: l }) := by
  have followed := auxFollowed_follows (srcChan y) true s
  have gains := h.gains
  have confirms := fun u => h.confirms (u := u)
  have retested := h.retested
  have shut := h.shut
  have gen := followed.gen h.joined.gen
  have kind : (s.bcu.get (srcChan y)).contactKind true = .confirmClose := by simp [ChanRec.contactKind, h.closing]
  have measured : (s.bcu.get (srcChan y)).measured s.now = s.now - o.trigAt := by simp [ChanRec.measured, h.op]
  have back : q.other.other = q := by cases q <;> rfl
  obtain ⟨f, hf⟩ : ∃ f, f = auxFollowed (srcChan y) true s := ⟨_, rfl⟩
  obtain ⟨g, hg⟩ : ∃ g, g = gained s q y := ⟨_, rfl⟩
  have fed : g = setFeed q.other (some (pathEntry q.other y)) f := by rw [hg, hf]; rfl
  rw [← hf] at confirms retested gen shut
  have seqs : g.ctx q = f.ctx q := by
    rw [fed, setFeed_eq]
    exact BySec.get_set_other _ _ (by cases q <;> decide)
  have mdc : g.mdc = s.mdc := by
    rw [fed, setFeed_eq, hf]
    exact followed.mdc
  have genG : g.NoGenerator := by
    rw [fed, setFeed_eq]
    exact gen
  have heads (r : Report) (is : r = .availability (srcChan y) ∨ r = .tieOwner) (u : State) (a : List Report) (like : Likewise f u) :
      Makes (Likewise f) (fun r => r = .seqFeed q.other) 1 a (handle r { u with agenda := a }) :=
    like.makes (retested.passes (n := q) (.inr (.inr (is.symm.imp id fun e => ⟨_, e⟩)))) a
  have act (u : State) (a : List Report) (like : Likewise f u) : Makes (Likewise g) (fun r => r = .seqFeed q.other) 1 a
      (handle (.contact q.other (srcChan y) .confirmClose (some o)) { u with agenda := a }) := by
    obtain ⟨_, rfl⟩ := like
    have made := gains a
    rw [← hf] at made
    refine ⟨⟨(setFeed q.other (some (pathEntry q.other y)) { f with agenda := a }).agenda, made.trans ?_⟩, _, (congrArg State.agenda made).trans (setFeed_agenda ..), ?_, ?_⟩
    · rw [fed, setFeed_eq, setFeed_eq, State.ctx, State.ctx]
    · intro r mem
      split at mem
      · cases mem
      · exact List.mem_singleton.mp mem
    · split <;> simp
  have keep (v : State) (same : v.ctx q = f.ctx q) (modes : v.mdc = s.mdc) (u : State) (a : List Report) (like : Likewise v u) :
      Makes (Likewise v) (fun r => r = .seqFeed q.other) 1 a
        (handle (.contact q.other.other (srcChan y) .confirmClose (some o)) { u with agenda := a }) := by
    rw [back]
    exact like.makes (fun a => confirms v a same modes) a
  obtain ⟨t, j, ⟨⟨a, rfl⟩, l, agenda, only, few⟩, bound, ends⟩ := auxAccept_both (ch := srcChan y) (level := true) (k := 1)
    (S := Likewise f) (T := Likewise g) (D := fun r => r = .seqFeed q.other) q.other h.joined.calm h.joined.adopted h.fresh
    (fun p => told_joined (hf ▸ shut) _ p) (fun u like => like.gen gen) (fun u like => like.gen genG)
    (fun a => ⟨a, by rw [hf]⟩) heads (by rw [kind, h.op]; exact act) (by rw [kind, h.op]; exact keep f rfl (hf ▸ followed.mdc))
    (by rw [kind, h.op]; exact keep g seqs mdc)
  rw [kind, h.op, measured] at agenda
  have reports : operationReports (srcChan y) .confirmClose (some o) (s.now - o.trigAt) =
      [.closeConfirmed (srcChan y) (.seq q) (s.now - o.trigAt)] := by rw [← h.req]; rfl
  rw [reports] at agenda
  have agenda : a = .closeConfirmed (srcChan y) (.seq q) (s.now - o.trigAt) :: l := agenda
  exact ⟨l, j, only, few, bound, by rw [ends, agenda, hg]⟩

/-- The section that closed takes the confirmation: its transfer is done (R118, R126). -/
theorem confirmed {r : Role} {k : Nat} (ctx : u.ctx q = { s.ctx q with role := r }) (auto : u.mode q = .auto)
    (shut : u.closed .bkt = true) (now : u.now = s.now) :
    handle (.closeConfirmed (srcChan y) (.seq q) k) u = transferDone q e (s.now - (s.ctx q).openMs) k .loss u := by
  show closeConfirmed (srcChan y) q k u = _
  unfold closeConfirmed State.closingOn State.targetChan State.auto
  rw [auto, ctx]
  dsimp only
  rw [h.st, h.target, Option.map_some, h.chan, if_pos (by simp)]
  dsimp only
  rw [h.opens, if_neg (by decide)]
  unfold openConfirmed
  dsimp only
  rw [ctx, shut, now]
  dsimp only
  rw [h.runs]
  simp

/-- What the closing leaves before it is told to the section that asked for it. -/
theorem gained_facts : let g := gained s q y
    (∃ r, g.ctx q = { s.ctx q with role := r }) ∧
    (∃ r, g.ctx q.other = { s.ctx q.other with role := r, feed := some (pathEntry q.other y) }) ∧
    (g.ctx (srcSec y)).role = .supplying ∧ (g.ctx (srcSec y).other).role = .dependent ∧ g.owner = some (srcSec y).other ∧
    g.pst = s.pst ∧ g.mdc = s.mdc ∧ g.squ = s.squ ∧ g.ccu = s.ccu ∧ g.now = s.now ∧ g.closed .bkt = true := by
  intro g
  have followed := auxFollowed_follows (srcChan y) true s
  obtain ⟨-, one, -⟩ := followed.tie
  obtain ⟨supplying, dependent, owner⟩ := one y h.shut h.path
  obtain ⟨r, ctxQ⟩ := followed.ctx q
  obtain ⟨r', ctxP⟩ := followed.ctx q.other
  have shut := h.shut
  have fed : g = setFeed q.other (some (pathEntry q.other y)) (auxFollowed (srcChan y) true s) := rfl
  rw [setFeed_eq] at fed
  generalize auxFollowed (srcChan y) true s = f at *
  have gCtxQ : g.ctx q = f.ctx q := by
    rw [fed]
    exact BySec.get_set_other _ _ (by cases q <;> decide)
  have gCtxP : g.ctx q.other = { f.ctx q.other with feed := some (pathEntry q.other y) } := by
    rw [fed]
    exact BySec.get_set_self _ _ _
  have role (p : Sec) : (g.ctx p).role = (f.ctx p).role := by
    rcases sec_eq_or_other p q with rfl | rfl
    · rw [gCtxQ]
    · rw [gCtxP]
  refine ⟨⟨r, gCtxQ.trans ctxQ⟩, ⟨r', by rw [gCtxP, ctxP]⟩, (role _).trans supplying, (role _).trans dependent, ?_⟩
  rw [fed]
  exact ⟨owner, followed.pst, followed.mdc, followed.squ, followed.ccu, followed.now, shut⟩

/-- The close is confirmed: the section that closed is fed by the path, and the other section of the island with it (R118, R136). -/
theorem ends : ∃ t r, exec (.auxAccepted (srcChan y) true) s = .next t ∧ t.FedOn q (some (pathEntry q y)) ∧
    (t.ctx (srcSec y)).role = .supplying ∧ (t.ctx (srcSec y).other).role = .dependent ∧ t.owner = some (srcSec y).other ∧
    t.ctx q.other = { s.ctx q.other with role := r, feed := some (pathEntry q.other y) } ∧
    t.ccu.watches.get q.other = s.ccu.watches.get q.other ∧
    t.Noted (.transferDone q (s.ctx q).origin (some e) (s.ctx q).method (s.now - (s.ctx q).openMs) (s.ctx q).closeRec.angleSlip
      (some (s.now - o.trigAt))) := by
  obtain ⟨⟨r, ctxQ⟩, ⟨r', ctxP⟩, supplying, dependent, owner, pst, mdc, squ, ccu, now, shut⟩ := h.gained_facts
  obtain ⟨l, j, only, few, bound, run⟩ := h.told
  generalize gained s q y = g at *
  have modes : g.mode q = .auto := by
    unfold State.mode
    rw [mdc]
    exact h.joined.auto q
  have handled := h.confirmed (u := { g with agenda := l }) (k := s.now - o.trigAt) ctxQ modes shut now
  obtain ⟨m, anns, -, made, noted, -⟩ := (Acted.begins q g l).transferDone h.given (by rw [ctxQ, h.st]; decide)
    (s.now - (s.ctx q).openMs) (s.now - o.trigAt) .loss
  rw [← handled] at noted made
  obtain ⟨v, hv⟩ : ∃ v, v = handle (.closeConfirmed (srcChan y) (.seq q) (s.now - o.trigAt)) { g with agenda := l } := ⟨_, rfl⟩
  rw [← hv] at noted made
  have planV : v.plan = s.plan := by
    unfold State.plan
    rw [made.pst, ← pst]
  have gen : v.NoGenerator := fun x => by rw [planV]; exact h.joined.gen x
  have ctxV : v.ctx q.other = { s.ctx q.other with role := r', feed := some (pathEntry q.other y) } := made.other.trans ctxP
  have due (p : Sec) : v.returnDue p = false := returnDue_of_auto (by rw [planV]; exact h.joined.stays p)
  have rests : v.BothRetested := by
    refine ⟨fun p => ?_, by rw [made.pst]; exact (congrArg PstState.pendingPage pst).trans h.joined.pending⟩
    rcases sec_eq_or_other p q with rfl | rfl
    · exact .of_fed (by rw [made.ctx]; rfl) (due _)
    · rcases h.other with st | ⟨st, -, own⟩
      · exact .of_fed (by rw [ctxV]; exact st) (due _)
      · exact .of_sync_own (by rw [ctxV]; exact st) (by rw [ctxV]; exact own)
  have feeds : v.passes (.fedEntry q .loss) := by
    refine passes_fedEntry (fun z is => ?_) (due q) .loss
    rw [made.ctx] at is
    obtain rfl := own_pathEntry is
    unfold State.srcState
    rw [made.squ]
    exact (congrArg (fun u : SquState => (u.srcs.get y).state) squ) ▸ h.up
  have pass : ∀ p ∈ v.agenda, v.passes p := by
    rw [made.agenda]
    simp only [List.mem_append, List.mem_cons, List.not_mem_nil, or_false, false_or]
    rintro p ((mem | mem) | rfl | rfl)
    · rw [only p mem]
      exact rests.passes (n := q.other) (.inr (.inl rfl))
    · split at mem
      · cases mem
      · rw [List.mem_singleton.mp mem]
        exact rests.passes (n := q) (.inr (.inl rfl))
    · exact rests.passes (n := q) (.inl rfl)
    · exact feeds
  have short : v.agenda.length ≤ 4089 := by
    rw [made.agenda]
    simp only [List.length_append, List.length_cons, List.length_nil]
    split <;> simp <;> omega
  obtain ⟨i, rfl⟩ : ∃ i, j = i + 1 := ⟨j - 1, by omega⟩
  rw [drain_cons (s := { g with agenda := .closeConfirmed (srcChan y) (.seq q) (s.now - o.trigAt) :: l }) i rfl, ← hv,
    runAll_noGenerator gen, drain_passes gen pass (by omega)] at run
  have role (p : Sec) : (v.ctx p).role = (g.ctx p).role := by
    rcases sec_eq_or_other p q with rfl | rfl
    · rw [made.ctx]
      rfl
    · exact congrArg SecCtx.role made.other
  refine ⟨_, r', run, (made.cleared rfl).fedOn_of anns, (role _).trans supplying, (role _).trans dependent, made.owner.trans owner,
    ctxV, made.watch_other.trans ?_, ?_⟩
  · exact congrArg (fun u : CcuState => u.watches.get q.other) ccu
  · rw [ctxQ] at noted
    exact noted

end ClosesInto

end Sys2Proof.Machine
end

section
/-! The tie opens by itself under a dependent section: the supplying one stands, the dependent one loses TIE (R107, R141). -/

namespace Sys2Proof.Machine

variable {s t u f : State} {n q : Sec} {x y z : Src} {e g : Entry} {c : SecCtx} {l : List Report} {r : Report} {F : State → Prop}
  {D : Report → Prop}

/-! ### Entries of its own that a section tests -/

/-- What a section's own entries are tested by is the same in both states (R104). -/
structure State.OwnKept (s t : State) (n : Sec) : Prop where
  src  : ∀ z, srcSec z = n → t.srcState z = s.srcState z
  chan : ∀ z, srcSec z = n → t.bcu.get (srcChan z) = s.bcu.get (srcChan z)

theorem State.OwnKept.targetFits (h : s.OwnKept t n) (own : g ≠ .tie) : t.targetFits n ⟨n, g⟩ = s.targetFits n ⟨n, g⟩ := by
  obtain ⟨z, is⟩ : ∃ z, ownSource n g = some z := by cases n <;> cases g <;> simp [ownSource] at own ⊢
  have mine := srcSec_of_own is
  unfold State.targetFits State.avail
  rw [entrySource_of_own is, entrySource_of_own is, entryChan_of_own is, h.chan z mine]
  have healthy : t.healthy z = s.healthy z := by
    unfold State.healthy
    rw [h.src z mine]
  simp only [State.healthy?, healthy, beq_self_eq_true, Bool.true_or, bne_iff_ne.mpr own, Bool.and_true]

/-- The choice after the loss of TIE with the tie open: the first own entry of the list that fits (R104, R105). -/
theorem choose_untied (role : (t.ctx n).role = .sole) (shut : t.closed .bkt = false) (lost : (t.ctx n).lost = some ⟨.tie, true⟩)
    (plan : t.plan = s.plan) (kept : s.OwnKept t n) :
    t.choose n = ((s.plan.prefs n).find? fun g => g != .tie && s.targetFits n ⟨n, g⟩).map (⟨n, ·⟩) := by
  rw [choose_own role shut, plan]
  congr 2
  funext g
  unfold State.eligible State.excluded
  rw [lost]
  by_cases same : g = .tie
  · subst same
    simp
  · rw [kept.targetFits same]
    have ne : ((⟨n, g⟩ : SecEntry) == ⟨n, .tie⟩) = false := beq_eq_false_iff_ne.mpr fun eq => same (congrArg SecEntry.entry eq)
    simp [ne, same]

/-! ### The opening -/

/-- A dependent section is fed over the tie by the other section's one source path; both are in AUTO. -/
structure TieFeeds (s : State) (n : Sec) (x : Src) : Prop where
  joined : s.Joined
  st     : (s.ctx n).state = .fed
  feed   : (s.ctx n).feed = some .tie
  role   : (s.ctx n).role = .dependent
  path   : s.closedPaths allSecs = [x]
  theirs : srcSec x = n.other
  other  : (s.ctx n.other).state = .fed
  source : (s.ctx n.other).feed = some (srcEntry x)

/-- What the section's acts leave of the state that the tie's opening has made. -/
def SplitFrom (f : State) (n : Sec) (u : State) : Prop :=
  ∃ c w m, Acted n { f with agenda := [] } c w f.bcu f.owner m [] { u with agenda := [] }

/-- The section has lost TIE, and waits or has begun a transfer (R105 to R107). -/
structure LostTie (s : State) (n : Sec) (u : State) : Prop where
  role  : (u.ctx n).role = .sole
  lost  : (u.ctx n).lost = some ⟨.tie, true⟩
  opened : (u.ctx n).openMs = s.now
  waits : s.afterLoss n .tie = none → u.Waits n
  moves : ∀ g, s.afterLoss n .tie = some g → u.DecayBegun n ⟨n, g⟩ ∧
    u.Noted (.transferBegin n (some ⟨n, .tie⟩) (some ⟨n, g⟩) false .externalOpen)

theorem LostTie.reports (h : LostTie s n u) (a : List Report) : LostTie s n { u with agenda := a } :=
  ⟨h.role, h.lost, h.opened, h.waits, h.moves⟩

/-- The reports that such a loss makes. -/
def Report.ofLoss (n : Sec) (r : Report) : Prop := r = .seqFeed n ∨ r = .seqState n ∨ r = .decayTest n []

theorem passes_decayTest_away (away : (u.ctx n).state ≠ .decay) (passed : List SecEntry) : u.passes (.decayTest n passed) := by
  intro a
  show testDecay n false passed ({ u with agenda := a } : State) = _
  unfold testDecay
  rw [if_neg]
  intro both
  exact away (eq_of_beq (Bool.and_eq_true_iff.mp both).2)

namespace TieFeeds

variable (h : TieFeeds s n x)
include h

/-- The board with the tie open: each section stands alone (R7, R128). -/
theorem board : let f := auxFollowed .bkt false s
    f.closed .bkt = false ∧ f.owner = none ∧ (∀ p, f.ctx p = { s.ctx p with role := .sole }) ∧ f.paths n = [] ∧
    f.adoptedFeed n.other = some (srcEntry x) := by
  intro f
  have followed := auxFollowed_follows .bkt false s
  have opened : f.closed .bkt = false := followed.closed
  obtain ⟨alone, -, -⟩ := followed.tie
  obtain ⟨owner, roles⟩ := alone opened
  have closed (z : Src) : f.closed (srcChan z) = true ↔ z = x := by
    rw [followed.closed_other (srcChan_ne_bkt z), ← mem_closedPaths_all, h.path, List.mem_singleton]
  refine ⟨opened, owner, fun p => ?_, paths_none opened fun z mine => ?_, ?_⟩
  · obtain ⟨r, ctx⟩ := followed.ctx p
    have role := roles p
    rw [ctx] at role
    rw [ctx]
    exact congrArg (fun r => { s.ctx p with role := r }) role
  · by_contra shut
    obtain rfl := (closed z).mp (by simpa using shut)
    have bad := mine.symm.trans h.theirs
    cases n <;> cases bad
  · have path : f.paths n.other = [x] := paths_single opened h.theirs ((closed x).mpr rfl) fun z _ ne => by
      by_contra shut
      exact ne ((closed z).mp (by simpa using shut))
    rw [adoptedFeed_single path, pathEntry_own h.theirs]

theorem fresh : (s.bcu.get .bkt).aux.accepted = true := h.joined.shut

theorem retested : (auxFollowed .bkt false s).BothRetested where
  each p := by
    obtain ⟨-, -, ctx, -⟩ := h.board
    refine .of_fed ?_ (returnDue_of_auto (by rw [(auxFollowed_follows .bkt false s).plan]; exact h.joined.stays p))
    rw [ctx]
    rcases sec_eq_or_other p n with rfl | rfl
    · exact h.st
    · exact h.other
  pending := by rw [(auxFollowed_follows .bkt false s).pst]; exact h.joined.pending

/-- The supplying section stands: its own path feeds it still (R141). -/
theorem stands {kind : ContactKind} {op : Option Operation} (opens : kind = .externalOpen ∨ kind = .protectionOpen)
    (same : u.ctx n.other = (auxFollowed .bkt false s).ctx n.other) (bcu : u.bcu = (auxFollowed .bkt false s).bcu)
    (modes : u.mdc.modes = s.mdc.modes) : u.passes (.contact n.other .bkt kind op) := by
  obtain ⟨-, -, ctx, -, adopted⟩ := h.board
  have ctx : u.ctx n.other = { s.ctx n.other with role := .sole } := same.trans (ctx _)
  intro a
  obtain ⟨v, hv⟩ : ∃ v : State, v = { u with agenda := a } := ⟨_, rfl⟩
  have ctxV : v.ctx n.other = { s.ctx n.other with role := .sole } := by rw [hv]; exact ctx
  have auto : v.mode n.other = .auto := by
    rw [hv]
    show u.mdc.modes.get n.other = _
    rw [modes]
    exact h.joined.auto _
  have adopted : v.adoptedFeed n.other = some (srcEntry x) := (adoptedFeed_congr (by rw [hv]; exact bcu) _).trans adopted
  rw [← hv]
  show contactSeen n.other .bkt kind op v = v
  rw [contactSeen_opens auto (by rw [ctxV]; simp [h.other]) (.inr opens)]
  unfold openSeen otherOpened
  dsimp only
  rw [ctxV]
  dsimp only
  rw [h.other, h.source, feedChan_own (own_srcEntry h.theirs), adopted]
  dsimp only
  rw [if_neg (fun same => srcChan_ne_bkt x (Option.some.inj same)), if_pos rfl]

/-- The tie has opened, and the dependent section alone acts. -/
theorem ends (opens : (s.bcu.get .bkt).contactKind false = .externalOpen ∨ (s.bcu.get .bkt).contactKind false = .protectionOpen)
    (stable : ∀ u a, F u → F { u with agenda := a })
    (act : ∀ a, Makes (fun u => SplitFrom (auxFollowed .bkt false s) n u ∧ F u) D 4 a
      (handle (.contact n .bkt ((s.bcu.get .bkt).contactKind false) (s.bcu.get .bkt).op)
        { auxFollowed .bkt false s with agenda := a }))
    (pass : ∀ u, SplitFrom (auxFollowed .bkt false s) n u → F u → ∀ r, D r → u.passes r) :
    ∃ u, SplitFrom (auxFollowed .bkt false s) n u ∧ F u ∧ exec (.auxAccepted .bkt false) s = .next { u with agenda := [] } := by
  have followed := auxFollowed_follows .bkt false s
  have stands := fun u => h.stands (u := u) (op := (s.bcu.get .bkt).op) opens
  have retested := h.retested
  have gen := followed.gen h.joined.gen
  have told (p : Sec) : (auxFollowed .bkt false s).told .bkt p = true := by
    unfold State.told chanOf
    rfl
  have ext : ((s.bcu.get .bkt).contactKind false).external = true := by rcases opens with e | e <;> rw [e] <;> rfl
  have split {u : State} (made : SplitFrom (auxFollowed .bkt false s) n u) : u.NoGenerator ∧
      u.ctx n.other = (auxFollowed .bkt false s).ctx n.other ∧ u.bcu = (auxFollowed .bkt false s).bcu ∧
      u.mdc.modes = s.mdc.modes := by
    obtain ⟨c, w, m, acted⟩ := made
    exact ⟨fun y => by rw [show u.plan = _ from acted.plan]; exact gen y, acted.other, acted.bcu,
      acted.modes.trans (congrArg MdcState.modes followed.mdc)⟩
  obtain ⟨t, j, ⟨⟨made, holds⟩, l, agenda, only, few⟩, bound, run⟩ := auxAccept_both (ch := .bkt) (level := false) (k := 4)
    (S := Likewise (auxFollowed .bkt false s)) (T := fun u => SplitFrom (auxFollowed .bkt false s) n u ∧ F u) (D := D) n
    h.joined.calm h.joined.adopted h.fresh told (fun u like => like.gen gen) (fun u made => (split made.1).1) (fun a => ⟨a, rfl⟩)
    (fun r is u a like => like.makes (retested.passes (n := n) (.inr (.inr (is.symm.imp id fun e => ⟨_, e⟩)))) a)
    (fun u a like => by obtain ⟨_, rfl⟩ := like; exact act a)
    (fun u a like => like.makes (stands _ rfl rfl (congrArg MdcState.modes followed.mdc)) a)
    (fun u a made => by
      obtain ⟨-, ctx, bcu, modes⟩ := split made.1
      have passed := stands u ctx bcu modes a
      exact ⟨by rw [passed]; exact ⟨made.1, stable u a made.2⟩, [], by rw [passed, List.append_nil], nofun, Nat.zero_le 4⟩)
  rw [operationReports_external _ ext, List.nil_append] at agenda
  refine ⟨t, made, holds, ?_⟩
  rw [run, drain_passes (split made).1 (fun r mem => pass t made holds r (only r (agenda ▸ mem))) (by rw [agenda]; omega)]

/-! ### The dependent section's loss -/

theorem held (same : t.ctx n.other = { s.ctx n.other with role := .sole }) (shut : t.closed .bkt = false)
    (blocked : t.blocked = s.blocked) (settle : t.mdc.settle = s.mdc.settle) : t.held n = s.held n := by
  have tie : srcEntry x ≠ .tie := own_ne_tie (own_srcEntry h.theirs)
  have serving : s.serving = none := by
    have two : ((s.ctx .sec1).role == .sole && (s.ctx .sec2).role == .sole) = false := by
      cases n with
      | sec1 => rw [h.role]; rfl
      | sec2 => rw [h.role, Bool.and_comm]; rfl
    unfold State.serving
    rw [Bool.and_assoc, two, Bool.and_false]
    rfl
  unfold State.held State.heldBy
  dsimp only
  rw [serving_none shut, serving, blocked, settle, same]

theorem loses {op : Option Operation} (a : List Report) :
    Makes (fun u => SplitFrom (auxFollowed .bkt false s) n u ∧ LostTie s n u) (·.ofLoss n) 4 a
      (handle (.contact n .bkt .externalOpen op) { auxFollowed .bkt false s with agenda := a }) := by
  have followed := auxFollowed_follows .bkt false s
  obtain ⟨shut, -, ctx, dead, -⟩ := h.board
  have kept : s.OwnKept (auxFollowed .bkt false s) n := ⟨fun z _ => followed.srcState z, fun z _ => by
    rw [followed.bcu, ByChan.get_set_other _ _ (Ne.symm (srcChan_ne_bkt z))]⟩
  have same (u : State) (other : u.ctx n.other = (auxFollowed .bkt false s).ctx n.other) : u.ctx n.other =
      { s.ctx n.other with role := .sole } := other.trans (ctx _)
  have holds := fun u => h.held (t := u)
  generalize auxFollowed .bkt false s = f at *
  have plan := followed.plan
  have seen : handle (.contact n .bkt .externalOpen op) { f with agenda := a } =
      loseFeed n .externalOpen true { f with agenda := a } := by
    have auto : ({ f with agenda := a } : State).mode n = .auto := (followed.mode n).trans (h.joined.auto n)
    have ctx : ({ f with agenda := a } : State).ctx n = { s.ctx n with role := .sole } := ctx n
    show contactSeen n .bkt .externalOpen op _ = _
    rw [contactSeen_opens auto (by rw [ctx]; simp [h.st]) (.inr (.inl rfl)), openSeen_feed (by rw [ctx]; exact .inl h.st)
      (by rw [ctx]; dsimp only; rw [h.feed]; rfl)]
    unfold feedOpened judgeLeft
    rw [if_neg (by decide), show ({ f with agenda := a } : State).paths n = [] from dead]
  obtain ⟨u, losing, acted⟩ := (Acted.begins n f a).loses (by rw [ctx]; exact h.feed) .externalOpen true
  rw [seen, losing]
  rw [if_pos rfl, ctx] at acted
  have shutU : u.closed .bkt = false := (acted.closed .bkt).trans shut
  have planU : u.plan = s.plan := acted.plan.trans plan
  have heldU : u.held n = s.held n := holds u (same u acted.other) shutU
    (acted.blocked.trans (by unfold State.blocked; rw [show ({ f with agenda := [] } : State).mdc = s.mdc from followed.mdc]))
    (acted.settles.trans (congrArg MdcState.settle followed.mdc))
  have chosen : u.choose n = ((s.plan.prefs n).find? fun g => g != .tie && s.targetFits n ⟨n, g⟩).map (⟨n, ·⟩) :=
    choose_untied (by rw [acted.ctx]; rfl) shutU (by rw [acted.ctx]; rfl) planU
      ⟨fun z mine => (acted.srcState z).trans (kept.src z mine), fun z mine => by rw [acted.bcu]; exact kept.chan z mine⟩
  cases next : s.afterLoss n .tie with
  | none =>
    have made := acted.enter_resting (st := .waitSource) rfl (by show (s.ctx n).state ≠ _; rw [h.st]; decide)
    have no : u.held n = true ∨ u.choose n = none := by
      rw [heldU, chosen]
      unfold State.afterLoss at next
      split at next
      · rename_i held
        exact .inl held
      · exact .inr (by rw [next]; rfl)
    rw [select_waits no]
    have cleared := made.cleared rfl
    refine ⟨⟨⟨_, _, _, cleared⟩, by rw [made.ctx]; rfl, by rw [made.ctx]; rfl, by rw [made.ctx]; exact followed.now, fun _ => made.waits rfl,
      fun g is => ?_⟩, _, by rw [made.agenda, List.append_assoc]; rfl, ?_, by simp⟩
    · rw [next] at is
      cases is
    · simp [Report.ofLoss]
  | some g =>
    obtain ⟨free, found⟩ : s.held n = false ∧ ((s.plan.prefs n).find? fun g => g != .tie && s.targetFits n ⟨n, g⟩) = some g := by
      unfold State.afterLoss at next
      split at next
      · cases next
      · rename_i held
        exact ⟨by simpa using held, next⟩
    rw [select_takes (heldU.trans free) (by rw [chosen, found]; rfl) (by rw [acted.ctx]; show (s.ctx n).state ≠ _; rw [h.st]; decide)]
    have begun := acted.beginTransfer .externalOpen false ⟨n, g⟩
    have noted := acted.beginTransfer_noted .externalOpen false ⟨n, g⟩
    rw [SecCtx.chosen_fresh _ _ _ (by decide)] at begun noted
    generalize Machine.beginTransfer n .externalOpen false ⟨n, g⟩ u = v at begun noted
    rw [Acted.openTransition_open fun y old => ?_]
    · have made := begun.enterDecay (by show (s.ctx n).state ≠ _; rw [h.st]; decide)
      have cleared := made.cleared rfl
      refine ⟨⟨⟨_, _, _, cleared⟩, by rw [made.ctx]; rfl, by rw [made.ctx]; rfl, by rw [made.ctx]; exact followed.now, fun is => ?_,
        fun g' is => ?_⟩, _, by rw [made.agenda, List.append_assoc]; rfl, ?_, by simp⟩
      · rw [next] at is
        cases is
      · rw [next] at is
        obtain rfl := Option.some.inj is
        exact ⟨made.decayBegun rfl rfl, (enterDecay_moves n .refl).notesGrow.noted noted⟩
      · simp [Report.ofLoss]
    · unfold State.oldChan at old
      rw [begun.ctx] at old
      obtain rfl : Chan.bkt = y := Option.some.inj old
      exact (begun.closed .bkt).trans shut

/-- With the tie locked and its PRT asserted the section halts (R107). -/
theorem halts {op : Option Operation} (a : List Report) :
    Makes (fun u => SplitFrom (auxFollowed .bkt false s) n u ∧ u.HaltedWith n .fed .busFault (some .bkt) ∧ (u.ctx n).feed = none ∧
      (u.ctx n).role = .sole) (·.retests n) 4 a
      (handle (.contact n .bkt .protectionOpen op) { auxFollowed .bkt false s with agenda := a }) := by
  have followed := auxFollowed_follows .bkt false s
  obtain ⟨shut, owner, ctx, dead, -⟩ := h.board
  generalize auxFollowed .bkt false s = f at *
  have seen : handle (.contact n .bkt .protectionOpen op) { f with agenda := a } =
      halt n .busFault (some .bkt) (setFeed n none { f with agenda := a }) := by
    have auto : ({ f with agenda := a } : State).mode n = .auto := (followed.mode n).trans (h.joined.auto n)
    have ctx : ({ f with agenda := a } : State).ctx n = { s.ctx n with role := .sole } := ctx n
    show contactSeen n .bkt .protectionOpen op _ = _
    rw [contactSeen_opens auto (by rw [ctx]; simp [h.st]) (.inr (.inr rfl)), openSeen_feed (by rw [ctx]; exact .inl h.st)
      (by rw [ctx]; dsimp only; rw [h.feed]; rfl)]
    unfold feedOpened
    rw [if_pos rfl]
  have stopping := (Acted.begins n f a).setFeed none
  have feeds : (setFeed n none { f with agenda := a }).adoptedFeed n = none := by
    unfold State.adoptedFeed State.islandSource
    rw [paths_of_bcu stopping.bcu, dead]
    rfl
  have halted := stopping.halt_haltedWith .busFault (some .bkt)
  obtain ⟨o', anns, made, retests, kept, acted⟩ := stopping.halt .busFault (some .bkt)
  rw [kept (by rw [owner]; nofun), feeds] at acted
  rw [seen]
  have cleared := acted.cleared rfl
  have few := retests.few
  have told := Retests.feedMade (n := n) ((f.ctx n).feed = none)
  refine ⟨⟨⟨_, _, _, cleared⟩, ?_, ?_, ?_⟩, _, by rw [acted.agenda, List.append_assoc]; rfl, ?_, ?_⟩
  · have left : (f.ctx n).state = .fed := by rw [ctx]; exact h.st
    rw [show ({ f.ctx n with feed := none } : SecCtx).state = .fed from left] at halted
    exact halted
  · rw [acted.ctx]
    rfl
  · rw [acted.ctx]
    show (f.ctx n).role = _
    rw [ctx]
  · exact fun r mem => (List.mem_append.mp mem).elim (told.each r) (retests.each r)
  · rw [List.length_append]
    have one := told.few
    omega

/-- The supplying section makes nothing of what the dependent one does. -/
theorem other_retested (made : SplitFrom (auxFollowed .bkt false s) n u) : u.Retested n.other ∧ u.pst.pendingPage = none := by
  have followed := auxFollowed_follows .bkt false s
  obtain ⟨-, -, ctx, -⟩ := h.board
  obtain ⟨c, w, m, acted⟩ := made
  have other : u.ctx n.other = { s.ctx n.other with role := .sole } := acted.other.trans (ctx _)
  have plan : u.plan = s.plan := acted.plan.trans followed.plan
  have pst : u.pst = s.pst := acted.pst.trans followed.pst
  exact ⟨.of_fed (by rw [other]; exact h.other) (returnDue_of_auto (by rw [plan]; exact h.joined.stays _)),
    by rw [pst]; exact h.joined.pending⟩

/-- The tie opens by itself: the dependent section loses TIE (R107, R141). -/
theorem opens (closed : (s.bcu.get .bkt).position = .isClosed) (live : (s.squ.buses.get n).state ≠ .dead) :
    ∃ t, exec (.auxAccepted .bkt false) s = .next t ∧ t.owner = none ∧ t.ctx n.other = { s.ctx n.other with role := .sole } ∧
      LostTie s n t := by
  have followed := auxFollowed_follows .bkt false s
  obtain ⟨-, owner, ctx, -⟩ := h.board
  have kind := (contactKind_followed (level := false) (.inr closed)).1
  have pass (u : State) (made : SplitFrom (auxFollowed .bkt false s) n u) (lost : LostTie s n u) (r : Report) (is : r.ofLoss n) :
      u.passes r := by
    obtain ⟨other, pending⟩ := h.other_retested made
    obtain ⟨state, feed⟩ := other.passes_own pending
    obtain ⟨c, w, m, acted⟩ := made
    rcases is with rfl | rfl | rfl
    · exact feed
    · exact state
    · cases next : s.afterLoss n .tie with
      | none =>
        obtain ⟨waits, -⟩ := lost.waits next
        exact passes_decayTest_away (by rw [waits]; decide) []
      | some g =>
        obtain ⟨⟨-, -, -, early, early', -⟩, -⟩ := lost.moves g next
        have squ : u.squ = s.squ := acted.squ.trans followed.squ
        exact passes_decayTest (closeCondition_none (fun now => live (by rw [← squ]; exact now.1)) early' early) []
  obtain ⟨u, ⟨c, w, m, acted⟩, lost, run⟩ := h.ends (F := LostTie s n) (D := (·.ofLoss n)) (.inl kind) (fun _ a lost => lost.reports a)
    (by rw [kind]; exact h.loses) pass
  exact ⟨_, run, acted.owner.trans owner, acted.other.trans (ctx _), lost.reports []⟩

/-- The tie, locked with its PRT asserted, opens: the dependent section halts (R107). -/
theorem opens_locked (locked : (s.bcu.get .bkt).position = .locked) (prot : (s.bcu.get .bkt).prot.accepted = true) :
    ∃ t, exec (.auxAccepted .bkt false) s = .next t ∧ t.owner = none ∧ t.ctx n.other = { s.ctx n.other with role := .sole } ∧
      t.HaltedWith n .fed .busFault (some .bkt) ∧ (t.ctx n).feed = none ∧ (t.ctx n).role = .sole := by
  have followed := auxFollowed_follows .bkt false s
  obtain ⟨-, owner, ctx, -⟩ := h.board
  have kind := (contactKind_held (level := false) (.inr locked)).1
  rw [if_neg (by decide), if_pos ⟨locked, prot⟩] at kind
  have pass (u : State) (made : SplitFrom (auxFollowed .bkt false s) n u) (halted : u.HaltedWith n .fed .busFault (some .bkt) ∧
      (u.ctx n).feed = none ∧ (u.ctx n).role = .sole) (r : Report) (is : r.retests n) : u.passes r := by
    obtain ⟨other, pending⟩ := h.other_retested made
    obtain ⟨⟨state, -⟩, -⟩ := halted
    have both : u.BothRetested := ⟨fun p => by
      rcases sec_eq_or_other p n with rfl | rfl
      · exact .of_transfer (.inr (.inr (.inr state)))
      · exact other, pending⟩
    exact both.passes is
  obtain ⟨u, ⟨c, w, m, acted⟩, halted, run⟩ := h.ends (F := fun u => u.HaltedWith n .fed .busFault (some .bkt) ∧
    (u.ctx n).feed = none ∧ (u.ctx n).role = .sole) (D := (·.retests n)) (.inr kind) (fun _ _ halted => halted)
    (by rw [kind]; exact h.halts) pass
  exact ⟨_, run, acted.owner.trans owner, acted.other.trans (ctx _), halted⟩

end TieFeeds

end Sys2Proof.Machine
end

section
/-! The end of a parallel of one path of each section, with one section in AUTO (R123, R143; log entry 44). -/

namespace Sys2Proof.Machine

variable {s t u f : State} {n p q : Sec} {x y z : Src} {e g : Entry} {c : SecCtx} {w : Option Watch} {b : ByChan ChanRec}
  {o : Option Sec} {m : LmgState} {l : List Report} {r : Report} {ch : Chan}

/-! ### What two sections leave that rest on a path -/

/-- The board, the pages, the modes and the sources are as they were, and so are the roles and the tie owner. -/
structure BoardKept (f u : State) : Prop where
  bcu   : u.bcu = f.bcu
  owner : u.owner = f.owner
  pst   : u.pst = f.pst
  modes : u.mdc.modes = f.mdc.modes
  squ   : u.squ = f.squ
  role  : ∀ p, (u.ctx p).role = (f.ctx p).role

namespace BoardKept

theorem refl (f : State) : BoardKept f f := ⟨rfl, rfl, rfl, rfl, rfl, fun _ => rfl⟩

theorem acted (h : BoardKept f u) (k : Acted p { u with agenda := [] } c w u.bcu u.owner m l t) (role : c.role = (u.ctx p).role) :
    BoardKept f t where
  bcu := k.bcu.trans h.bcu
  owner := k.owner.trans h.owner
  pst := k.pst.trans h.pst
  modes := k.modes.trans h.modes
  squ := k.squ.trans h.squ
  role q := by
    rcases sec_eq_or_other q p with rfl | rfl
    · rw [k.ctx, role, h.role]
    · exact (congrArg SecCtx.role k.other).trans (h.role _)

variable (h : BoardKept f u)
include h

theorem plan : u.plan = f.plan := by unfold State.plan; rw [h.pst]

theorem mode (p : Sec) : u.mode p = f.mode p := by unfold State.mode; rw [h.modes]

theorem gen (g : f.NoGenerator) : u.NoGenerator := fun y => by rw [h.plan]; exact g y

theorem reports (a : List Report) : BoardKept f { u with agenda := a } := ⟨h.bcu, h.owner, h.pst, h.modes, h.squ, h.role⟩

end BoardKept

/-- The section is fed as it was, and has no announcement if it had none. -/
structure StillFed (f : State) (n : Sec) (u : State) : Prop where
  board : BoardKept f u
  state : (u.ctx n).state.fedRest
  feed  : (u.ctx n).feed = (f.ctx n).feed
  ann   : f.lmg.anns.get n = none → u.lmg.anns.get n = none

/-- The section rests in FED on this entry. -/
structure NowFed (f : State) (n : Sec) (e : Entry) (u : State) : Prop where
  board : BoardKept f u
  rests : ∃ c : SecCtx, u.ctx n = SecCtx.into { c with feed := some e } .fed
  watch : u.ccu.watches.get n = none
  ann   : f.lmg.anns.get n = none → u.lmg.anns.get n = none

/-- The reports that the two sections make of it. -/
def Report.ofRests (n : Sec) (r : Report) : Prop := r.ofRest n ∨ r = .seqFeed n ∨ r = .seqFeed n.other ∨ r = .seqState n.other

/-! ### The sections' acts -/

/-- A section in MANUAL follows the board (R165). -/
theorem Acted.track (h : Acted n s c w b o m l t) : ∃ c' w' m' l', Acted n s c' w' b o m' (l ++ l') (track n t) ∧
    c'.role = c.role ∧ m'.anns.get n.other = m.anns.get n.other ∧ (∀ r ∈ l', r = .seqFeed n ∨ r = .seqState n) ∧ l'.length ≤ 2 := by
  have feeds (e : Option Entry) : ∀ r ∈ (if c.feed = e then [] else [Report.seqFeed n]), r = .seqFeed n ∨ r = .seqState n := by
    intro r mem
    split at mem
    · cases mem
    · exact .inl (List.mem_singleton.mp mem)
  have moves (e : Option Entry) (st : SeqState) : ∃ c' w' m' l', Acted n s c' w' b o m' (l ++ l')
      (Machine.enter n st (Machine.setFeed n e t)) ∧ c'.role = c.role ∧ m'.anns.get n.other = m.anns.get n.other ∧
      (∀ r ∈ l', r = .seqFeed n ∨ r = .seqState n) ∧ l'.length ≤ 2 := by
    have made := (h.setFeed e).enter st
    rw [List.append_assoc] at made
    refine ⟨_, _, _, _, made, rfl, ?_, fun r mem => ?_, ?_⟩
    · dsimp only
      unfold annsIn
      split
      · exact BySec.get_set_other _ _ (by cases n <;> decide)
      · rfl
    · rcases List.mem_append.mp mem with mem | mem
      · exact feeds e r mem
      · split at mem
        · cases mem
        · exact .inr (List.mem_singleton.mp mem)
    · rw [List.length_append]
      split <;> split <;> simp
  unfold Machine.track
  split
  · exact ⟨_, _, _, _, h.setFeed _, rfl, rfl, feeds _, by split <;> simp⟩
  · split
    · exact moves _ .fed
    · exact moves _ .waitSource
    · exact ⟨_, _, _, [], by rwa [List.append_nil], rfl, rfl, nofun, by simp⟩

/-- A fed section reconsiders at a report of either kind. -/
theorem Acted.reconsiders_any (h : Acted n s c w b o m l t) (auto : s.mode n = .auto) (rest : c.state.fedRest) (wake : Bool) :
    Reconsidered n s c b o m l (reconsider n wake t) := by
  cases wake with
  | true => exact h.reconsiders auto rest
  | false =>
    by_cases fed : c.state = .fed
    · have same : reconsider n false t = t := by
        unfold reconsider
        rw [h.ctx, fed]
        exact ite_self _
      rw [same]
      exact h.stays rest
    · have same : reconsider n false t = reconsider n true t := by
        unfold reconsider
        rw [h.ctx]
        rcases rest with st | st | st
        · exact absurd st fed
        · rw [st]
        · rw [st]
      rw [same]
      exact h.reconsiders auto rest

/-- The other section follows the board, which is nothing to the section that is fed. -/
theorem track_kept (board : BoardKept f u) (a : List Report) : ∃ l, (track n.other { u with agenda := a }).agenda = a ++ l ∧
    (∀ r ∈ l, r.ofRests n) ∧ l.length ≤ 4 ∧ BoardKept f (track n.other { u with agenda := a }) ∧
    (track n.other { u with agenda := a }).ctx n = u.ctx n ∧
    (track n.other { u with agenda := a }).ccu.watches.get n = u.ccu.watches.get n ∧
    (track n.other { u with agenda := a }).lmg.anns.get n = u.lmg.anns.get n := by
  have back : n.other.other = n := by cases n <;> rfl
  obtain ⟨c, w, m, l, made, role, anns, only, few⟩ := (Acted.begins n.other u a).track
  have ctx := made.other
  have watch := made.watch_other
  rw [back] at ctx watch anns
  refine ⟨l, made.agenda, fun r mem => ?_, by omega, board.acted made role, ctx, watch, by rw [made.lmg]; exact anns⟩
  exact (only r mem).elim (fun e => .inr (.inr (.inl e))) fun e => .inr (.inr (.inr e))

/-- A fed section that reconsiders is still fed. -/
theorem StillFed.reconsiders (h : StillFed f n u) (auto : f.mode n = .auto) (wake : Bool) (a : List Report) :
    Makes (StillFed f n) (·.ofRests n) 4 a (reconsider n wake { u with agenda := a }) := by
  obtain ⟨c, w, m, l, made, stays, anns, only, few⟩ := ((Acted.begins n u a).reconsiders_any ((h.board.mode n).trans auto) h.state
    wake).acted
  refine ⟨⟨h.board.acted made stays.role, by rw [made.ctx]; exact stays.state, by rw [made.ctx, stays.feed]; exact h.feed,
    fun none => ?_⟩, l, made.agenda, fun r mem => .inl (only r mem), by omega⟩
  rw [made.lmg]
  rcases anns with rfl | rfl
  · exact h.ann none
  · exact BySec.get_set_self _ _ _

/-- It rests on the entry that the island's one path gives it (R123). -/
theorem StillFed.rests (h : StillFed f n u) (e : Entry) (a : List Report) :
    Makes (NowFed f n e) (·.ofRests n) 4 a (restOn n e { u with agenda := a }) := by
  have made := (((Acted.begins n u a).setFeed (some e)).enter .fed).report (.fedEntry n .loss)
  rw [List.append_assoc, List.append_assoc] at made
  refine ⟨⟨h.board.acted made rfl, ⟨_, made.ctx⟩, made.watch, fun none => ?_⟩, _, made.agenda, fun r mem => ?_, ?_⟩
  · refine (congrArg (fun m : LmgState => m.anns.get n) made.lmg).trans ?_
    dsimp only
    unfold annsIn
    split
    · exact BySec.get_set_self _ _ _
    · exact h.ann none
  · simp only [List.mem_append, List.mem_singleton] at mem
    rcases mem with mem | mem | mem
    · split at mem
      · cases mem
      · exact .inr (.inl (List.mem_singleton.mp mem))
    · split at mem
      · cases mem
      · exact .inl (.inl (List.mem_singleton.mp mem))
    · exact .inl (.inr (.inl mem))
  · simp only [List.length_append]
    split <;> split <;> simp

/-! ### The event -/

/-- A parallel of one path of each section ends: of the two closed incomers the one of source z opens and that of w stays. One
section is in AUTO and fed, by the opening incomer or over the tie; the other is in MANUAL. -/
structure ParallelEnds (s : State) (n : Sec) (z w : Src) : Prop where
  calm    : s.Calm
  gen     : s.NoGenerator
  pending : s.pst.pendingPage = none
  adopted : s.adopted = true
  auto    : s.mode n = .auto
  manual  : s.mode n.other = .manual
  stays   : s.plan.sec n .autoReturn = 0
  shut    : s.closed .bkt = true
  rest    : (s.ctx n).state.fedRest
  closed  : ∀ v, s.closed (srcChan v) = true ↔ v = z ∨ v = w
  opens   : (s.bcu.get (srcChan z)).position = .isClosed
  up      : srcSec w = n → s.srcState w ≠ .down
  feed    : (s.ctx n).feed = some (srcEntry z) ∧ srcSec z = n ∧ srcSec w = n.other ∨
    (s.ctx n).feed = some .tie ∧ srcSec z = n.other ∧ srcSec w = n

namespace ParallelEnds

variable {w : Src} (h : ParallelEnds s n z w)
include h

theorem ne : w ≠ z := by
  rintro rfl
  rcases h.feed with ⟨-, mine, theirs⟩ | ⟨-, theirs, mine⟩ <;> cases n <;> rw [mine] at theirs <;> cases theirs

theorem fresh : (s.bcu.get (srcChan z)).aux.accepted = true := (h.closed z).mpr (.inl rfl)

/-- The board that the opening leaves: one path, which the section that holds it supplies the other by (R7). -/
theorem board : let f := auxFollowed (srcChan z) false s
    f.closed .bkt = true ∧ f.closedPaths allSecs = [w] ∧ (f.ctx (srcSec w)).role = .supplying ∧
    (f.ctx (srcSec w).other).role = .dependent ∧ f.owner = some (srcSec w).other := by
  intro f
  have followed := auxFollowed_follows (srcChan z) false s
  have shut : f.closed .bkt = true := (followed.closed_other (Ne.symm (srcChan_ne_bkt z))).trans h.shut
  have path : f.closedPaths allSecs = [w] := closedPaths_all_single fun v => by
    by_cases same : v = z
    · subst same
      rw [followed.closed]
      exact ⟨nofun, fun e => absurd e.symm h.ne⟩
    · rw [followed.closed_other (fun e => same (srcChan_inj e)), h.closed]
      exact or_iff_right same
  obtain ⟨-, one, -⟩ := followed.tie
  exact ⟨shut, path, one w shut path⟩

theorem begins (a : List Report) : StillFed (auxFollowed (srcChan z) false s) n { auxFollowed (srcChan z) false s with agenda := a } := by
  obtain ⟨r, ctx⟩ := (auxFollowed_follows (srcChan z) false s).ctx n
  refine ⟨(BoardKept.refl _).reports a, ?_, rfl, fun none => none⟩
  show ((auxFollowed (srcChan z) false s).ctx n).state.fedRest
  rw [ctx]
  exact h.rest

/-- The section is told, and rests on the path that stays (R123). -/
theorem contact (still : StillFed (auxFollowed (srcChan z) false s) n u) (op : Option Operation) (a : List Report) :
    handle (.contact n (srcChan z) .externalOpen op) { u with agenda := a } = restOn n (pathEntry n w) { u with agenda := a } := by
  have followed := auxFollowed_follows (srcChan z) false s
  obtain ⟨shut, path, -⟩ := h.board
  obtain ⟨r, ctx⟩ := followed.ctx n
  obtain ⟨v, hv⟩ : ∃ v : State, v = { u with agenda := a } := ⟨_, rfl⟩
  have board : BoardKept (auxFollowed (srcChan z) false s) v := hv ▸ still.board.reports a
  have state : (v.ctx n).state.fedRest := by rw [hv]; exact still.state
  have feed : (v.ctx n).feed = (s.ctx n).feed := by
    rw [hv]
    exact still.feed.trans (by rw [ctx])
  have auto : v.mode n = .auto := (board.mode n).trans ((followed.mode n).trans h.auto)
  have path : v.paths n = [w] := by
    rw [paths_of_bcu board.bcu, paths_joined shut, path]
  rw [← hv]
  show contactSeen n (srcChan z) .externalOpen op v = _
  rw [contactSeen_opens auto (by rcases state with e | e | e <;> rw [e] <;> decide) (.inr (.inl rfl))]
  rcases h.feed with ⟨own, mine, theirs⟩ | ⟨tie, theirs, mine⟩
  · rw [openSeen_feed state (by rw [feed, own]; exact feedChan_own (own_srcEntry mine))]
    unfold feedOpened judgeLeft
    rw [if_neg (by decide), path]
  · have other : openSeen n (srcChan z) .externalOpen v = otherOpened n v := by
      have no : feedChan n (v.ctx n).feed ≠ some (srcChan z) := by
        rw [feed, tie]
        exact fun e => srcChan_ne_bkt z (Option.some.inj e).symm
      unfold openSeen
      dsimp only
      rcases state with e | e | e <;> rw [e] <;> exact if_neg no
    rw [other]
    unfold otherOpened
    rw [adoptedFeed_single path]
    dsimp only
    rw [if_neg]
    rw [feed, tie, pathEntry_own mine]
    exact fun e => own_ne_tie (own_srcEntry mine) (Option.some.inj e).symm

/-- The other section in MANUAL is told, and follows the board. -/
theorem contact_other (board : BoardKept (auxFollowed (srcChan z) false s) u) (kind : ContactKind) (op : Option Operation)
    (a : List Report) : handle (.contact n.other (srcChan z) kind op) { u with agenda := a } = track n.other { u with agenda := a } := by
  have manual : ({ u with agenda := a } : State).mode n.other = .manual :=
    (board.mode n.other).trans (((auxFollowed_follows (srcChan z) false s).mode _).trans h.manual)
  show contactSeen n.other (srcChan z) kind op _ = _
  unfold contactSeen State.auto
  rw [manual]
  rfl

/-- The board's own reports make the section reconsider at most. -/
theorem reconsidered (still : StillFed (auxFollowed (srcChan z) false s) n u) (is : r = .availability (srcChan z) ∨ r = .tieOwner)
    (a : List Report) : Makes (StillFed (auxFollowed (srcChan z) false s) n) (·.ofRests n) 4 a (handle r { u with agenda := a }) := by
  have auto := ((auxFollowed_follows (srcChan z) false s).mode n).trans h.auto
  have manual := ((auxFollowed_follows (srcChan z) false s).mode n.other).trans h.manual
  have one (wake : Bool) : forSecs (fun q => reconsider q wake) { u with agenda := a } = reconsider n wake { u with agenda := a } :=
    forSecs_one n (reconsider_manual (s := { u with agenda := a }) ((still.board.mode n.other).trans manual) wake)
      (reconsider_manual ((still.reconsiders auto wake a).1.board.mode n.other |>.trans manual) wake)
  rcases is with rfl | rfl
  · have made := still.reconsiders auto true a
    rwa [← one] at made
  · have made := still.reconsiders auto false a
    rwa [← one] at made

/-- Once the section rests, every report of it passes. -/
theorem passes (fed : NowFed (auxFollowed (srcChan z) false s) n (pathEntry n w) u) (is : r.ofRests n) : u.passes r := by
  have followed := auxFollowed_follows (srcChan z) false s
  obtain ⟨board, ⟨c, ctx⟩, -, -⟩ := fed
  have due : u.returnDue n = false := returnDue_of_auto (by rw [board.plan, followed.plan]; exact h.stays)
  have both : u.BothRetested := by
    refine ⟨fun p => ?_, by rw [board.pst, followed.pst]; exact h.pending⟩
    rcases sec_eq_or_other p n with rfl | rfl
    · exact .of_fed (by rw [ctx]; rfl) due
    · exact .of_manual ((board.mode n.other).trans ((followed.mode _).trans h.manual))
  rcases is with (rfl | rfl | rfl) | rfl | rfl | rfl
  · exact both.passes (n := n) (.inl rfl)
  · refine passes_fedEntry (fun v is => ?_) due .loss
    rw [ctx] at is
    obtain rfl := own_pathEntry is
    have mine : srcSec w = n := by
      by_contra theirs
      rw [pathEntry_tie theirs] at is
      cases is
    unfold State.srcState
    rw [board.squ, followed.squ]
    exact h.up mine
  · exact passes_timerOver (k := .tReturn) (by rw [ctx]; rfl)
  · exact both.passes (n := n) (.inr (.inl rfl))
  · exact both.passes (n := n.other) (.inr (.inl rfl))
  · exact both.passes (n := n.other) (.inl rfl)

/-- The parallel has ended: the section rests on the path that stays, with the roles that the board gives (R7, R123). -/
theorem ends : ∃ t, exec (.auxAccepted (srcChan z) false) s = .next t ∧ (t.ctx n).state = .fed ∧
    (t.ctx n).feed = some (pathEntry n w) ∧ (t.ctx (srcSec w)).role = .supplying ∧ (t.ctx (srcSec w).other).role = .dependent ∧
    t.owner = some (srcSec w).other ∧ (s.lmg.anns.get n = none → t.FedOn n (some (pathEntry n w))) := by
  have followed := auxFollowed_follows (srcChan z) false s
  obtain ⟨shut, path, supplying, dependent, owner⟩ := h.board
  have kind := (contactKind_followed (level := false) (.inr h.opens)).1
  have gen := followed.gen h.gen
  have anns := auxFollowed_anns (srcChan z) false s
  have begins := h.begins
  have contact := fun u still => h.contact (u := u) still (s.bcu.get (srcChan z)).op
  have other := fun u board => h.contact_other (u := u) board .externalOpen (s.bcu.get (srcChan z)).op
  have heads := fun r is u a still => h.reconsidered (u := u) (r := r) still is a
  have passes := fun u fed r => h.passes (u := u) (r := r) fed
  generalize hf : auxFollowed (srcChan z) false s = f at *
  have keep {u : State} (a : List Report) (still : StillFed f n u) : Makes (StillFed f n) (·.ofRests n) 4 a
      (handle (.contact n.other (srcChan z) .externalOpen (s.bcu.get (srcChan z)).op) { u with agenda := a }) := by
    rw [other u still.board a]
    obtain ⟨l, agenda, only, few, board, ctx, -, ann⟩ := track_kept (n := n) still.board a
    exact ⟨⟨board, by rw [ctx]; exact still.state, by rw [ctx]; exact still.feed, fun none => ann.trans (still.ann none)⟩, l, agenda,
      only, few⟩
  have keep' {u : State} (a : List Report) (fed : NowFed f n (pathEntry n w) u) : Makes (NowFed f n (pathEntry n w)) (·.ofRests n) 4 a
      (handle (.contact n.other (srcChan z) .externalOpen (s.bcu.get (srcChan z)).op) { u with agenda := a }) := by
    rw [other u fed.board a]
    obtain ⟨l, agenda, only, few, board, ctx, watch, ann⟩ := track_kept (n := n) fed.board a
    exact ⟨⟨board, by rw [ctx]; exact fed.rests, watch.trans fed.watch, fun none => ann.trans (fed.ann none)⟩, l, agenda, only, few⟩
  obtain ⟨t, j, ⟨fed, l, agenda, only, few⟩, bound, run⟩ := auxAccept_both (ch := srcChan z) (level := false) (k := 4)
    (S := StillFed f n) (T := NowFed f n (pathEntry n w)) (D := (·.ofRests n)) n h.calm h.adopted h.fresh
    (fun p => told_joined (hf ▸ shut) _ p) (fun u still => still.board.gen gen) (fun u fed => fed.board.gen gen)
    (fun a => hf ▸ begins a) heads
    (by rw [kind]; exact fun u a still => contact u still a ▸ still.rests (pathEntry n w) a)
    (by rw [kind]; exact fun u a still => keep a still) (by rw [kind]; exact fun u a fed => keep' a fed)
  rw [kind, operationReports_external _ rfl, List.nil_append] at agenda
  rw [drain_passes (fed.board.gen gen) (fun r mem => passes t fed r (only r (agenda ▸ mem))) (by rw [agenda]; omega)] at run
  obtain ⟨board, ⟨c, ctx⟩, watch, ann⟩ := fed
  refine ⟨_, run, ?_, ?_, (board.role _).trans supplying, (board.role _).trans dependent, board.owner.trans owner, fun none => ?_⟩
  · show (t.ctx n).state = _
    rw [ctx]
    rfl
  · show (t.ctx n).feed = _
    rw [ctx]
    rfl
  · unfold State.FedOn
    dsimp only
    rw [show State.ctx { t with agenda := [] } n = t.ctx n from rfl, ctx]
    exact ⟨rfl, rfl, rfl, rfl, rfl, rfl, rfl, rfl, rfl, rfl, watch, ann (by rw [anns]; exact none)⟩

end ParallelEnds

end Sys2Proof.Machine
end

section
/-! What a section does not notice of the other's acts (R135; log entry 26), and the two sections on a closed tie. -/

namespace Sys2Proof.Machine

variable {s t u : State} {n m : Sec} {x : Src} {c : SecCtx} {r : Report} {k : Nat}

/-! ### The deeds of one section, as the other sees them -/

/-- One section has acted: the other's context and the pages are as they were, and the reports made are the section's own. -/
structure Aside (m : Sec) (s t : State) : Prop where
  other   : t.ctx m.other = s.ctx m.other
  pst     : t.pst = s.pst
  reports : ∃ l, t.agenda = s.agenda ++ l ∧ ∀ r ∈ l, r.ofSec m = true

namespace Aside

theorem refl (m : Sec) (s : State) : Aside m s s := ⟨rfl, rfl, [], (List.append_nil _).symm, nofun⟩

theorem trans (h : Aside m s t) (g : Aside m t u) : Aside m s u := by
  obtain ⟨l, agenda, own⟩ := h.reports
  obtain ⟨l', agenda', own'⟩ := g.reports
  refine ⟨g.other.trans h.other, g.pst.trans h.pst, l ++ l', by rw [agenda', agenda, List.append_assoc], fun r mem => ?_⟩
  exact (List.mem_append.mp mem).elim (own r) (own' r)

/-- An act that makes no report. -/
theorem silent (other : t.ctx m.other = s.ctx m.other) (pst : t.pst = s.pst) (agenda : t.agenda = s.agenda) : Aside m s t :=
  ⟨other, pst, [], by rw [agenda, List.append_nil], nofun⟩

theorem report (s : State) (own : r.ofSec m = true) : Aside m s (report r s) :=
  ⟨rfl, rfl, [r], rfl, fun q mem => by rw [List.mem_singleton.mp mem]; exact own⟩

theorem modChan (ch : Chan) (f : ChanRec → ChanRec) (s : State) : Aside m s (modChan ch f s) := by
  rw [modChan_agenda]
  refine ⟨rfl, rfl, _, rfl, fun r mem => ?_⟩
  rw [(availReports_few s ch _).1 r mem]
  rfl

theorem setOwner (o : Option Sec) (s : State) : Aside m s (setOwner o s) := by
  unfold Machine.setOwner
  split
  · exact refl m s
  · exact ⟨rfl, rfl, [.tieOwner], rfl, fun r mem => by rw [List.mem_singleton.mp mem]; rfl⟩

theorem startTrip (ch : Chan) (q : Requester) (s : State) : Aside m s (startTrip ch q s) := by
  have tripped := modChan (m := m) ch (fun r => r.trip q s.now (s.tripWidth ch) (s.plan.chan ch .tripConfirm)) s
  unfold Machine.startTrip
  dsimp only
  split
  · rename_i o _ _
    refine (tripped.trans (report (r := .closeWithdrawn ch o.requester) _ rfl)).trans ?_
    unfold releaseTieFor
    split
    · exact setOwner none _
    · exact refl m _
  · exact tripped

end Aside

theorem Deeds.aside (h : Deeds m s t) : Aside m s t := by
  induction h with
  | refl => exact .refl m s
  | ctx _ f _ ih => exact ih.trans (.silent (BySec.get_set_other _ _ (by cases m <;> decide)) rfl rfl)
  | report _ r own ih => exact ih.trans (.report _ own)
  | watch _ w ih => exact ih.trans (.silent rfl rfl rfl)
  | noted _ q ih =>
    refine ih.trans ?_
    rw [post_eq]
    exact .silent rfl rfl rfl
  | alarm _ ih => exact ih.trans (.silent rfl rfl rfl)
  | load _ k ih =>
    refine ih.trans (.silent ?_ k.pst_eq (congrArg State.agenda k :))
    unfold State.ctx
    rw [k.seqs_eq]
  | reach _ d ih => exact ih.trans (.silent rfl rfl rfl)
  | trip _ ch q _ ih => exact ih.trans (.startTrip ch q _)
  | close _ ch q _ ih => exact ih.trans (.modChan ch _ _)
  | stop _ ch ih => exact ih.trans (.modChan ch _ _)
  | owner _ o _ ih => exact ih.trans (.setOwner o _)

/-! ### A law that every report of an event keeps -/

/-- What every report of a kind keeps, where its own reports are of the kind too, holds at the event's end. -/
theorem drain_keeps {P : State → Prop} {C : Report → Prop} (gen : ∀ u, P u → u.NoGenerator)
    (keep : ∀ u r a, P u → C r → P (handle r { u with agenda := a }) ∧
      ∃ l, (handle r { u with agenda := a }).agenda = a ++ l ∧ ∀ q ∈ l, C q)
    (k : Nat) (holds : P s) (kind : ∀ r ∈ s.agenda, C r) : P (drain k s) := by
  induction k generalizing s with
  | zero => exact holds
  | succ k ih =>
    cases agenda : s.agenda with
    | nil => exact (drain_none _ agenda).symm ▸ holds
    | cons r rest =>
      rw [agenda] at kind
      obtain ⟨holds', l, agenda', kind'⟩ := keep s r rest holds (kind r List.mem_cons_self)
      rw [drain_cons _ agenda, runAll_noGenerator (gen _ holds')]
      refine ih holds' fun q mem => ?_
      rw [agenda'] at mem
      exact (List.mem_append.mp mem).elim (fun mem => kind q (List.mem_cons_of_mem _ mem)) (kind' q)

/-! ### A section that rests on the tie, beside the other's transfer -/

/-- A section fed over the tie, in a state in which no report of the other section makes it act. -/
structure OnTie (c : SecCtx) : Prop where
  feed   : c.feed = some .tie
  state  : c.state = .fed ∨ c.state = .sync ∨ c.state = .opening
  target : ∀ e, c.target = some e → e.entry ≠ .tie

theorem OnTie.retested (h : OnTie (u.ctx n)) (stays : u.plan.sec n .autoReturn = 0) : u.Retested n := by
  rcases h.state with st | st | st
  · exact .of_fed st (returnDue_of_auto stays)
  · exact .of_sync_own st h.target
  · exact .of_transfer (.inl st)

/-- A source that goes DOWN is no event for it (R135; log entry 26). -/
theorem OnTie.seqSource_down (h : OnTie (u.ctx n)) (stays : u.plan.sec n .autoReturn = 0)
    (away : ∀ e, (u.ctx n).target = some e → u.entrySource e ≠ some x) : seqSource n x .down u = u := by
  have retested := h.retested stays false u.agenda
  unfold seqSource
  split
  · rename_i auto
    dsimp only
    rcases h.state with st | st | st
    · rw [st]
      dsimp only
      rw [if_neg (fun both => both.2 h.feed), evalReturn_not (returnDue_of_auto stays)]
    · have target : u.targetSource n ≠ some x := by
        unfold State.targetSource
        cases is : (u.ctx n).target with
        | none => nofun
        | some e => exact away e is
      have claim : syncClaim n u = u := by
        have same : reconsider n false u = u := retested
        unfold reconsider at same
        rw [if_pos auto, st] at same
        exact same
      rw [st]
      dsimp only
      rw [if_neg (fun both => both.2 h.feed), if_neg (fun both => target both.1), claim]
    · rw [st]
      dsimp only
      rw [if_neg (fun both => both.2 h.feed)]
  · rfl

/-- The state in which a section rests on the tie beside the other's acts. -/
structure Rests (s : State) (n : Sec) (u : State) : Prop where
  ctx : u.ctx n = s.ctx n
  pst : u.pst = s.pst

theorem Rests.plan (h : Rests s n u) : u.plan = s.plan := by unfold State.plan; rw [h.pst]

theorem Rests.aside (h : Rests s n u) (g : Aside n.other u t) : Rests s n t := by
  have back : n.other.other = n := by cases n <;> rfl
  have other := g.other
  rw [back] at other
  exact ⟨other.trans h.ctx, g.pst.trans h.pst⟩

section Quiet

variable (tie : OnTie (s.ctx n)) (stays : s.plan.sec n .autoReturn = 0)
include tie stays

theorem Rests.retested (h : Rests s n u) : u.Retested n :=
  OnTie.retested (h.ctx ▸ tie) (by rw [h.plan]; exact stays)

/-- Both sections reconsider: the one that rests makes nothing of it. -/
theorem Rests.forSecs (h : Rests s n u) (wake : Bool) : Deeds n.other u (forSecs (fun q => reconsider q wake) u) := by
  have still {v : State} (h : Rests s n v) : reconsider n wake v = v := h.retested tie stays wake v.agenda
  have moved := reconsider_deeds (n := n.other) wake (.refl (s := u))
  have first := still h
  have second := still (h.aside moved.aside)
  have only : Machine.forSecs (fun q => reconsider q wake) u = reconsider n.other wake u := by
    unfold Machine.forSecs
    cases n with
    | sec1 =>
      dsimp only
      rw [first]
      rfl
    | sec2 => exact second
  rw [only]
  exact moved

/-- The reports of the other section's acts move that section alone. -/
theorem Rests.handles (h : Rests s n u) (none : s.pst.pendingPage = none) (own : r.ofSec n.other = true) : Deeds n.other u (handle r u) := by
  have still : ∀ wake, reconsider n wake u = u := fun wake => h.retested tie stays wake u.agenda
  have back : n.other.other = n := by cases n <;> rfl
  have calm : testPending u = u := testPending_calm (by rw [h.pst]; exact none)
  cases r with
  | seqState m =>
    obtain rfl : m = n.other := eq_of_beq own
    have same : handle (.seqState n.other) u = u := by
      show reconsider n.other.other true (testPending u) = u
      rw [calm, back, still]
    rw [same]
    exact .refl
  | seqFeed m =>
    obtain rfl : m = n.other := eq_of_beq own
    have same : handle (.seqFeed n.other) u = u := by
      show reconsider n.other.other false u = u
      rw [back, still]
    rw [same]
    exact .refl
  | fedEntry m cause =>
    obtain rfl : m = n.other := eq_of_beq own
    exact fedTests_deeds cause .refl
  | decayTest m passed =>
    obtain rfl : m = n.other := eq_of_beq own
    exact testDecay_deeds false passed .refl
  | timerOver m timer =>
    cases timer with
    | tReturn =>
      obtain rfl : m = n.other := eq_of_beq own
      exact timerOver_deeds .tReturn .refl
    | _ => cases own
  | tieOwner => exact h.forSecs tie stays false
  | availability ch => exact h.forSecs tie stays true
  | closeWithdrawn ch q =>
    cases q with
    | mdc => exact .refl
    | seq p =>
      rcases sec_eq_or_other p n with rfl | rfl
      · have same : closeWithdrawn ch p u = u := by
          unfold closeWithdrawn State.closingOn
          rw [h.ctx]
          rcases tie.state with st | st | st <;> rw [st] <;> simp
        show Deeds p.other u (closeWithdrawn ch p u)
        rw [same]
        exact .refl
      · exact closeWithdrawn_deeds ch .refl
  | _ => cases own

end Quiet

/-- A source goes DOWN: a section that rests on the tie keeps its context through the whole event (R135; log entry 26). -/
theorem sourceDown_quiet {d : Nat} (calm : s.Calm) (gen : s.NoGenerator) (none : s.pst.pendingPage = none)
    (stays : s.plan.sec n .autoReturn = 0) (timer : (s.squ.srcs.get x).timer = some (.drop, d)) (tie : OnTie (s.ctx n))
    (away : ∀ e, (s.ctx n).target = some e → s.entrySource e ≠ some x) :
    ∃ t, exec (.dropFastExpiry x) s = .next t ∧ t.ctx n = s.ctx n := by
  obtain ⟨moved, -⟩ := sourceAt_moved s x d .down (s.squ.srcs.get x).cause
  obtain ⟨v, hv⟩ : ∃ v, v = s.sourceAt x d .down (s.squ.srcs.get x).cause := ⟨_, rfl⟩
  rw [← hv] at moved
  have begins : Rests s n v := ⟨moved.ctx n, moved.pst⟩
  have genR (u : State) (h : Rests s n u) : u.NoGenerator := fun y => by rw [h.plan]; exact gen y
  have still {u : State} (h : Rests s n u) : seqSource n x .down u = u := by
    refine OnTie.seqSource_down (h.ctx ▸ tie) (by rw [h.plan]; exact stays) fun e is => ?_
    have is := h.ctx ▸ is
    have source : u.entrySource e = s.entrySource e := by
      have own := tie.target e is
      unfold State.entrySource
      cases h : e.entry with
      | tie => exact absurd h own
      | _ => rfl
    rw [source]
    exact away e is
  have seen : Deeds n.other v (srcReported x .down v) := by
    have deed := seqSource_deeds (n := n.other) x .down (.refl (s := v))
    have first := still begins
    have second := still (begins.aside deed.aside)
    have only : srcReported x .down v = seqSource n.other x .down v := by
      unfold srcReported
      dsimp only
      rw [if_neg (by decide)]
      cases n with
      | sec1 =>
        rw [first]
        rfl
      | sec2 => exact second
    rw [only]
    exact deed
  have keeps : ∀ k, Rests s n (drain k (report (.srcChanged x (s.squ.srcs.get x).state .down (s.squ.srcs.get x).cause) v)) := by
    intro k
    cases k with
    | zero => exact ⟨begins.ctx, begins.pst⟩
    | succ k =>
      have back : n.other.other = n := by cases n <;> rfl
      have empty : v.agenda = [] := moved.calm.trans calm.2
      have whole : ({ report (.srcChanged x (s.squ.srcs.get x).state .down (s.squ.srcs.get x).cause) v with agenda := [] } : State) = v := by
        rw [← empty]
        rfl
      have next : Rests s n (srcReported x .down v) := begins.aside seen.aside
      obtain ⟨l, agenda, own⟩ := seen.aside.reports
      rw [drain_cons (r := .srcChanged x (s.squ.srcs.get x).state .down (s.squ.srcs.get x).cause) (rest := []) _
        (by rw [report_agenda, empty]; rfl), whole,
        show handle (.srcChanged x (s.squ.srcs.get x).state .down (s.squ.srcs.get x).cause) v = srcReported x .down v from rfl,
        runAll_noGenerator (genR _ next)]
      refine drain_keeps (C := fun r => r.ofSec n.other = true) genR (fun u r a holds own => ?_) k next fun r mem => ?_
      · have deeds := Rests.handles (u := { u with agenda := a }) tie stays ⟨holds.ctx, holds.pst⟩ none own
        exact ⟨Rests.aside (u := { u with agenda := a }) ⟨holds.ctx, holds.pst⟩ deeds.aside, deeds.aside.reports⟩
      · rw [agenda, empty] at mem
        exact own r mem
  refine ⟨_, ?_, (keeps 4096).ctx⟩
  rw [exec_event rfl calm.1, dropExpired_of (.inl timer), changeSrc_reached rfl, ← hv]
  unfold settle
  rw [runAll_noGenerator (s := report _ v) (genR _ ⟨begins.ctx, begins.pst⟩)]

/-! ### Two sections on a closed tie -/

/-- Settles O51: a close confirmed, the tie's opening, a source's DOWN under TIE, and the end of a parallel. -/
theorem twoSectionsAct : Obligations.TwoSectionsAct := by
  intro s n calm gen pending adopted auto stays staysOther shut m c
  have back : n.other.other = n := by cases n <;> rfl
  have joined (other : s.mode m = .auto) : s.Joined := by
    refine ⟨calm, gen, pending, adopted, fun q => ?_, fun q => ?_, shut⟩
    · rcases sec_eq_or_other q n with rfl | rfl
      · exact auto
      · exact other
    · rcases sec_eq_or_other q n with rfl | rfl
      · exact stays
      · exact staysOther
  refine ⟨?exchange, ?refeed, ?opens, ?down, ?ownOpens, ?otherOpens⟩
  case exchange =>
    intro e y o other st opens runs target theirs own fed feed dead closing op kind req goes up
    have own' : ownSource e.sec e.entry = some y := by rw [theirs]; exact own
    have sec := srcSec_of_own own
    have closes : ClosesInto s n e y o := ⟨joined other, st, opens, runs, target, own', dead, closing, op, req, goes, up, .inl fed⟩
    obtain ⟨t, r, run, fedOn, supplying, dependent, owner, ctx, -, noted⟩ := closes.ends
    rw [sec] at supplying dependent owner
    rw [pathEntry_tie (by rw [sec]; cases n <;> decide)] at fedOn
    rw [pathEntry_own sec, srcEntry_of_own own] at ctx
    refine ⟨t, run, fedOn, ?_, ?_, ?_, supplying, ?_, noted⟩
    · rw [← back]
      exact dependent
    · rw [ctx]
      exact fed
    · rw [ctx]
    · rw [← back]
      exact owner
  case refeed =>
    intro e y o other st feed role target stM opens runs targetM mine own dead closing op kind req goes up
    have own' : ownSource e.sec e.entry = some y := by rw [mine]; exact own
    have sec := srcSec_of_own own
    have tie : pathEntry n y = .tie := pathEntry_tie (by rw [sec]; cases n <;> decide)
    have closes : ClosesInto s m e y o := ⟨joined other, stM, opens, runs, targetM, own', dead, closing, op, req, goes, up, by
      rw [back, tie]
      exact .inr ⟨st, feed, target⟩⟩
    obtain ⟨t, r, run, fedOn, supplying, dependent, -, ctx, watch, -⟩ := closes.ends
    rw [back] at ctx watch
    rw [sec] at supplying dependent
    rw [back, ctx] at dependent
    rw [pathEntry_own sec, srcEntry_of_own own] at fedOn
    refine ⟨t, run, ?_, fedOn, supplying, watch⟩
    have dependent : r = .dependent := dependent
    rw [ctx, dependent, tie, ← feed, ← role]
  case opens =>
    intro x other st feed role path theirs fed source supplying next r Split
    have feeds : TieFeeds s n x := ⟨joined other, st, feed, role, path, theirs, fed, source⟩
    refine ⟨fun closed live => ?_, fun locked prot => ?_⟩
    · obtain ⟨t, run, owner, ctx, loses⟩ := feeds.opens closed live
      exact ⟨t, run, ⟨owner, loses.role, ctx⟩, loses.lost, loses.opened, loses.waits, loses.moves⟩
    · obtain ⟨t, run, owner, ctx, halted, none, sole⟩ := feeds.opens_locked locked prot
      exact ⟨t, run, ⟨owner, sole, ctx⟩, halted, none⟩
  case down =>
    intro x d feed source timer st target
    exact sourceDown_quiet calm gen pending stays timer ⟨feed, st.imp id (·.imp id id), fun e is => (target e is).1⟩
      fun e is => (target e is).2
  case ownOpens =>
    intro x y manual rest mineX mineY feed closed opens
    have away : srcSec y ≠ n := by rw [mineY]; cases n <;> decide
    have parallel : ParallelEnds s n x y := ⟨calm, gen, pending, adopted, auto, manual, stays, shut, rest, closed, opens,
      fun mine => absurd mine away, .inl ⟨feed, mineX, mineY⟩⟩
    obtain ⟨t, run, st, fed, supplying, dependent, owner, -⟩ := parallel.ends
    rw [mineY] at supplying dependent owner
    rw [back] at dependent owner
    exact ⟨t, run, st, fed.trans (congrArg some (pathEntry_tie away)), dependent, supplying, owner⟩
  case otherOpens =>
    intro x y manual rest mineX mineY feed closed up opens ann
    have parallel : ParallelEnds s n y x := ⟨calm, gen, pending, adopted, auto, manual, stays, shut, rest,
      fun z => (closed z).trans Or.comm, opens, fun _ => up, .inr ⟨feed, mineY, mineX⟩⟩
    obtain ⟨t, run, -, -, supplying, dependent, owner, fedOn⟩ := parallel.ends
    rw [mineX] at supplying dependent owner
    have fedOn := fedOn ann
    rw [pathEntry_own mineX] at fedOn
    exact ⟨t, run, fedOn, supplying, dependent, owner⟩

end Sys2Proof.Machine
end
